-- ==== Sys2Proof/Word.lean ====
section
/-! DEFINITION. The word types of the Vexhorn and the small data types that instruction operands and
events name. -/

namespace Sys2Proof

/-- A byte of memory. -/
abbrev Byte := BitVec 8

/-- A 32-bit word: a scalar register, an instruction word, a token count. -/
abbrev Word := BitVec 32

/-- A 64-bit word: a uniform register, a message argument, an effective address. -/
abbrev DWord := BitVec 64

/-- A 52-bit context address (R21, R29). -/
abbrev VAddr := BitVec 52

/-- A 6-bit scalar register number, s0 to s63 (R15). -/
abbrev SReg := BitVec 6

/-- A 5-bit uniform register number, g0 to g31 (R15). -/
abbrev GReg := BitVec 5

/-- A 3-bit predicate, join-mask or shape register number (R15). -/
abbrev Reg3 := BitVec 3

/-- A 4-bit token register number, k0 to k15 (R15). -/
abbrev KReg := BitVec 4

/-- A context number, 0 to 4095 (R10). -/
abbrev CtxId := BitVec 12

/-- A core number, 0 to 255 (R10). -/
abbrev CoreId := BitVec 8

/-- A cluster number, 0 to 31 (R10). -/
abbrev ClusterId := BitVec 5

/-- The register spaces that a REGISTER_WRITE may name (R5): a function's message window (R396), the
management registers written by one master (R405), and the device registers at their physical address
(R389). The PL registers are CSRs (R342). -/
inductive RegSpace where
  | window (fn : BitVec 6)
  | management (master : BitVec 3)
  | device
  deriving DecidableEq, Repr

end Sys2Proof
end

