-- ==== Sys2Proof/Syntax.lean ====
section
/-! DEFINITION. The instruction set: one constructor per row of spec/opcode_table.json. The first 199
are the instruction words, whose fields stand in the order of the encoding; the rest are the events of the
part, each one whole and indivisible step (spec/95_what_each_step_holds.md). -/

namespace Sys2Proof

/-- The instructions and events of the Vexhorn. -/
inductive Instr where
  /-- Does nothing (R254). -/
  | nop
  /-- FIRM only: ends the service-processor task, whose thread then sleeps until the next notify write to its
    queue (R254). -/
  | halt
  /-- Raises BKPT with the code Z as the value (R254). -/
  | bkpt (z : BitVec 4)
  /-- Raises TRAPI with g[GA] as the value (R254). -/
  | trap (a : BitVec 5)
  /-- Lowers the privilege of the strands to the level in Z and continues them at the target in g[GA] (R255). -/
  | eret (a : BitVec 5) (l : BitVec 2)
  /-- Discards the core's instruction cache for the context and waits until it is empty (R254). -/
  | iflush
  /-- SUPER: makes every parked access of the issuing context retry, on every core and engine of the part
    (R256). -/
  | replay
  /-- The quarter passes the group over until it has chosen each other group that was ready (R254). -/
  | yield
  /-- Adds two scalars modulo 2^32 (R88). -/
  | add (d : BitVec 6) (a : BitVec 6) (b : BitVec 6)
  /-- Subtracts two scalars modulo 2^32 (R88). -/
  | sub (d : BitVec 6) (a : BitVec 6) (b : BitVec 6)
  /-- Writes the low 32 bits of the product (R88). -/
  | mul (d : BitVec 6) (a : BitVec 6) (b : BitVec 6)
  /-- Writes the high 32 bits of the signed product (R88). -/
  | mulh (d : BitVec 6) (a : BitVec 6) (b : BitVec 6)
  /-- Writes the high 32 bits of the unsigned product (R88). -/
  | mulhu (d : BitVec 6) (a : BitVec 6) (b : BitVec 6)
  /-- Signed quotient, with fixed results for division by zero and overflow (R89). -/
  | div (d : BitVec 6) (a : BitVec 6) (b : BitVec 6)
  /-- Unsigned quotient (R89). -/
  | divu (d : BitVec 6) (a : BitVec 6) (b : BitVec 6)
  /-- Signed remainder (R89). -/
  | rem (d : BitVec 6) (a : BitVec 6) (b : BitVec 6)
  /-- Unsigned remainder (R89). -/
  | remu (d : BitVec 6) (a : BitVec 6) (b : BitVec 6)
  /-- Bitwise AND of two scalars (R88). -/
  | and (d : BitVec 6) (a : BitVec 6) (b : BitVec 6)
  /-- Bitwise OR of two scalars (R88). -/
  | or (d : BitVec 6) (a : BitVec 6) (b : BitVec 6)
  /-- Bitwise XOR of two scalars (R88). -/
  | xor (d : BitVec 6) (a : BitVec 6) (b : BitVec 6)
  /-- a AND NOT b (R88). -/
  | andn (d : BitVec 6) (a : BitVec 6) (b : BitVec 6)
  /-- Shifts left by the whole of b (R90). -/
  | shl (d : BitVec 6) (a : BitVec 6) (b : BitVec 6)
  /-- Shifts right with zeros by the whole of b (R90). -/
  | shr (d : BitVec 6) (a : BitVec 6) (b : BitVec 6)
  /-- Shifts right arithmetically by the whole of b (R90). -/
  | sra (d : BitVec 6) (a : BitVec 6) (b : BitVec 6)
  /-- Rotates left by b mod 32 (R88). -/
  | rol (d : BitVec 6) (a : BitVec 6) (b : BitVec 6)
  /-- Rotates right by b mod 32 (R88). -/
  | ror (d : BitVec 6) (a : BitVec 6) (b : BitVec 6)
  /-- Signed minimum (R88). -/
  | min (d : BitVec 6) (a : BitVec 6) (b : BitVec 6)
  /-- Signed maximum (R88). -/
  | max (d : BitVec 6) (a : BitVec 6) (b : BitVec 6)
  /-- Unsigned minimum (R88). -/
  | minu (d : BitVec 6) (a : BitVec 6) (b : BitVec 6)
  /-- Unsigned maximum (R88). -/
  | maxu (d : BitVec 6) (a : BitVec 6) (b : BitVec 6)
  /-- Signed saturating add (R88). -/
  | adds (d : BitVec 6) (a : BitVec 6) (b : BitVec 6)
  /-- Signed saturating subtract (R88). -/
  | subs (d : BitVec 6) (a : BitVec 6) (b : BitVec 6)
  /-- Unsigned saturating add (R88). -/
  | addus (d : BitVec 6) (a : BitVec 6) (b : BitVec 6)
  /-- Unsigned saturating subtract (R88). -/
  | subus (d : BitVec 6) (a : BitVec 6) (b : BitVec 6)
  /-- Counts leading zero bits (R88). -/
  | clz (d : BitVec 6) (a : BitVec 6)
  /-- Counts trailing zero bits (R88). -/
  | ctz (d : BitVec 6) (a : BitVec 6)
  /-- Counts the one bits (R88). -/
  | popc (d : BitVec 6) (a : BitVec 6)
  /-- Reverses the bit order (R88). -/
  | brev (d : BitVec 6) (a : BitVec 6)
  /-- Sign-extends the low byte (R88). -/
  | sextb (d : BitVec 6) (a : BitVec 6)
  /-- Sign-extends the low halfword (R88). -/
  | sexth (d : BitVec 6) (a : BitVec 6)
  /-- Adds the sign-extended immediate (R91). -/
  | addi (d : BitVec 6) (a : BitVec 6) (i : BitVec 14)
  /-- ANDs with the zero-extended immediate (R91). -/
  | andi (d : BitVec 6) (a : BitVec 6) (i : BitVec 14)
  /-- ORs with the zero-extended immediate (R91). -/
  | ori (d : BitVec 6) (a : BitVec 6) (i : BitVec 14)
  /-- XORs with the zero-extended immediate (R91). -/
  | xori (d : BitVec 6) (a : BitVec 6) (i : BitVec 14)
  /-- Shifts left by a constant count (R92). -/
  | shli (d : BitVec 6) (a : BitVec 6) (c : BitVec 5)
  /-- Shifts right with zeros by a constant count (R92). -/
  | shri (d : BitVec 6) (a : BitVec 6) (c : BitVec 5)
  /-- Shifts right arithmetically by a constant count (R92). -/
  | srai (d : BitVec 6) (a : BitVec 6) (c : BitVec 5)
  /-- Loads IMM20 into bits [31:12] and zeroes the rest (R93). -/
  | lui (d : BitVec 6) (i : BitVec 20)
  /-- Multiplies by the sign-extended immediate (R91). -/
  | muli (d : BitVec 6) (a : BitVec 6) (i : BitVec 14)
  /-- Compares two scalars, combines the result with a predicate and writes pD (R94). -/
  | cmp (p : BitVec 3) (c : BitVec 4) (a : BitVec 6) (b : BitVec 6) (m : BitVec 6)
  /-- Compares a scalar with a constant and writes pD (R94). -/
  | cmpi (p : BitVec 3) (c : BitVec 4) (a : BitVec 6) (i : BitVec 13)
  /-- Predicate AND (R95). -/
  | pand (d : BitVec 3) (a : BitVec 3) (b : BitVec 3)
  /-- Predicate OR (R95). -/
  | por (d : BitVec 3) (a : BitVec 3) (b : BitVec 3)
  /-- Predicate XOR (R95). -/
  | pxor (d : BitVec 3) (a : BitVec 3) (b : BitVec 3)
  /-- Predicate AND NOT (R95). -/
  | pandn (d : BitVec 3) (a : BitVec 3) (b : BitVec 3)
  /-- Predicate OR NOT (R95). -/
  | porn (d : BitVec 3) (a : BitVec 3) (b : BitVec 3)
  /-- Predicate NOT (R95). -/
  | pnot (d : BitVec 3) (a : BitVec 3)
  /-- Selects s[A] or s[B] by the predicate named in the function code (R96). -/
  | sel (d : BitVec 6) (a : BitVec 6) (b : BitVec 6) (p : BitVec 3)
  /-- 64-bit uniform add (R97). -/
  | gadd (d : BitVec 5) (a : BitVec 5) (b : BitVec 5)
  /-- 64-bit uniform subtract (R97). -/
  | gsub (d : BitVec 5) (a : BitVec 5) (b : BitVec 5)
  /-- 64-bit uniform multiply (R97). -/
  | gmul (d : BitVec 5) (a : BitVec 5) (b : BitVec 5)
  /-- Uniform AND (R97). -/
  | gand (d : BitVec 5) (a : BitVec 5) (b : BitVec 5)
  /-- Uniform OR (R97). -/
  | gor (d : BitVec 5) (a : BitVec 5) (b : BitVec 5)
  /-- Uniform XOR (R97). -/
  | gxor (d : BitVec 5) (a : BitVec 5) (b : BitVec 5)
  /-- Uniform shift left (R97). -/
  | gshl (d : BitVec 5) (a : BitVec 5) (b : BitVec 5)
  /-- Uniform shift right with zeros (R97). -/
  | gshr (d : BitVec 5) (a : BitVec 5) (b : BitVec 5)
  /-- Copies a uniform register (R97). -/
  | gmov (d : BitVec 5) (a : BitVec 5)
  /-- Moves the lowest active strand's scalar pair into a uniform register (R98). -/
  | gfrom (d : BitVec 5) (a : BitVec 5)
  /-- Adds a sign-extended 16-bit immediate to a uniform register (R99). -/
  | gaddi (d : BitVec 5) (a : BitVec 5) (i : BitVec 16)
  /-- Loads a sign-extended 20-bit immediate into a uniform register (R99). -/
  | gli (d : BitVec 5) (i : BitVec 20)
  /-- 64-bit add of scalar pairs (R100). -/
  | addw (d : BitVec 5) (a : BitVec 5) (b : BitVec 5)
  /-- 64-bit subtract of scalar pairs (R100). -/
  | subw (d : BitVec 5) (a : BitVec 5) (b : BitVec 5)
  /-- 64-bit multiply of scalar pairs (R100). -/
  | mulw (d : BitVec 5) (a : BitVec 5) (b : BitVec 5)
  /-- Shifts a pair left by a scalar count (R100). -/
  | shlw (d : BitVec 5) (a : BitVec 5) (b : BitVec 6)
  /-- Shifts a pair right with zeros by a scalar count (R100). -/
  | shrw (d : BitVec 5) (a : BitVec 5) (b : BitVec 6)
  /-- Copies a uniform register into a scalar pair (R100). -/
  | movg (d : BitVec 5) (a : BitVec 5)
  /-- Writes the OR of a predicate over the active set (R102). -/
  | voteAny (d : BitVec 3) (a : BitVec 3)
  /-- Writes the AND of a predicate over the active set (R102). -/
  | voteAll (d : BitVec 3) (a : BitVec 3)
  /-- Writes the lane mask of active strands whose predicate is true (R102). -/
  | voteBal (d : BitVec 6) (a : BitVec 3)
  /-- Reads the value of a named lane (R103). -/
  | shflIdx (d : BitVec 6) (a : BitVec 6) (b : BitVec 6)
  /-- Reads the value of a lower lane (R103). -/
  | shflUp (d : BitVec 6) (a : BitVec 6) (b : BitVec 6)
  /-- Reads the value of a higher lane (R103). -/
  | shflDn (d : BitVec 6) (a : BitVec 6) (b : BitVec 6)
  /-- Reads the value of the lane at the XOR distance (R103). -/
  | shflXor (d : BitVec 6) (a : BitVec 6) (b : BitVec 6)
  /-- Sums over the active set on the fixed tree (R104). -/
  | redAdd (d : BitVec 6) (a : BitVec 6)
  /-- Signed minimum over the active set (R104). -/
  | redMin (d : BitVec 6) (a : BitVec 6)
  /-- Signed maximum over the active set (R104). -/
  | redMax (d : BitVec 6) (a : BitVec 6)
  /-- Writes the mask of active lanes holding an equal value (R105). -/
  | matchLanes (d : BitVec 6) (a : BitVec 6)
  /-- Writes the mask of the active set (R105). -/
  | actv (d : BitVec 6)
  /-- FP32 add, RNE (R163). -/
  | fadd (d : BitVec 6) (a : BitVec 6) (b : BitVec 6)
  /-- FP32 subtract, RNE (R163). -/
  | fsub (d : BitVec 6) (a : BitVec 6) (b : BitVec 6)
  /-- FP32 multiply, RNE (R163). -/
  | fmul (d : BitVec 6) (a : BitVec 6) (b : BitVec 6)
  /-- FP32 minimum with ordered zeros and NaN handling (R164). -/
  | fmin (d : BitVec 6) (a : BitVec 6) (b : BitVec 6)
  /-- FP32 maximum with ordered zeros and NaN handling (R164). -/
  | fmax (d : BitVec 6) (a : BitVec 6) (b : BitVec 6)
  /-- FP32 absolute value (R165). -/
  | fabs (d : BitVec 6) (a : BitVec 6)
  /-- FP32 negation (R165). -/
  | fneg (d : BitVec 6) (a : BitVec 6)
  /-- Correctly rounded FP32 reciprocal (R165). -/
  | frcp (d : BitVec 6) (a : BitVec 6)
  /-- Correctly rounded FP32 reciprocal square root (R165). -/
  | frsq (d : BitVec 6) (a : BitVec 6)
  /-- Correctly rounded FP32 square root (R165). -/
  | fsqrt (d : BitVec 6) (a : BitVec 6)
  /-- Correctly rounded 2^a (R165). -/
  | fexp2 (d : BitVec 6) (a : BitVec 6)
  /-- Correctly rounded log2 a (R165). -/
  | flog2 (d : BitVec 6) (a : BitVec 6)
  /-- Single-rounded a × b + c in the rounding mode given by MD (R166). -/
  | ffma (d : BitVec 6) (a : BitVec 6) (b : BitVec 6) (c : BitVec 6) (m : BitVec 2)
  /-- FP32 comparison into a predicate, with signalling and quiet conditions (R167). -/
  | fcmp (p : BitVec 3) (c : BitVec 4) (a : BitVec 6) (b : BitVec 6) (m : BitVec 6)
  /-- Converts between formats under R140 and ORs the flags into FFLAGS (R169). -/
  | fcvt (d : BitVec 6) (a : BitVec 6) (r : BitVec 2) (s : BitVec 1) (f : BitVec 4) (g : BitVec 4)
  /-- Converts, and raises ARITH on NV or OF in any active strand (R169). -/
  | fcvtTrap (d : BitVec 6) (a : BitVec 6) (r : BitVec 2) (s : BitVec 1) (f : BitVec 4) (g : BitVec 4)
  /-- Packed 16-bit add; FN[7] selects FP16 or BF16 (R170). -/
  | hadd2 (d : BitVec 6) (a : BitVec 6) (b : BitVec 6) (f : BitVec 1)
  /-- Packed 16-bit subtract (R170). -/
  | hsub2 (d : BitVec 6) (a : BitVec 6) (b : BitVec 6) (f : BitVec 1)
  /-- Packed 16-bit multiply (R170). -/
  | hmul2 (d : BitVec 6) (a : BitVec 6) (b : BitVec 6) (f : BitVec 1)
  /-- Packed 16-bit minimum (R170). -/
  | hmin2 (d : BitVec 6) (a : BitVec 6) (b : BitVec 6) (f : BitVec 1)
  /-- Packed 16-bit maximum (R170). -/
  | hmax2 (d : BitVec 6) (a : BitVec 6) (b : BitVec 6) (f : BitVec 1)
  /-- Packed single-rounded fused multiply-add, BF16 or FP16 (R171). -/
  | hfma2 (d : BitVec 6) (a : BitVec 6) (b : BitVec 6) (c : BitVec 6) (m : BitVec 1)
  /-- Four-byte integer dot product added to an accumulator (R172). -/
  | idp4 (d : BitVec 6) (a : BitVec 6) (b : BitVec 6) (c : BitVec 6) (m : BitVec 2)
  /-- Branches the strands whose guard is true (R110). -/
  | bra (n : BitVec 1) (p : BitVec 3) (o : BitVec 22)
  /-- Jumps PC-relative (R111). -/
  | jmp (o : BitVec 26)
  /-- Writes the link to s63 and jumps PC-relative (R111). -/
  | jal (o : BitVec 26)
  /-- Jumps to a scalar target within the current 4 GiB region (R112). -/
  | jr (a : BitVec 6)
  /-- Links and jumps to a scalar target (R112). -/
  | jalr (d : BitVec 6) (a : BitVec 6)
  /-- Jumps to a uniform-register target (R112). -/
  | jrG (a : BitVec 5)
  /-- Links and jumps to a uniform-register target (R112). -/
  | jalrG (d : BitVec 6) (a : BitVec 5)
  /-- Arms a join mask with the active set and a join PC (R114). -/
  | jarm (j : BitVec 3) (i : BitVec 20)
  /-- Sets the lane mask of a join mask from a scalar (R115). -/
  | jset (j : BitVec 3) (a : BitVec 6)
  /-- Reads the lane mask of a join mask (R115). -/
  | jget (j : BitVec 3) (d : BitVec 6)
  /-- Holds the strands of the mask until all have arrived, then releases them (R116). -/
  | join (j : BitVec 3)
  /-- Releases, increments the fork counter and pushes a one-group task onto the deque (R120). -/
  | fork (a : BitVec 6) (o : BitVec 19)
  /-- Waits for the fork counter to read zero, then acquires (R123). -/
  | fjoin (a : BitVec 6)
  /-- Releases locks, clears the lanes from the join masks and ends the strands (R117). -/
  | exit
  /-- Parks the strand on a monitor of a line unless a wake event has already occurred (R126). -/
  | monw (g : BitVec 5) (x : BitVec 6) (i : BitVec 4)
  /-- Loads from GLOBAL memory or a window, parking faulted lanes (R183). -/
  | ld (d : BitVec 6) (g : BitVec 5) (x : BitVec 6) (s : BitVec 2) (z : BitVec 3) (i : BitVec 4)
  /-- Stores to GLOBAL memory or a window; faulted lanes retire into the side log (R184). -/
  | st (d : BitVec 6) (g : BitVec 5) (x : BitVec 6) (s : BitVec 2) (z : BitVec 3) (i : BitVec 4)
  /-- Takes a window lock bit, waiting in FIFO order, and loads (R188). -/
  | llk (d : BitVec 6) (g : BitVec 5) (x : BitVec 6) (s : BitVec 2) (z : BitVec 3) (i : BitVec 4)
  /-- Stores to a window and frees the held lock bit to the next waiter (R189). -/
  | sul (d : BitVec 6) (g : BitVec 5) (x : BitVec 6) (s : BitVec 2) (z : BitVec 3) (i : BitVec 4)
  /-- Atomic add at the coherence point (R191). -/
  | atomAdd (d : BitVec 6) (g : BitVec 5) (x : BitVec 6) (f : BitVec 3)
  /-- Atomic signed minimum (R191). -/
  | atomMin (d : BitVec 6) (g : BitVec 5) (x : BitVec 6) (f : BitVec 3)
  /-- Atomic signed maximum (R191). -/
  | atomMax (d : BitVec 6) (g : BitVec 5) (x : BitVec 6) (f : BitVec 3)
  /-- Atomic unsigned minimum (R191). -/
  | atomMinu (d : BitVec 6) (g : BitVec 5) (x : BitVec 6) (f : BitVec 3)
  /-- Atomic unsigned maximum (R191). -/
  | atomMaxu (d : BitVec 6) (g : BitVec 5) (x : BitVec 6) (f : BitVec 3)
  /-- Atomic AND (R191). -/
  | atomAnd (d : BitVec 6) (g : BitVec 5) (x : BitVec 6) (f : BitVec 3)
  /-- Atomic OR (R191). -/
  | atomOr (d : BitVec 6) (g : BitVec 5) (x : BitVec 6) (f : BitVec 3)
  /-- Atomic XOR (R191). -/
  | atomXor (d : BitVec 6) (g : BitVec 5) (x : BitVec 6) (f : BitVec 3)
  /-- Atomic exchange (R191). -/
  | atomXchg (d : BitVec 6) (g : BitVec 5) (x : BitVec 6) (f : BitVec 3)
  /-- Atomic compare-and-swap (R191). -/
  | atomCas (d : BitVec 6) (g : BitVec 5) (x : BitVec 6) (f : BitVec 3)
  /-- Atomic FP32 add, RNE (R191). -/
  | atomFadd (d : BitVec 6) (g : BitVec 5) (x : BitVec 6) (f : BitVec 3)
  /-- Looks a key up in the tag table (R198). -/
  | tlook (d : BitVec 6) (a : BitVec 6)
  /-- Installs a tag in a way and returns the old tag (R198). -/
  | tins (d : BitVec 6) (a : BitVec 6) (b : BitVec 6)
  /-- Invalidates the tag of a key (R198). -/
  | tdel (d : BitVec 6) (a : BitVec 6)
  /-- Invalidates every tag of the task (R198). -/
  | tclr
  /-- Remote load at a near-memory unit, here or on a peer (R194). -/
  | ropLd (d : BitVec 6) (g : BitVec 5) (x : BitVec 6) (s : BitVec 2)
  /-- Posted remote store (R194). -/
  | ropSt (d : BitVec 6) (g : BitVec 5) (x : BitVec 6) (s : BitVec 2)
  /-- Remote add that returns the old value (R194). -/
  | ropAdd (d : BitVec 6) (g : BitVec 5) (x : BitVec 6) (s : BitVec 1)
  /-- Remote compare-and-swap of two words (R194). -/
  | ropCas2 (d : BitVec 4) (g : BitVec 5) (x : BitVec 6)
  /-- Remote enqueue onto a tail word (R194). -/
  | ropEnq (d : BitVec 5) (g : BitVec 5) (x : BitVec 6)
  /-- Remote pointer chase over up to 8 hops (R194). -/
  | ropChase (d : BitVec 5) (g : BitVec 5) (x : BitVec 6) (h : BitVec 3)
  /-- Waits for earlier accesses, then releases and/or acquires at the given scope (R268). -/
  | phase (k : BitVec 2) (s : BitVec 2)
  /-- Arrives at a task barrier (R427). -/
  | barArrive (z : BitVec 4)
  /-- Waits at a task barrier for the generation to pass (R427). -/
  | barWait (z : BitVec 4)
  /-- Arrives and waits at a task barrier (R427). -/
  | barSync (z : BitVec 4)
  /-- Arrives at a cluster barrier (R427). -/
  | barArriveCl (z : BitVec 4)
  /-- Waits at a cluster barrier (R427). -/
  | barWaitCl (z : BitVec 4)
  /-- Arrives and waits at a cluster barrier (R427). -/
  | barSyncCl (z : BitVec 4)
  /-- Waits for the group's earlier copies in the queues of the mask (R214). -/
  | qfence (a : BitVec 5)
  /-- Checks a shape and queues a copy on a copy queue (R205). -/
  | cpy (h : BitVec 3) (a : BitVec 5) (b : BitVec 5) (k : BitVec 4)
  /-- Waits for a token threshold, an error or no outstanding work, then acquires (R211). -/
  | twait (a : BitVec 5) (k : BitVec 4)
  /-- Waits for no outstanding work, reads the token count, then acquires (R210). -/
  | tread (d : BitVec 5) (k : BitVec 4)
  /-- Sets a token count, restarting halted queues when bit 31 is clear (R212). -/
  | tset (a : BitVec 5) (k : BitVec 4)
  /-- Adds to a token count (R212). -/
  | tadd (a : BitVec 5) (k : BitVec 4)
  /-- Writes one word of a shape register (R204). -/
  | hset (h : BitVec 3) (a : BitVec 5) (w : BitVec 2)
  /-- Claims and zeroes the lowest free operand slot (R217). -/
  | mclaim (d : BitVec 5)
  /-- Frees an operand slot once no queued work names it (R217). -/
  | mrelease (a : BitVec 5)
  /-- Reads, checks and posts a tile-task record with a dependence word (R222). -/
  | mpost (a : BitVec 5) (b : BitVec 5) (k : BitVec 4)
  /-- Writes a predecessor counter (R229). -/
  | pcset (a : BitVec 5) (b : BitVec 5)
  /-- Reads a predecessor counter (R229). -/
  | pcread (d : BitVec 5) (a : BitVec 5)
  /-- Waits for a counter to read zero, then acquires (R229). -/
  | pcwait (a : BitVec 5)
  /-- Sends a message, waiting for send-queue space (R233). -/
  | send (a : BitVec 5) (b : BitVec 4) (w : BitVec 4)
  /-- Holds a message to be sent at task end (R233). -/
  | sendC (a : BitVec 5) (b : BitVec 4) (w : BitVec 4)
  /-- Sends a message if the queue has room, else sets a predicate (R233). -/
  | sendNb (p : BitVec 3) (a : BitVec 5) (b : BitVec 4) (w : BitVec 4)
  /-- Sends a REPLY to the origin of the starting request (R237). -/
  | reply (b : BitVec 4) (w : BitVec 4)
  /-- Holds a REFUSE.SOFT of the starting message, or marks trapped work for discard (R238). -/
  | refuse
  /-- Binds a handler slot atomically and reports the held count (R241). -/
  | mbind (d : BitVec 5) (a : BitVec 5) (b : BitVec 5)
  /-- Removes a slot's binding (R242). -/
  | munbind (d : BitVec 5) (a : BitVec 5)
  /-- Reads the starting message or the queue occupancies (R239). -/
  | mqstat (d : BitVec 5) (a : BitVec 5)
  /-- Reads a launch descriptor and starts N tasks over a set of clusters (R244). -/
  | launch (a : BitVec 5) (k : BitVec 4)
  /-- Asks the mapping engine to derive a node that maps an extent to a target context (R248). -/
  | map (d : BitVec 5) (a : BitVec 5) (b : BitVec 5)
  /-- Derives a node and takes the extent from the issuer (R248). -/
  | grant (d : BitVec 5) (a : BitVec 5) (b : BitVec 5)
  /-- Withdraws a node and its subtree; the reply comes when invalidation completes (R249). -/
  | unmap (d : BitVec 5) (a : BitVec 5)
  /-- Reads a tree node (R249). -/
  | mquery (d : BitVec 5) (a : BitVec 5)
  /-- Checks a capability and passes an argument block to the Privet engine (R250). -/
  | cinv (d : BitVec 5) (a : BitVec 5) (b : BitVec 5)
  /-- Posts a call record and waits for it to finish (R252). -/
  | slotcall (d : BitVec 5) (a : BitVec 5)
  /-- Posts a call record without waiting (R252). -/
  | slotcallNb (d : BitVec 5) (a : BitVec 5)
  /-- Reads a CSR (R253). -/
  | csrr (d : BitVec 6) (c : BitVec 12)
  /-- Writes a CSR (R253). -/
  | csrw (a : BitVec 6) (c : BitVec 12)
  /-- Reads a CSR and sets bits in it (R253). -/
  | csrs (d : BitVec 6) (a : BitVec 6) (c : BitVec 12)
  /-- Reads a CSR and clears bits in it (R253). -/
  | csrc (d : BitVec 6) (a : BitVec 6) (c : BitVec 12)
  /-- Writes a Pleach entry, waiting while the entry is issued (R259). -/
  | plwr (a : BitVec 5) (b : BitVec 4)
  /-- Reads a Pleach entry into a uniform pair (R259). -/
  | plrd (d : BitVec 4) (a : BitVec 5)
  /-- Starts the walk (R259). -/
  | plgo
  /-- Halts the walk (R259). -/
  | plhalt
  /-- Reads a counter, the head, a stash count or a timestamp of the table (R259). -/
  | plstat (d : BitVec 5) (a : BitVec 5)
  /-- Subtracts from a stage's free stash slots (R259). -/
  | stasha (a : BitVec 5) (b : BitVec 5)
  /-- Adds to a stage's free stash slots (R259). -/
  | stashf (a : BitVec 5) (b : BitVec 5)
  /-- Sends one SLOTGIVE message to a neighbour (R259). -/
  | slotgive (a : BitVec 5) (b : BitVec 5)
  /-- A message arrives for a mailbox or an overflow mailbox, or is refused (R235). -/
  | messageArrival (n : Nat)
  /-- A core with room takes the next startable message and starts its task (R322). -/
  | mailboxDequeue (core : CoreId)
  /-- A core admits a task into free slots and a window run, zeroing its window and acquiring (R326). -/
  | taskAdmission (core : CoreId)
  /-- Once its last strand has exited and its outstanding operations have completed, the task ends and its end
    actions are made (R36). -/
  | taskEnd (task : Nat)
  /-- A launch-queue task is placed once a mailbox of CSET has room (R244). -/
  | launchPlacement (cluster : ClusterId)
  /-- An idle core steals the oldest deque entry of a core within the stealing domain (R122). -/
  | workSteal (core : CoreId)
  /-- A core injects one whole message from its send queues into the mesh (R325). -/
  | sendQueueInject (core : CoreId)
  /-- A blocking SEND whose queue stays full for 4,096 cycles raises SENDQ (R233). -/
  | sendqTimeout (group : Nat)
  /-- A message held for an unbound slot for 2^20 cycles sends an UNBOUND message to the supervisor (R242). -/
  | unbound (core : CoreId) (ctx : CtxId) (slot : BitVec 6)
  /-- A newly resident core's mailbox is filled from the overflow ring (R324). -/
  | overflowRefill (core : CoreId) (ctx : CtxId)
  /-- A strand parked on a monitor wakes 65,536 cycles after the park (R127). -/
  | monitorTimeout (strand : Nat)
  /-- A queued page request is delivered to the supervisor or the owner as a PAGEREQ (R305). -/
  | pagereq (vf : Bool) (queue : CtxId)
  /-- A replay reaching a core runs a side-log pass, retries the parked entries and lets groups issue (R308). -/
  | coreReplay (core : CoreId) (ctx : CtxId)
  /-- An eligible task is stopped, drained, published and saved to a coppice frame, freeing its slots (R312). -/
  | coppice (core : CoreId)
  /-- A core takes the head of the re-admission queue, restores the frame and replays its entries (R317). -/
  | reAdmission (cluster : ClusterId)
  /-- Sets WP in every leaf of the page and sends a shootdown (R296). -/
  | migrationProtect
  /-- After the copy, writes the new frame into every leaf and clears WP (R296). -/
  | migrationSwitch
  /-- After the second acknowledgements, replays parked writes and frees the old frame (R296). -/
  | migrationRelease
  /-- Rewrites the subtree's leaves as REVOKED and sends the shootdown and peer invalidations (R292). -/
  | invalidation
  /-- A cache acknowledges a shootdown once its drains are done; the last one makes the UNMAP reply (R292). -/
  | shootdownAck (cache : Nat)
  /-- Reclaim rewrites REVOKED entries as EMPTY, frees the nodes and restores granted extents (R293). -/
  | reclaimEnd
  /-- A copy engine performs one run of a queued copy, stopping or ending in error on a fault (R206). -/
  | copyRun (cluster : ClusterId) (queue : BitVec 4)
  /-- A copy's writes have performed and its token is updated (R210). -/
  | copyComplete (cluster : ClusterId) (queue : BitVec 4)
  /-- The tile scheduler hands a ready record to an engine (R223). -/
  | recordIssue (cluster : ClusterId)
  /-- Loads a weight plane into the shadow store (R224). -/
  | wload (engine : BitVec 9)
  /-- Exchanges the active and shadow planes (R224). -/
  | swap (engine : BitVec 9)
  /-- Streams activation rows against the active plane into an accumulator bank (R224). -/
  | mstream (engine : BitVec 9)
  /-- Runs NK chunks of plane load, swap and stream, optionally draining (R224). -/
  | gemm (engine : BitVec 9)
  /-- Converts accumulator rows and writes them to a destination (R225). -/
  | drain (engine : BitVec 9)
  /-- A record's writes have performed; counters are decremented and its token updated (R227). -/
  | recordComplete (engine : BitVec 9)
  /-- All cores of a cluster switch the issuing register-file bank (R321). -/
  | residentSwitch (cluster : ClusterId)
  /-- A slice quantum is used up; firmware raises a pre-emption request or switches banks (R331). -/
  | sliceEnd (ctx : CtxId)
  /-- A pre-emption request stops admissions of the context on a set of clusters (R330). -/
  | preemptionRequest (ctx : CtxId) (clusters : BitVec 32)
  /-- A task's budget reaches zero: forced save, count, or BUDGET trap (R329). -/
  | budgetExpiry (task : Nat)
  /-- A task is stopped, its transactions land or become replay entries, and it is saved (R332). -/
  | quiescentSave (task : Nat)
  /-- Once no task runs on the set, the context is saved into its image (R333). -/
  | contextSave (ctx : CtxId)
  /-- A loader checks an image and restores the context on a new placement (R336). -/
  | contextRestore (image : BitVec 44) (clusters : BitVec 32)
  /-- A changed DETERM.EN takes effect once no task runs and the mesh is empty (R28). -/
  | determSwitch
  /-- In each cycle of the running walk, one entry issues or one bubble counter advances (R348). -/
  | pleachWalkCycle
  /-- A table task's end publishes, frees stash and slots, sends automatically and records the output (R350). -/
  | pleachEntryEnd (entry : BitVec 9)
  /-- A received SLOTGIVE message adds to a credit count (R346). -/
  | slotgiveMsg (n : Nat)
  /-- A received ARRIVE message adds one arrival (R346). -/
  | arrive (n : Nat)
  /-- Clears the counters, clock, timestamps, arrivals, credits and status while the walk is halted (R342). -/
  | plctlClr
  /-- A MSG packet is delivered in OSEQ order and acknowledged (R387). -/
  | msg (n : Nat)
  /-- A WRITE packet is performed at the coherence point and acknowledged (R384). -/
  | write (n : Nat)
  /-- A READ packet is answered with RDATA (R384). -/
  | read (n : Nat)
  /-- Read data arrives back at the source (R384). -/
  | rdata (n : Nat)
  /-- A ROP packet is performed at a near-memory unit and answered (R394). -/
  | rop (n : Nat)
  /-- A ROP reply arrives at the source lane (R384). -/
  | roprep (n : Nat)
  /-- A translation request is walked at the peer and answered with an XREP (R391). -/
  | xreq (n : Nat)
  /-- A translation reply fills the source's port cache (R391). -/
  | xrep (n : Nat)
  /-- A peer invalidation drops translations; INVACK follows once the packets sent under them are acknowledged
    (R392). -/
  | inval (n : Nat)
  /-- A peer's invalidation acknowledgement is counted (R392). -/
  | invack (n : Nat)
  /-- A flush marker is answered with MARKACK once the earlier packets have performed (R388). -/
  | marker (n : Nat)
  /-- A marker acknowledgement lets a FABRIC release complete (R388). -/
  | markack (n : Nat)
  /-- An end-to-end acknowledgement completes packets once at the source (R385). -/
  | eack (n : Nat)
  /-- A packet unacknowledged for 200 µs is resent; the eighth expiry clears CONN (R385). -/
  | e2eRetransmit (peer : BitVec 10) (seq : BitVec 32)
  /-- Clearing CONN ends the peer's outstanding operations (R389). -/
  | peerDisconnect (peer : BitVec 10)
  /-- A replay request makes the sender replay from the oldest unacknowledged flit (R379). -/
  | rreq (port : BitVec 5)
  /-- 2 µs without acknowledgement makes the sender replay (R379). -/
  | linkReplayTimeout (port : BitVec 5)
  /-- A replayed flit corrupt again marks its wavelengths lost or resets the direction (R380). -/
  | lastingLinkError (port : BitVec 5)
  /-- A declared loss of light stops the direction and starts a restripe exchange (R381). -/
  | lossOfLight (port : BitVec 5) (transmit : Bool) (waves : BitVec 16)
  /-- A lost wavelength's return starts a restripe back to a wider width (R381). -/
  | wavelengthReturn (port : BitVec 5) (transmit : Bool) (waves : BitVec 16)
  /-- The sender restarts at the agreed width, replays, and an event record is written (R381). -/
  | restripeRestart (port : BitVec 5) (transmit : Bool)
  /-- A posted SEND sends a message as context 0 or the guest root (R397). -/
  | hostSend (fn : BitVec 6)
  /-- A posted MAP, possibly to a stage-2 target (R397). -/
  | hostMap (fn : BitVec 6)
  /-- A posted GRANT (R397). -/
  | hostGrant (fn : BitVec 6)
  /-- A posted UNMAP (R397). -/
  | hostUnmap (fn : BitVec 6)
  /-- A posted MQUERY (R397). -/
  | hostMquery (fn : BitVec 6)
  /-- Reserves an unbacked extent with a named owner (R286). -/
  | reserve (fn : BitVec 6)
  /-- Asks the mapping engine to migrate a page (R397). -/
  | migrate (fn : BitVec 6)
  /-- A posted REPLAY for a context or a partition (R397). -/
  | hostReplay (fn : BitVec 6)
  /-- Creates a partition (R401). -/
  | partcreate (fn : BitVec 6)
  /-- Destroys a partition with no placed context (R401). -/
  | partdestroy (fn : BitVec 6)
  /-- Creates a context and binds its supervisor (R401). -/
  | ctxcreate (fn : BitVec 6)
  /-- Destroys a context that is not placed (R401). -/
  | ctxdestroy (fn : BitVec 6)
  /-- Places a context on a set of clusters, or pauses it (R397). -/
  | place (fn : BitVec 6)
  /-- Saves a context as a MIGRATE or DUMP image (R397). -/
  | save (fn : BitVec 6)
  /-- Changes a capability entry indivisibly (R403). -/
  | capset (fn : BitVec 6)
  /-- Assigns the Pleach table's owner (R397). -/
  | plassign (fn : BitVec 6)
  /-- Privet service: returns VTIME and the wall-clock offset (R251). -/
  | time (n : Nat)
  /-- Privet service: allocates a backed extent (R251). -/
  | alloc (n : Nat)
  /-- Privet service: unmaps an allocated extent (R251). -/
  | free (n : Nat)
  /-- Privet service: appends bytes to the context's log ring (R251). -/
  | log (n : Nat)
  /-- Privet service: raises a host signal (R251). -/
  | signal (n : Nat)
  /-- Privet service: writes a value that is a wake event (R251). -/
  | wake (n : Nat)
  /-- Privet service: performs a MAP as another context (R251). -/
  | mapproxy (n : Nat)
  /-- Privet service: ends the context's slice by quiescence (R251). -/
  | yieldslice (n : Nat)
  /-- Privet service: returns ACTIVE_FEATURES (R251). -/
  | features (n : Nat)
  /-- A management master claims ownership when none exists (R406). -/
  | claim (master : BitVec 3)
  /-- The owner releases ownership (R406). -/
  | release (master : BitVec 3)
  /-- The owner names a successor (R406). -/
  | handover (master successor : BitVec 3)
  /-- The named successor becomes the owner (R406). -/
  | accept (master : BitVec 3)
  /-- A handover not accepted within 1 s lapses (R406). -/
  | handoverLapse
  /-- A reset of the owner's transport leaves no owner (R406). -/
  | transportReset (master : BitVec 3)
  /-- Latches ACTIVE_FEATURES once per module reset (R407). -/
  | negotiate (master : BitVec 3)
  /-- A write to a host, management, PL or device register that has no row of its own (R5). -/
  | registerWrite (space : RegSpace) (offset : Nat) (value : DWord)
  /-- A function-level reset empties the window and rings, and for the PF releases ownership (R395). -/
  | flr (fn : BitVec 6)
  /-- Ends every task, discards held state, resets CSRs and zeroes the windows and operand memory (R43). -/
  | moduleReset
  /-- After a module reset, verifies firmware, measures, trains memory and brings up the mesh and ports (R408).
    -/
  | boot
  /-- Power above PWRLIMIT, or 95 °C, gates issue in whole cycles (R412). -/
  | powerGating (watts celsius : BitVec 32)
  /-- At 105 °C every clock stops and PARTERR is set (R412). -/
  | thermalShutdown (celsius : BitVec 32)
  /-- SPDM request answered over DOE (R411). -/
  | getVersion
  /-- SPDM request answered over DOE (R411). -/
  | getCapabilities
  /-- SPDM algorithm negotiation (R411). -/
  | negotiateAlgorithms (slhDsaShake256f : Bool)
  /-- SPDM digest request (R411). -/
  | getDigests
  /-- Returns the certificate chain in slot 0 (R411). -/
  | getCertificate (slot : BitVec 4) (offset length : BitVec 16)
  /-- SPDM challenge signed with the device identity key (R411). -/
  | challenge (nonce : BitVec 256)
  /-- Returns the recorded SHAKE256 measurements (R411). -/
  | getMeasurements (index : BitVec 8)
  /-- A link flit arriving at a receiver is accepted when it is the DATA flit with the next expected LSEQ, or
    discarded when it is corrupt or out of order (which triggers an RREQ); its LACK frees acknowledged flits from
    the sender's replay buffer (R379). -/
  | linkFlit (port : BitVec 5) (bytes : List Byte) (parity : BitVec 16)
  /-- A receiver that is still waiting for its expected LSEQ sends another RREQ, at most once per 1 µs, until
    that flit arrives (R379). -/
  | rreqResend (port : BitVec 5)
  deriving DecidableEq, Repr

end Sys2Proof
end

