-- ==== Sys2Proof/WellFormed.lean ====
section
/-! DEFINITION. Which values the fields of an instruction may hold: the value checks of R82, over the field
values that R67 to R81 reserve. A word whose fields fail one of them is not an instruction. -/

namespace Sys2Proof

/-- The register number names a pair (R17). -/
def isPair (d : SReg) : Bool := d.toNat % 2 == 0

/-- The register number names a quad (R17). -/
def isQuad (d : SReg) : Bool := d.toNat % 4 == 0

/-- CMB[6:1] of a P-format word: COMB 0b11 is reserved, and SET leaves the other bits zero (R71). -/
def wfCmb (m : BitVec 6) : Bool :=
  match (m.extractLsb' 4 2).toNat with
  | 0 => m.extractLsb' 0 4 == 0#4
  | 3 => false
  | _ => true

/-- The 16 allocated conversion pairs, DF first (R74). -/
def fcvtPairs : List (Nat × Nat) :=
  [(1, 0), (2, 0), (3, 0), (4, 0), (5, 0), (6, 0), (0, 1), (0, 2), (0, 3), (0, 4), (0, 5), (0, 6),
   (3, 1), (4, 1), (3, 2), (4, 2)]

/-- An allocated pair, with SAT only towards an 8-bit format (R74). -/
def wfFcvt (sat : BitVec 1) (df sf : BitVec 4) : Bool :=
  fcvtPairs.contains (df.toNat, sf.toNat) && (sat == 0#1 || df.toNat == 3 || df.toNat == 4)

/-- The data register of an access of size code z: a pair at 0b101, a quad at 0b110 (R78). -/
def wfData (d : SReg) (z : BitVec 3) : Bool :=
  match z.toNat with
  | 5 => isPair d
  | 6 => isQuad d
  | _ => true

/-- The size codes of a store (R78). -/
def wfStoreSize (z : BitVec 3) : Bool := [0, 2, 4, 5, 6].contains z.toNat

/-- The spaces of LLK and SUL: the two windows (R78). -/
def wfWindow (s : BitVec 2) : Bool := s.toNat == 1 || s.toNat == 2

/-- The size and data register of ROP.LD and ROP.ST (R79). -/
def wfRopSize (d : SReg) (s : BitVec 2) : Bool :=
  match s.toNat with
  | 0 => true
  | 1 => isPair d
  | 2 => isQuad d
  | _ => false

/-- A message of SEND or REPLY: the argument pair is 2b, at most 12 payload words, none past g31 (R81, R82).
-/
def wfMessage (b w : BitVec 4) : Bool := decide (w.toNat ≤ 12) && decide (2 * b.toNat + 1 + w.toNat ≤ 31)

/-- The fields of the instruction hold no reserved value. -/
def Instr.wf : Instr → Bool
  | .nop => true
  | .halt => true
  | .bkpt _ => true
  | .trap _ => true
  | .eret _ l => decide (l.toNat ≤ 1)
  | .iflush => true
  | .replay => true
  | .yield => true
  | .add _ _ _ => true
  | .sub _ _ _ => true
  | .mul _ _ _ => true
  | .mulh _ _ _ => true
  | .mulhu _ _ _ => true
  | .div _ _ _ => true
  | .divu _ _ _ => true
  | .rem _ _ _ => true
  | .remu _ _ _ => true
  | .and _ _ _ => true
  | .or _ _ _ => true
  | .xor _ _ _ => true
  | .andn _ _ _ => true
  | .shl _ _ _ => true
  | .shr _ _ _ => true
  | .sra _ _ _ => true
  | .rol _ _ _ => true
  | .ror _ _ _ => true
  | .min _ _ _ => true
  | .max _ _ _ => true
  | .minu _ _ _ => true
  | .maxu _ _ _ => true
  | .adds _ _ _ => true
  | .subs _ _ _ => true
  | .addus _ _ _ => true
  | .subus _ _ _ => true
  | .clz _ _ => true
  | .ctz _ _ => true
  | .popc _ _ => true
  | .brev _ _ => true
  | .sextb _ _ => true
  | .sexth _ _ => true
  | .addi _ _ _ => true
  | .andi _ _ _ => true
  | .ori _ _ _ => true
  | .xori _ _ _ => true
  | .shli _ _ _ => true
  | .shri _ _ _ => true
  | .srai _ _ _ => true
  | .lui _ _ => true
  | .muli _ _ _ => true
  | .cmp _ c _ _ m => decide (c.toNat ≤ 9) && wfCmb m
  | .cmpi _ c _ _ => decide (c.toNat ≤ 9)
  | .pand _ _ _ => true
  | .por _ _ _ => true
  | .pxor _ _ _ => true
  | .pandn _ _ _ => true
  | .porn _ _ _ => true
  | .pnot _ _ => true
  | .sel _ _ _ _ => true
  | .gadd _ _ _ => true
  | .gsub _ _ _ => true
  | .gmul _ _ _ => true
  | .gand _ _ _ => true
  | .gor _ _ _ => true
  | .gxor _ _ _ => true
  | .gshl _ _ _ => true
  | .gshr _ _ _ => true
  | .gmov _ _ => true
  | .gfrom _ _ => true
  | .gaddi _ _ _ => true
  | .gli _ _ => true
  | .addw _ _ _ => true
  | .subw _ _ _ => true
  | .mulw _ _ _ => true
  | .shlw _ _ _ => true
  | .shrw _ _ _ => true
  | .movg _ _ => true
  | .voteAny _ _ => true
  | .voteAll _ _ => true
  | .voteBal _ _ => true
  | .shflIdx _ _ _ => true
  | .shflUp _ _ _ => true
  | .shflDn _ _ _ => true
  | .shflXor _ _ _ => true
  | .redAdd _ _ => true
  | .redMin _ _ => true
  | .redMax _ _ => true
  | .matchLanes _ _ => true
  | .actv _ => true
  | .fadd _ _ _ => true
  | .fsub _ _ _ => true
  | .fmul _ _ _ => true
  | .fmin _ _ _ => true
  | .fmax _ _ _ => true
  | .fabs _ _ => true
  | .fneg _ _ => true
  | .frcp _ _ => true
  | .frsq _ _ => true
  | .fsqrt _ _ => true
  | .fexp2 _ _ => true
  | .flog2 _ _ => true
  | .ffma _ _ _ _ _ => true
  | .fcmp _ c _ _ m => decide (c.toNat ≤ 7) && wfCmb m
  | .fcvt _ _ _ s f g => wfFcvt s f g
  | .fcvtTrap _ _ _ s f g => wfFcvt s f g
  | .hadd2 _ _ _ _ => true
  | .hsub2 _ _ _ _ => true
  | .hmul2 _ _ _ _ => true
  | .hmin2 _ _ _ _ => true
  | .hmax2 _ _ _ _ => true
  | .hfma2 _ _ _ _ _ => true
  | .idp4 _ _ _ _ _ => true
  | .bra _ _ _ => true
  | .jmp _ => true
  | .jal _ => true
  | .jr _ => true
  | .jalr _ _ => true
  | .jrG _ => true
  | .jalrG _ _ => true
  | .jarm _ _ => true
  | .jset _ _ => true
  | .jget _ _ => true
  | .join _ => true
  | .fork _ _ => true
  | .fjoin _ => true
  | .exit => true
  | .monw _ _ _ => true
  | .ld d _ _ s z _ => decide (s.toNat ≠ 3) && decide (z.toNat ≤ 6) && wfData d z
  | .st d _ _ s z _ => decide (s.toNat ≠ 3) && wfStoreSize z && wfData d z
  | .llk d _ _ s z _ => wfWindow s && decide (z.toNat ≤ 6) && wfData d z
  | .sul d _ _ s z _ => wfWindow s && wfStoreSize z && wfData d z
  | .atomAdd d _ _ f => !f.getLsbD 2 || isPair d
  | .atomMin d _ _ f => !f.getLsbD 2 || isPair d
  | .atomMax d _ _ f => !f.getLsbD 2 || isPair d
  | .atomMinu d _ _ f => !f.getLsbD 2 || isPair d
  | .atomMaxu d _ _ f => !f.getLsbD 2 || isPair d
  | .atomAnd d _ _ f => !f.getLsbD 2 || isPair d
  | .atomOr d _ _ f => !f.getLsbD 2 || isPair d
  | .atomXor d _ _ f => !f.getLsbD 2 || isPair d
  | .atomXchg d _ _ f => !f.getLsbD 2 || isPair d
  | .atomCas d _ _ f => if f.getLsbD 2 then isQuad d else isPair d
  | .atomFadd _ _ _ f => !f.getLsbD 2
  | .tlook _ _ => true
  | .tins _ _ _ => true
  | .tdel _ _ => true
  | .tclr => true
  | .ropLd d _ _ s => wfRopSize d s
  | .ropSt d _ _ s => wfRopSize d s
  | .ropAdd d _ _ s => s == 0#1 || isPair d
  | .ropCas2 _ _ _ => true
  | .ropEnq _ _ _ => true
  | .ropChase _ _ _ _ => true
  | .phase k s => decide (k.toNat ≠ 3) && decide (s.toNat ≠ 3)
  | .barArrive _ => true
  | .barWait _ => true
  | .barSync _ => true
  | .barArriveCl _ => true
  | .barWaitCl _ => true
  | .barSyncCl _ => true
  | .qfence _ => true
  | .cpy _ _ _ _ => true
  | .twait _ _ => true
  | .tread _ _ => true
  | .tset _ _ => true
  | .tadd _ _ => true
  | .hset _ _ _ => true
  | .mclaim _ => true
  | .mrelease _ => true
  | .mpost _ _ _ => true
  | .pcset _ _ => true
  | .pcread _ _ => true
  | .pcwait _ => true
  | .send _ b w => wfMessage b w
  | .sendC _ b w => wfMessage b w
  | .sendNb _ _ b w => wfMessage b w
  | .reply b w => wfMessage b w
  | .refuse => true
  | .mbind _ _ _ => true
  | .munbind _ _ => true
  | .mqstat _ _ => true
  | .launch _ _ => true
  | .map _ _ _ => true
  | .grant _ _ _ => true
  | .unmap _ _ => true
  | .mquery _ _ => true
  | .cinv _ _ _ => true
  | .slotcall _ _ => true
  | .slotcallNb _ _ => true
  | .csrr _ _ => true
  | .csrw _ _ => true
  | .csrs _ _ _ => true
  | .csrc _ _ _ => true
  | .plwr _ _ => true
  | .plrd _ _ => true
  | .plgo => true
  | .plhalt => true
  | .plstat _ _ => true
  | .stasha _ _ => true
  | .stashf _ _ => true
  | .slotgive _ _ => true
  | .messageArrival _ => true
  | .mailboxDequeue _ => true
  | .taskAdmission _ => true
  | .taskEnd _ => true
  | .launchPlacement _ => true
  | .workSteal _ => true
  | .sendQueueInject _ => true
  | .sendqTimeout _ => true
  | .unbound _ _ _ => true
  | .overflowRefill _ _ => true
  | .monitorTimeout _ => true
  | .pagereq _ _ => true
  | .coreReplay _ _ => true
  | .coppice _ => true
  | .reAdmission _ => true
  | .migrationProtect => true
  | .migrationSwitch => true
  | .migrationRelease => true
  | .invalidation => true
  | .shootdownAck _ => true
  | .reclaimEnd => true
  | .copyRun _ _ => true
  | .copyComplete _ _ => true
  | .recordIssue _ => true
  | .wload _ => true
  | .swap _ => true
  | .mstream _ => true
  | .gemm _ => true
  | .drain _ => true
  | .recordComplete _ => true
  | .residentSwitch _ => true
  | .sliceEnd _ => true
  | .preemptionRequest _ _ => true
  | .budgetExpiry _ => true
  | .quiescentSave _ => true
  | .contextSave _ => true
  | .contextRestore _ _ => true
  | .determSwitch => true
  | .pleachWalkCycle => true
  | .pleachEntryEnd _ => true
  | .slotgiveMsg _ => true
  | .arrive _ => true
  | .plctlClr => true
  | .msg _ => true
  | .write _ => true
  | .read _ => true
  | .rdata _ => true
  | .rop _ => true
  | .roprep _ => true
  | .xreq _ => true
  | .xrep _ => true
  | .inval _ => true
  | .invack _ => true
  | .marker _ => true
  | .markack _ => true
  | .eack _ => true
  | .e2eRetransmit _ _ => true
  | .peerDisconnect _ => true
  | .rreq _ => true
  | .linkReplayTimeout _ => true
  | .lastingLinkError _ => true
  | .lossOfLight _ _ _ => true
  | .wavelengthReturn _ _ _ => true
  | .restripeRestart _ _ => true
  | .hostSend _ => true
  | .hostMap _ => true
  | .hostGrant _ => true
  | .hostUnmap _ => true
  | .hostMquery _ => true
  | .reserve _ => true
  | .migrate _ => true
  | .hostReplay _ => true
  | .partcreate _ => true
  | .partdestroy _ => true
  | .ctxcreate _ => true
  | .ctxdestroy _ => true
  | .place _ => true
  | .save _ => true
  | .capset _ => true
  | .plassign _ => true
  | .time _ => true
  | .alloc _ => true
  | .free _ => true
  | .log _ => true
  | .signal _ => true
  | .wake _ => true
  | .mapproxy _ => true
  | .yieldslice _ => true
  | .features _ => true
  | .claim _ => true
  | .release _ => true
  | .handover _ _ => true
  | .accept _ => true
  | .handoverLapse => true
  | .transportReset _ => true
  | .negotiate _ => true
  | .registerWrite _ _ _ => true
  | .flr _ => true
  | .moduleReset => true
  | .boot => true
  | .powerGating _ _ => true
  | .thermalShutdown _ => true
  | .getVersion => true
  | .getCapabilities => true
  | .negotiateAlgorithms _ => true
  | .getDigests => true
  | .getCertificate _ _ _ => true
  | .challenge _ => true
  | .getMeasurements _ => true
  | .linkFlit _ _ _ => true
  | .rreqResend _ => true

end Sys2Proof
end

