-- ==== Sys2Proof/Decode.lean ====
section
/-! DEFINITION. Decoding instruction words and bytes, total and rejecting by name, and encoding them,
from the formats of R66 and the code tables of R72 to R81. -/

namespace Sys2Proof

/-- Why bytes or a word are no instruction (R82). -/
inductive DecodeError where
  /-- Fewer than four bytes: no word stands there. -/
  | truncated
  /-- A reserved major, an unallocated code or a nonzero reserved field. -/
  | unallocated
  /-- A reserved value in an enumerated field, a misaligned pair or quad, or a payload past g31. -/
  | reservedValue
  deriving DecidableEq, Repr

/-- The n bits of a word from bit lo up. -/
def fld (w : Word) (lo n : Nat) : BitVec n := w.extractLsb' lo n

/-! ## Decoding -/

/-- Words of major 0x00, SYS (R72). -/
def decSys (w : Word) : Option Instr :=
  match fld w 0 6 with
  | 0x01#6 => if fld w 20 6 = 0#6 ∧ fld w 15 5 = 0#5 ∧ fld w 10 5 = 0#5 ∧ fld w 6 4 = 0#4 then some (.nop) else none
  | 0x02#6 => if fld w 20 6 = 0#6 ∧ fld w 15 5 = 0#5 ∧ fld w 10 5 = 0#5 ∧ fld w 6 4 = 0#4 then some (.halt) else none
  | 0x03#6 => if fld w 20 6 = 0#6 ∧ fld w 15 5 = 0#5 ∧ fld w 10 5 = 0#5 then some (.bkpt (fld w 6 4)) else none
  | 0x04#6 => if fld w 20 6 = 0#6 ∧ fld w 10 5 = 0#5 ∧ fld w 6 4 = 0#4 then some (.trap (fld w 15 5)) else none
  | 0x05#6 => if fld w 20 6 = 0#6 ∧ fld w 10 5 = 0#5 ∧ fld w 8 2 = 0#2 then some (.eret (fld w 15 5) (fld w 6 2)) else none
  | 0x06#6 => if fld w 20 6 = 0#6 ∧ fld w 15 5 = 0#5 ∧ fld w 10 5 = 0#5 ∧ fld w 6 4 = 0#4 then some (.iflush) else none
  | 0x07#6 => if fld w 20 6 = 0#6 ∧ fld w 15 5 = 0#5 ∧ fld w 10 5 = 0#5 ∧ fld w 6 4 = 0#4 then some (.replay) else none
  | 0x08#6 => if fld w 20 6 = 0#6 ∧ fld w 15 5 = 0#5 ∧ fld w 10 5 = 0#5 ∧ fld w 6 4 = 0#4 then some (.yield) else none
  | _ => none

/-- Words of major 0x01, ALU (R72). -/
def decAlu (w : Word) : Option Instr :=
  match fld w 0 8 with
  | 0x01#8 => some (.add (fld w 20 6) (fld w 14 6) (fld w 8 6))
  | 0x02#8 => some (.sub (fld w 20 6) (fld w 14 6) (fld w 8 6))
  | 0x03#8 => some (.mul (fld w 20 6) (fld w 14 6) (fld w 8 6))
  | 0x04#8 => some (.mulh (fld w 20 6) (fld w 14 6) (fld w 8 6))
  | 0x05#8 => some (.mulhu (fld w 20 6) (fld w 14 6) (fld w 8 6))
  | 0x06#8 => some (.div (fld w 20 6) (fld w 14 6) (fld w 8 6))
  | 0x07#8 => some (.divu (fld w 20 6) (fld w 14 6) (fld w 8 6))
  | 0x08#8 => some (.rem (fld w 20 6) (fld w 14 6) (fld w 8 6))
  | 0x09#8 => some (.remu (fld w 20 6) (fld w 14 6) (fld w 8 6))
  | 0x0A#8 => some (.and (fld w 20 6) (fld w 14 6) (fld w 8 6))
  | 0x0B#8 => some (.or (fld w 20 6) (fld w 14 6) (fld w 8 6))
  | 0x0C#8 => some (.xor (fld w 20 6) (fld w 14 6) (fld w 8 6))
  | 0x0D#8 => some (.andn (fld w 20 6) (fld w 14 6) (fld w 8 6))
  | 0x0E#8 => some (.shl (fld w 20 6) (fld w 14 6) (fld w 8 6))
  | 0x0F#8 => some (.shr (fld w 20 6) (fld w 14 6) (fld w 8 6))
  | 0x10#8 => some (.sra (fld w 20 6) (fld w 14 6) (fld w 8 6))
  | 0x11#8 => some (.rol (fld w 20 6) (fld w 14 6) (fld w 8 6))
  | 0x12#8 => some (.ror (fld w 20 6) (fld w 14 6) (fld w 8 6))
  | 0x13#8 => some (.min (fld w 20 6) (fld w 14 6) (fld w 8 6))
  | 0x14#8 => some (.max (fld w 20 6) (fld w 14 6) (fld w 8 6))
  | 0x15#8 => some (.minu (fld w 20 6) (fld w 14 6) (fld w 8 6))
  | 0x16#8 => some (.maxu (fld w 20 6) (fld w 14 6) (fld w 8 6))
  | 0x17#8 => some (.adds (fld w 20 6) (fld w 14 6) (fld w 8 6))
  | 0x18#8 => some (.subs (fld w 20 6) (fld w 14 6) (fld w 8 6))
  | 0x19#8 => some (.addus (fld w 20 6) (fld w 14 6) (fld w 8 6))
  | 0x1A#8 => some (.subus (fld w 20 6) (fld w 14 6) (fld w 8 6))
  | 0x1B#8 => if fld w 8 6 = 0#6 then some (.clz (fld w 20 6) (fld w 14 6)) else none
  | 0x1C#8 => if fld w 8 6 = 0#6 then some (.ctz (fld w 20 6) (fld w 14 6)) else none
  | 0x1D#8 => if fld w 8 6 = 0#6 then some (.popc (fld w 20 6) (fld w 14 6)) else none
  | 0x1E#8 => if fld w 8 6 = 0#6 then some (.brev (fld w 20 6) (fld w 14 6)) else none
  | 0x1F#8 => if fld w 8 6 = 0#6 then some (.sextb (fld w 20 6) (fld w 14 6)) else none
  | 0x20#8 => if fld w 8 6 = 0#6 then some (.sexth (fld w 20 6) (fld w 14 6)) else none
  | _ => none

/-- Words of major 0x02, ADDI (R72). -/
def decAddi (w : Word) : Option Instr :=
  some (.addi (fld w 20 6) (fld w 14 6) (fld w 0 14))

/-- Words of major 0x03, ANDI (R72). -/
def decAndi (w : Word) : Option Instr :=
  some (.andi (fld w 20 6) (fld w 14 6) (fld w 0 14))

/-- Words of major 0x04, ORI (R72). -/
def decOri (w : Word) : Option Instr :=
  some (.ori (fld w 20 6) (fld w 14 6) (fld w 0 14))

/-- Words of major 0x05, XORI (R72). -/
def decXori (w : Word) : Option Instr :=
  some (.xori (fld w 20 6) (fld w 14 6) (fld w 0 14))

/-- Words of major 0x06, SHI (R72). -/
def decShi (w : Word) : Option Instr :=
  match fld w 12 2 with
  | 0x00#2 => if fld w 5 7 = 0#7 then some (.shli (fld w 20 6) (fld w 14 6) (fld w 0 5)) else none
  | 0x01#2 => if fld w 5 7 = 0#7 then some (.shri (fld w 20 6) (fld w 14 6) (fld w 0 5)) else none
  | 0x02#2 => if fld w 5 7 = 0#7 then some (.srai (fld w 20 6) (fld w 14 6) (fld w 0 5)) else none
  | _ => none

/-- Words of major 0x07, LUI (R72). -/
def decLui (w : Word) : Option Instr :=
  some (.lui (fld w 20 6) (fld w 0 20))

/-- Words of major 0x08, MULI (R72). -/
def decMuli (w : Word) : Option Instr :=
  some (.muli (fld w 20 6) (fld w 14 6) (fld w 0 14))

/-- Words of major 0x09, CMP (R72). -/
def decCmp (w : Word) : Option Instr :=
  if fld w 0 1 = 0#1 then some (.cmp (fld w 23 3) (fld w 19 4) (fld w 13 6) (fld w 7 6) (fld w 1 6)) else none

/-- Words of major 0x0A, CMPI (R72). -/
def decCmpi (w : Word) : Option Instr :=
  some (.cmpi (fld w 23 3) (fld w 19 4) (fld w 13 6) (fld w 0 13))

/-- Words of major 0x0B, PLOG (R72). -/
def decPlog (w : Word) : Option Instr :=
  match fld w 0 8 with
  | 0x01#8 => if fld w 23 3 = 0#3 ∧ fld w 17 3 = 0#3 ∧ fld w 11 3 = 0#3 then some (.pand (fld w 20 3) (fld w 14 3) (fld w 8 3)) else none
  | 0x02#8 => if fld w 23 3 = 0#3 ∧ fld w 17 3 = 0#3 ∧ fld w 11 3 = 0#3 then some (.por (fld w 20 3) (fld w 14 3) (fld w 8 3)) else none
  | 0x03#8 => if fld w 23 3 = 0#3 ∧ fld w 17 3 = 0#3 ∧ fld w 11 3 = 0#3 then some (.pxor (fld w 20 3) (fld w 14 3) (fld w 8 3)) else none
  | 0x04#8 => if fld w 23 3 = 0#3 ∧ fld w 17 3 = 0#3 ∧ fld w 11 3 = 0#3 then some (.pandn (fld w 20 3) (fld w 14 3) (fld w 8 3)) else none
  | 0x05#8 => if fld w 23 3 = 0#3 ∧ fld w 17 3 = 0#3 ∧ fld w 11 3 = 0#3 then some (.porn (fld w 20 3) (fld w 14 3) (fld w 8 3)) else none
  | 0x06#8 => if fld w 23 3 = 0#3 ∧ fld w 17 3 = 0#3 ∧ fld w 8 6 = 0#6 then some (.pnot (fld w 20 3) (fld w 14 3)) else none
  | 0x08#8 => some (.sel (fld w 20 6) (fld w 14 6) (fld w 8 6) 0#3)
  | 0x09#8 => some (.sel (fld w 20 6) (fld w 14 6) (fld w 8 6) 1#3)
  | 0x0A#8 => some (.sel (fld w 20 6) (fld w 14 6) (fld w 8 6) 2#3)
  | 0x0B#8 => some (.sel (fld w 20 6) (fld w 14 6) (fld w 8 6) 3#3)
  | 0x0C#8 => some (.sel (fld w 20 6) (fld w 14 6) (fld w 8 6) 4#3)
  | 0x0D#8 => some (.sel (fld w 20 6) (fld w 14 6) (fld w 8 6) 5#3)
  | 0x0E#8 => some (.sel (fld w 20 6) (fld w 14 6) (fld w 8 6) 6#3)
  | 0x0F#8 => some (.sel (fld w 20 6) (fld w 14 6) (fld w 8 6) 7#3)
  | _ => none

/-- Words of major 0x0C, GALU (R72). -/
def decGalu (w : Word) : Option Instr :=
  match fld w 0 8 with
  | 0x01#8 => if fld w 8 3 = 0#3 then some (.gadd (fld w 21 5) (fld w 16 5) (fld w 11 5)) else none
  | 0x02#8 => if fld w 8 3 = 0#3 then some (.gsub (fld w 21 5) (fld w 16 5) (fld w 11 5)) else none
  | 0x03#8 => if fld w 8 3 = 0#3 then some (.gmul (fld w 21 5) (fld w 16 5) (fld w 11 5)) else none
  | 0x04#8 => if fld w 8 3 = 0#3 then some (.gand (fld w 21 5) (fld w 16 5) (fld w 11 5)) else none
  | 0x05#8 => if fld w 8 3 = 0#3 then some (.gor (fld w 21 5) (fld w 16 5) (fld w 11 5)) else none
  | 0x06#8 => if fld w 8 3 = 0#3 then some (.gxor (fld w 21 5) (fld w 16 5) (fld w 11 5)) else none
  | 0x07#8 => if fld w 8 3 = 0#3 then some (.gshl (fld w 21 5) (fld w 16 5) (fld w 11 5)) else none
  | 0x08#8 => if fld w 8 3 = 0#3 then some (.gshr (fld w 21 5) (fld w 16 5) (fld w 11 5)) else none
  | 0x09#8 => if fld w 11 5 = 0#5 ∧ fld w 8 3 = 0#3 then some (.gmov (fld w 21 5) (fld w 16 5)) else none
  | 0x0A#8 => if fld w 11 5 = 0#5 ∧ fld w 8 3 = 0#3 then some (.gfrom (fld w 21 5) (fld w 16 5)) else none
  | _ => none

/-- Words of major 0x0D, GADDI (R72). -/
def decGaddi (w : Word) : Option Instr :=
  some (.gaddi (fld w 21 5) (fld w 16 5) (fld w 0 16))

/-- Words of major 0x0E, GLI (R72). -/
def decGli (w : Word) : Option Instr :=
  if fld w 25 1 = 0#1 then some (.gli (fld w 20 5) (fld w 0 20)) else none

/-- Words of major 0x0F, WALU (R72). -/
def decWalu (w : Word) : Option Instr :=
  match fld w 0 8 with
  | 0x01#8 => if fld w 20 1 = 0#1 ∧ fld w 14 1 = 0#1 ∧ fld w 8 1 = 0#1 then some (.addw (fld w 21 5) (fld w 15 5) (fld w 9 5)) else none
  | 0x02#8 => if fld w 20 1 = 0#1 ∧ fld w 14 1 = 0#1 ∧ fld w 8 1 = 0#1 then some (.subw (fld w 21 5) (fld w 15 5) (fld w 9 5)) else none
  | 0x03#8 => if fld w 20 1 = 0#1 ∧ fld w 14 1 = 0#1 ∧ fld w 8 1 = 0#1 then some (.mulw (fld w 21 5) (fld w 15 5) (fld w 9 5)) else none
  | 0x04#8 => if fld w 20 1 = 0#1 ∧ fld w 14 1 = 0#1 then some (.shlw (fld w 21 5) (fld w 15 5) (fld w 8 6)) else none
  | 0x05#8 => if fld w 20 1 = 0#1 ∧ fld w 14 1 = 0#1 then some (.shrw (fld w 21 5) (fld w 15 5) (fld w 8 6)) else none
  | 0x06#8 => if fld w 20 1 = 0#1 ∧ fld w 19 1 = 0#1 ∧ fld w 8 6 = 0#6 then some (.movg (fld w 21 5) (fld w 14 5)) else none
  | _ => none

/-- Words of major 0x10, XSTR (R72). -/
def decXstr (w : Word) : Option Instr :=
  match fld w 0 8 with
  | 0x01#8 => if fld w 23 3 = 0#3 ∧ fld w 17 3 = 0#3 ∧ fld w 8 6 = 0#6 then some (.voteAny (fld w 20 3) (fld w 14 3)) else none
  | 0x02#8 => if fld w 23 3 = 0#3 ∧ fld w 17 3 = 0#3 ∧ fld w 8 6 = 0#6 then some (.voteAll (fld w 20 3) (fld w 14 3)) else none
  | 0x03#8 => if fld w 17 3 = 0#3 ∧ fld w 8 6 = 0#6 then some (.voteBal (fld w 20 6) (fld w 14 3)) else none
  | 0x04#8 => some (.shflIdx (fld w 20 6) (fld w 14 6) (fld w 8 6))
  | 0x05#8 => some (.shflUp (fld w 20 6) (fld w 14 6) (fld w 8 6))
  | 0x06#8 => some (.shflDn (fld w 20 6) (fld w 14 6) (fld w 8 6))
  | 0x07#8 => some (.shflXor (fld w 20 6) (fld w 14 6) (fld w 8 6))
  | 0x08#8 => if fld w 8 6 = 0#6 then some (.redAdd (fld w 20 6) (fld w 14 6)) else none
  | 0x09#8 => if fld w 8 6 = 0#6 then some (.redMin (fld w 20 6) (fld w 14 6)) else none
  | 0x0A#8 => if fld w 8 6 = 0#6 then some (.redMax (fld w 20 6) (fld w 14 6)) else none
  | 0x0B#8 => if fld w 8 6 = 0#6 then some (.matchLanes (fld w 20 6) (fld w 14 6)) else none
  | 0x0C#8 => if fld w 14 6 = 0#6 ∧ fld w 8 6 = 0#6 then some (.actv (fld w 20 6)) else none
  | _ => none

/-- Words of major 0x11, FALU (R72). -/
def decFalu (w : Word) : Option Instr :=
  match fld w 0 8 with
  | 0x01#8 => some (.fadd (fld w 20 6) (fld w 14 6) (fld w 8 6))
  | 0x02#8 => some (.fsub (fld w 20 6) (fld w 14 6) (fld w 8 6))
  | 0x03#8 => some (.fmul (fld w 20 6) (fld w 14 6) (fld w 8 6))
  | 0x04#8 => some (.fmin (fld w 20 6) (fld w 14 6) (fld w 8 6))
  | 0x05#8 => some (.fmax (fld w 20 6) (fld w 14 6) (fld w 8 6))
  | 0x06#8 => if fld w 8 6 = 0#6 then some (.fabs (fld w 20 6) (fld w 14 6)) else none
  | 0x07#8 => if fld w 8 6 = 0#6 then some (.fneg (fld w 20 6) (fld w 14 6)) else none
  | 0x08#8 => if fld w 8 6 = 0#6 then some (.frcp (fld w 20 6) (fld w 14 6)) else none
  | 0x09#8 => if fld w 8 6 = 0#6 then some (.frsq (fld w 20 6) (fld w 14 6)) else none
  | 0x0A#8 => if fld w 8 6 = 0#6 then some (.fsqrt (fld w 20 6) (fld w 14 6)) else none
  | 0x0B#8 => if fld w 8 6 = 0#6 then some (.fexp2 (fld w 20 6) (fld w 14 6)) else none
  | 0x0C#8 => if fld w 8 6 = 0#6 then some (.flog2 (fld w 20 6) (fld w 14 6)) else none
  | _ => none

/-- Words of major 0x12, FFMA (R72). -/
def decFfma (w : Word) : Option Instr :=
  some (.ffma (fld w 20 6) (fld w 14 6) (fld w 8 6) (fld w 2 6) (fld w 0 2))

/-- Words of major 0x13, FCMP (R72). -/
def decFcmp (w : Word) : Option Instr :=
  if fld w 0 1 = 0#1 then some (.fcmp (fld w 23 3) (fld w 19 4) (fld w 13 6) (fld w 7 6) (fld w 1 6)) else none

/-- Words of major 0x14, FCVT (R72). -/
def decFcvt (w : Word) : Option Instr :=
  match fld w 10 1 with
  | 0x00#1 => if fld w 8 2 = 0#2 then some (.fcvt (fld w 20 6) (fld w 14 6) (fld w 12 2) (fld w 11 1) (fld w 4 4) (fld w 0 4)) else none
  | 0x01#1 => if fld w 8 2 = 0#2 then some (.fcvtTrap (fld w 20 6) (fld w 14 6) (fld w 12 2) (fld w 11 1) (fld w 4 4) (fld w 0 4)) else none

/-- Words of major 0x15, HALU (R72). -/
def decHalu (w : Word) : Option Instr :=
  match fld w 0 8 with
  | 0x01#8 => some (.hadd2 (fld w 20 6) (fld w 14 6) (fld w 8 6) 0#1)
  | 0x02#8 => some (.hsub2 (fld w 20 6) (fld w 14 6) (fld w 8 6) 0#1)
  | 0x03#8 => some (.hmul2 (fld w 20 6) (fld w 14 6) (fld w 8 6) 0#1)
  | 0x04#8 => some (.hmin2 (fld w 20 6) (fld w 14 6) (fld w 8 6) 0#1)
  | 0x05#8 => some (.hmax2 (fld w 20 6) (fld w 14 6) (fld w 8 6) 0#1)
  | 0x81#8 => some (.hadd2 (fld w 20 6) (fld w 14 6) (fld w 8 6) 1#1)
  | 0x82#8 => some (.hsub2 (fld w 20 6) (fld w 14 6) (fld w 8 6) 1#1)
  | 0x83#8 => some (.hmul2 (fld w 20 6) (fld w 14 6) (fld w 8 6) 1#1)
  | 0x84#8 => some (.hmin2 (fld w 20 6) (fld w 14 6) (fld w 8 6) 1#1)
  | 0x85#8 => some (.hmax2 (fld w 20 6) (fld w 14 6) (fld w 8 6) 1#1)
  | _ => none

/-- Words of major 0x16, HFMA2 (R72). -/
def decHfma2 (w : Word) : Option Instr :=
  if fld w 1 1 = 0#1 then some (.hfma2 (fld w 20 6) (fld w 14 6) (fld w 8 6) (fld w 2 6) (fld w 0 1)) else none

/-- Words of major 0x17, IDP4 (R72). -/
def decIdp4 (w : Word) : Option Instr :=
  some (.idp4 (fld w 20 6) (fld w 14 6) (fld w 8 6) (fld w 2 6) (fld w 0 2))

/-- Words of major 0x18, BRA (R72). -/
def decBra (w : Word) : Option Instr :=
  some (.bra (fld w 25 1) (fld w 22 3) (fld w 0 22))

/-- Words of major 0x19, JMP (R72). -/
def decJmp (w : Word) : Option Instr :=
  some (.jmp (fld w 0 26))

/-- Words of major 0x1A, JAL (R72). -/
def decJal (w : Word) : Option Instr :=
  some (.jal (fld w 0 26))

/-- Words of major 0x1B, JR (R72). -/
def decJr (w : Word) : Option Instr :=
  match fld w 0 8 with
  | 0x01#8 => if fld w 20 6 = 0#6 ∧ fld w 8 6 = 0#6 then some (.jr (fld w 14 6)) else none
  | 0x02#8 => if fld w 8 6 = 0#6 then some (.jalr (fld w 20 6) (fld w 14 6)) else none
  | 0x03#8 => if fld w 20 6 = 0#6 ∧ fld w 19 1 = 0#1 ∧ fld w 8 6 = 0#6 then some (.jrG (fld w 14 5)) else none
  | 0x04#8 => if fld w 19 1 = 0#1 ∧ fld w 8 6 = 0#6 then some (.jalrG (fld w 20 6) (fld w 14 5)) else none
  | _ => none

/-- Words of major 0x1C, JOINOP (R72). -/
def decJoinop (w : Word) : Option Instr :=
  match fld w 23 3 with
  | 0x00#3 => some (.jarm (fld w 20 3) (fld w 0 20))
  | 0x01#3 => if fld w 0 14 = 0#14 then some (.jset (fld w 20 3) (fld w 14 6)) else none
  | 0x02#3 => if fld w 0 14 = 0#14 then some (.jget (fld w 20 3) (fld w 14 6)) else none
  | 0x03#3 => if fld w 14 6 = 0#6 ∧ fld w 0 14 = 0#14 then some (.join (fld w 20 3)) else none
  | _ => none

/-- Words of major 0x1D, TASKOP (R72). -/
def decTaskop (w : Word) : Option Instr :=
  match fld w 19 1 with
  | 0x00#1 => some (.fork (fld w 20 6) (fld w 0 19))
  | 0x01#1 => if fld w 0 19 = 0#19 then some (.fjoin (fld w 20 6)) else none

/-- Words of major 0x1E, EXIT (R72). -/
def decExit (w : Word) : Option Instr :=
  if fld w 0 26 = 0#26 then some (.exit) else none

/-- Words of major 0x1F, MONW (R72). -/
def decMonw (w : Word) : Option Instr :=
  if fld w 20 6 = 0#6 ∧ fld w 7 2 = 0#2 ∧ fld w 4 3 = 4#3 then some (.monw (fld w 15 5) (fld w 9 6) (fld w 0 4)) else none

/-- Words of major 0x20, LD (R72). -/
def decLd (w : Word) : Option Instr :=
  some (.ld (fld w 20 6) (fld w 15 5) (fld w 9 6) (fld w 7 2) (fld w 4 3) (fld w 0 4))

/-- Words of major 0x21, ST (R72). -/
def decSt (w : Word) : Option Instr :=
  some (.st (fld w 20 6) (fld w 15 5) (fld w 9 6) (fld w 7 2) (fld w 4 3) (fld w 0 4))

/-- Words of major 0x22, LLK (R72). -/
def decLlk (w : Word) : Option Instr :=
  some (.llk (fld w 20 6) (fld w 15 5) (fld w 9 6) (fld w 7 2) (fld w 4 3) (fld w 0 4))

/-- Words of major 0x23, SUL (R72). -/
def decSul (w : Word) : Option Instr :=
  some (.sul (fld w 20 6) (fld w 15 5) (fld w 9 6) (fld w 7 2) (fld w 4 3) (fld w 0 4))

/-- Words of major 0x24, ATOM (R72). -/
def decAtom (w : Word) : Option Instr :=
  match fld w 4 5 with
  | 0x00#5 => if fld w 3 1 = 0#1 then some (.atomAdd (fld w 20 6) (fld w 15 5) (fld w 9 6) (fld w 0 3)) else none
  | 0x01#5 => if fld w 3 1 = 0#1 then some (.atomMin (fld w 20 6) (fld w 15 5) (fld w 9 6) (fld w 0 3)) else none
  | 0x02#5 => if fld w 3 1 = 0#1 then some (.atomMax (fld w 20 6) (fld w 15 5) (fld w 9 6) (fld w 0 3)) else none
  | 0x03#5 => if fld w 3 1 = 0#1 then some (.atomMinu (fld w 20 6) (fld w 15 5) (fld w 9 6) (fld w 0 3)) else none
  | 0x04#5 => if fld w 3 1 = 0#1 then some (.atomMaxu (fld w 20 6) (fld w 15 5) (fld w 9 6) (fld w 0 3)) else none
  | 0x05#5 => if fld w 3 1 = 0#1 then some (.atomAnd (fld w 20 6) (fld w 15 5) (fld w 9 6) (fld w 0 3)) else none
  | 0x06#5 => if fld w 3 1 = 0#1 then some (.atomOr (fld w 20 6) (fld w 15 5) (fld w 9 6) (fld w 0 3)) else none
  | 0x07#5 => if fld w 3 1 = 0#1 then some (.atomXor (fld w 20 6) (fld w 15 5) (fld w 9 6) (fld w 0 3)) else none
  | 0x08#5 => if fld w 3 1 = 0#1 then some (.atomXchg (fld w 20 6) (fld w 15 5) (fld w 9 6) (fld w 0 3)) else none
  | 0x09#5 => if fld w 3 1 = 0#1 then some (.atomCas (fld w 20 6) (fld w 15 5) (fld w 9 6) (fld w 0 3)) else none
  | 0x0A#5 => if fld w 3 1 = 0#1 then some (.atomFadd (fld w 20 6) (fld w 15 5) (fld w 9 6) (fld w 0 3)) else none
  | _ => none

/-- Words of major 0x25, TAG (R72). -/
def decTag (w : Word) : Option Instr :=
  match fld w 0 8 with
  | 0x01#8 => if fld w 8 6 = 0#6 then some (.tlook (fld w 20 6) (fld w 14 6)) else none
  | 0x02#8 => some (.tins (fld w 20 6) (fld w 14 6) (fld w 8 6))
  | 0x03#8 => if fld w 8 6 = 0#6 then some (.tdel (fld w 20 6) (fld w 14 6)) else none
  | 0x04#8 => if fld w 20 6 = 0#6 ∧ fld w 14 6 = 0#6 ∧ fld w 8 6 = 0#6 then some (.tclr) else none
  | _ => none

/-- Words of major 0x26, ROP (R72). -/
def decRop (w : Word) : Option Instr :=
  match fld w 4 5 with
  | 0x00#5 => if fld w 2 2 = 0#2 then some (.ropLd (fld w 20 6) (fld w 15 5) (fld w 9 6) (fld w 0 2)) else none
  | 0x01#5 => if fld w 2 2 = 0#2 then some (.ropSt (fld w 20 6) (fld w 15 5) (fld w 9 6) (fld w 0 2)) else none
  | 0x02#5 => if fld w 1 3 = 0#3 then some (.ropAdd (fld w 20 6) (fld w 15 5) (fld w 9 6) (fld w 0 1)) else none
  | 0x03#5 => if fld w 20 2 = 0#2 ∧ fld w 0 4 = 0#4 then some (.ropCas2 (fld w 22 4) (fld w 15 5) (fld w 9 6)) else none
  | 0x04#5 => if fld w 20 1 = 0#1 ∧ fld w 0 4 = 0#4 then some (.ropEnq (fld w 21 5) (fld w 15 5) (fld w 9 6)) else none
  | 0x05#5 => if fld w 20 1 = 0#1 ∧ fld w 3 1 = 0#1 then some (.ropChase (fld w 21 5) (fld w 15 5) (fld w 9 6) (fld w 0 3)) else none
  | _ => none

/-- Words of major 0x28, PHASE (R72). -/
def decPhase (w : Word) : Option Instr :=
  match fld w 0 6 with
  | 0x00#6 => if fld w 20 6 = 0#6 ∧ fld w 15 5 = 0#5 ∧ fld w 10 5 = 0#5 then some (.phase (fld w 8 2) (fld w 6 2)) else none
  | _ => none

/-- Words of major 0x29, BAR (R72). -/
def decBar (w : Word) : Option Instr :=
  match fld w 0 6 with
  | 0x01#6 => if fld w 20 6 = 0#6 ∧ fld w 15 5 = 0#5 ∧ fld w 10 5 = 0#5 then some (.barArrive (fld w 6 4)) else none
  | 0x02#6 => if fld w 20 6 = 0#6 ∧ fld w 15 5 = 0#5 ∧ fld w 10 5 = 0#5 then some (.barWait (fld w 6 4)) else none
  | 0x03#6 => if fld w 20 6 = 0#6 ∧ fld w 15 5 = 0#5 ∧ fld w 10 5 = 0#5 then some (.barSync (fld w 6 4)) else none
  | 0x11#6 => if fld w 20 6 = 0#6 ∧ fld w 15 5 = 0#5 ∧ fld w 10 5 = 0#5 then some (.barArriveCl (fld w 6 4)) else none
  | 0x12#6 => if fld w 20 6 = 0#6 ∧ fld w 15 5 = 0#5 ∧ fld w 10 5 = 0#5 then some (.barWaitCl (fld w 6 4)) else none
  | 0x13#6 => if fld w 20 6 = 0#6 ∧ fld w 15 5 = 0#5 ∧ fld w 10 5 = 0#5 then some (.barSyncCl (fld w 6 4)) else none
  | _ => none

/-- Words of major 0x2A, QFENCE (R72). -/
def decQfence (w : Word) : Option Instr :=
  match fld w 0 6 with
  | 0x00#6 => if fld w 20 6 = 0#6 ∧ fld w 10 5 = 0#5 ∧ fld w 6 4 = 0#4 then some (.qfence (fld w 15 5)) else none
  | _ => none

/-- Words of major 0x2B, CPY (R72). -/
def decCpy (w : Word) : Option Instr :=
  match fld w 0 6 with
  | 0x00#6 => if fld w 23 3 = 0#3 then some (.cpy (fld w 20 3) (fld w 15 5) (fld w 10 5) (fld w 6 4)) else none
  | _ => none

/-- Words of major 0x2C, TOK (R72). -/
def decTok (w : Word) : Option Instr :=
  match fld w 0 6 with
  | 0x01#6 => if fld w 20 6 = 0#6 ∧ fld w 10 5 = 0#5 then some (.twait (fld w 15 5) (fld w 6 4)) else none
  | 0x02#6 => if fld w 25 1 = 0#1 ∧ fld w 15 5 = 0#5 ∧ fld w 10 5 = 0#5 then some (.tread (fld w 20 5) (fld w 6 4)) else none
  | 0x03#6 => if fld w 20 6 = 0#6 ∧ fld w 10 5 = 0#5 then some (.tset (fld w 15 5) (fld w 6 4)) else none
  | 0x04#6 => if fld w 20 6 = 0#6 ∧ fld w 10 5 = 0#5 then some (.tadd (fld w 15 5) (fld w 6 4)) else none
  | _ => none

/-- Words of major 0x2D, HSET (R72). -/
def decHset (w : Word) : Option Instr :=
  match fld w 0 6 with
  | 0x00#6 => if fld w 23 3 = 0#3 ∧ fld w 10 5 = 0#5 ∧ fld w 8 2 = 0#2 then some (.hset (fld w 20 3) (fld w 15 5) (fld w 6 2)) else none
  | _ => none

/-- Words of major 0x2E, MTX (R72). -/
def decMtx (w : Word) : Option Instr :=
  match fld w 0 6 with
  | 0x01#6 => if fld w 25 1 = 0#1 ∧ fld w 15 5 = 0#5 ∧ fld w 10 5 = 0#5 ∧ fld w 6 4 = 0#4 then some (.mclaim (fld w 20 5)) else none
  | 0x02#6 => if fld w 20 6 = 0#6 ∧ fld w 10 5 = 0#5 ∧ fld w 6 4 = 0#4 then some (.mrelease (fld w 15 5)) else none
  | 0x03#6 => if fld w 20 6 = 0#6 then some (.mpost (fld w 15 5) (fld w 10 5) (fld w 6 4)) else none
  | 0x04#6 => if fld w 20 6 = 0#6 ∧ fld w 6 4 = 0#4 then some (.pcset (fld w 15 5) (fld w 10 5)) else none
  | 0x05#6 => if fld w 25 1 = 0#1 ∧ fld w 10 5 = 0#5 ∧ fld w 6 4 = 0#4 then some (.pcread (fld w 20 5) (fld w 15 5)) else none
  | 0x06#6 => if fld w 20 6 = 0#6 ∧ fld w 10 5 = 0#5 ∧ fld w 6 4 = 0#4 then some (.pcwait (fld w 15 5)) else none
  | _ => none

/-- Words of major 0x30, SEND (R72). -/
def decSend (w : Word) : Option Instr :=
  match fld w 0 6 with
  | 0x01#6 => if fld w 20 6 = 0#6 ∧ fld w 10 1 = 0#1 then some (.send (fld w 15 5) (fld w 11 4) (fld w 6 4)) else none
  | 0x02#6 => if fld w 20 6 = 0#6 ∧ fld w 10 1 = 0#1 then some (.sendC (fld w 15 5) (fld w 11 4) (fld w 6 4)) else none
  | 0x03#6 => if fld w 23 3 = 0#3 ∧ fld w 10 1 = 0#1 then some (.sendNb (fld w 20 3) (fld w 15 5) (fld w 11 4) (fld w 6 4)) else none
  | _ => none

/-- Words of major 0x31, MSG (R72). -/
def decMsg (w : Word) : Option Instr :=
  match fld w 0 6 with
  | 0x01#6 => if fld w 20 6 = 0#6 ∧ fld w 15 5 = 0#5 ∧ fld w 10 1 = 0#1 then some (.reply (fld w 11 4) (fld w 6 4)) else none
  | 0x02#6 => if fld w 20 6 = 0#6 ∧ fld w 15 5 = 0#5 ∧ fld w 10 5 = 0#5 ∧ fld w 6 4 = 0#4 then some (.refuse) else none
  | 0x03#6 => if fld w 25 1 = 0#1 ∧ fld w 6 4 = 0#4 then some (.mbind (fld w 20 5) (fld w 15 5) (fld w 10 5)) else none
  | 0x04#6 => if fld w 25 1 = 0#1 ∧ fld w 10 5 = 0#5 ∧ fld w 6 4 = 0#4 then some (.munbind (fld w 20 5) (fld w 15 5)) else none
  | 0x05#6 => if fld w 25 1 = 0#1 ∧ fld w 10 5 = 0#5 ∧ fld w 6 4 = 0#4 then some (.mqstat (fld w 20 5) (fld w 15 5)) else none
  | 0x06#6 => if fld w 20 6 = 0#6 ∧ fld w 10 5 = 0#5 then some (.launch (fld w 15 5) (fld w 6 4)) else none
  | _ => none

/-- Words of major 0x32, MAPOP (R72). -/
def decMapop (w : Word) : Option Instr :=
  match fld w 0 6 with
  | 0x01#6 => if fld w 25 1 = 0#1 ∧ fld w 6 4 = 0#4 then some (.map (fld w 20 5) (fld w 15 5) (fld w 10 5)) else none
  | 0x02#6 => if fld w 25 1 = 0#1 ∧ fld w 6 4 = 0#4 then some (.grant (fld w 20 5) (fld w 15 5) (fld w 10 5)) else none
  | 0x03#6 => if fld w 25 1 = 0#1 ∧ fld w 10 5 = 0#5 ∧ fld w 6 4 = 0#4 then some (.unmap (fld w 20 5) (fld w 15 5)) else none
  | 0x04#6 => if fld w 25 1 = 0#1 ∧ fld w 10 5 = 0#5 ∧ fld w 6 4 = 0#4 then some (.mquery (fld w 20 5) (fld w 15 5)) else none
  | _ => none

/-- Words of major 0x33, CINV (R72). -/
def decCinv (w : Word) : Option Instr :=
  match fld w 0 6 with
  | 0x00#6 => if fld w 25 1 = 0#1 ∧ fld w 6 4 = 0#4 then some (.cinv (fld w 20 5) (fld w 15 5) (fld w 10 5)) else none
  | _ => none

/-- Words of major 0x34, SLOTCALL (R72). -/
def decSlotcall (w : Word) : Option Instr :=
  match fld w 0 6 with
  | 0x01#6 => if fld w 25 1 = 0#1 ∧ fld w 10 5 = 0#5 ∧ fld w 6 4 = 0#4 then some (.slotcall (fld w 20 5) (fld w 15 5)) else none
  | 0x02#6 => if fld w 25 1 = 0#1 ∧ fld w 10 5 = 0#5 ∧ fld w 6 4 = 0#4 then some (.slotcallNb (fld w 20 5) (fld w 15 5)) else none
  | _ => none

/-- Words of major 0x35, CSR (R72). -/
def decCsr (w : Word) : Option Instr :=
  match fld w 12 2 with
  | 0x00#2 => if fld w 14 6 = 0#6 then some (.csrr (fld w 20 6) (fld w 0 12)) else none
  | 0x01#2 => if fld w 20 6 = 0#6 then some (.csrw (fld w 14 6) (fld w 0 12)) else none
  | 0x02#2 => some (.csrs (fld w 20 6) (fld w 14 6) (fld w 0 12))
  | 0x03#2 => some (.csrc (fld w 20 6) (fld w 14 6) (fld w 0 12))

/-- Words of major 0x36, PLEACH (R72). -/
def decPleach (w : Word) : Option Instr :=
  match fld w 0 6 with
  | 0x01#6 => if fld w 20 6 = 0#6 ∧ fld w 10 1 = 0#1 ∧ fld w 6 4 = 0#4 then some (.plwr (fld w 15 5) (fld w 11 4)) else none
  | 0x02#6 => if fld w 25 1 = 0#1 ∧ fld w 20 1 = 0#1 ∧ fld w 10 5 = 0#5 ∧ fld w 6 4 = 0#4 then some (.plrd (fld w 21 4) (fld w 15 5)) else none
  | 0x03#6 => if fld w 20 6 = 0#6 ∧ fld w 15 5 = 0#5 ∧ fld w 10 5 = 0#5 ∧ fld w 6 4 = 0#4 then some (.plgo) else none
  | 0x04#6 => if fld w 20 6 = 0#6 ∧ fld w 15 5 = 0#5 ∧ fld w 10 5 = 0#5 ∧ fld w 6 4 = 0#4 then some (.plhalt) else none
  | 0x05#6 => if fld w 25 1 = 0#1 ∧ fld w 10 5 = 0#5 ∧ fld w 6 4 = 0#4 then some (.plstat (fld w 20 5) (fld w 15 5)) else none
  | 0x06#6 => if fld w 20 6 = 0#6 ∧ fld w 6 4 = 0#4 then some (.stasha (fld w 15 5) (fld w 10 5)) else none
  | 0x07#6 => if fld w 20 6 = 0#6 ∧ fld w 6 4 = 0#4 then some (.stashf (fld w 15 5) (fld w 10 5)) else none
  | 0x08#6 => if fld w 20 6 = 0#6 ∧ fld w 6 4 = 0#4 then some (.slotgive (fld w 15 5) (fld w 10 5)) else none
  | _ => none

/-- The instruction whose encoding a word is, before the value checks of WellFormed: the major opcode
selects the format (R66, R72). Majors 0x27, 0x2F and 0x37 to 0x3F are reserved. -/
def decodeFields (w : Word) : Option Instr :=
  match fld w 26 6 with
  | 0x00#6 => decSys w
  | 0x01#6 => decAlu w
  | 0x02#6 => decAddi w
  | 0x03#6 => decAndi w
  | 0x04#6 => decOri w
  | 0x05#6 => decXori w
  | 0x06#6 => decShi w
  | 0x07#6 => decLui w
  | 0x08#6 => decMuli w
  | 0x09#6 => decCmp w
  | 0x0A#6 => decCmpi w
  | 0x0B#6 => decPlog w
  | 0x0C#6 => decGalu w
  | 0x0D#6 => decGaddi w
  | 0x0E#6 => decGli w
  | 0x0F#6 => decWalu w
  | 0x10#6 => decXstr w
  | 0x11#6 => decFalu w
  | 0x12#6 => decFfma w
  | 0x13#6 => decFcmp w
  | 0x14#6 => decFcvt w
  | 0x15#6 => decHalu w
  | 0x16#6 => decHfma2 w
  | 0x17#6 => decIdp4 w
  | 0x18#6 => decBra w
  | 0x19#6 => decJmp w
  | 0x1A#6 => decJal w
  | 0x1B#6 => decJr w
  | 0x1C#6 => decJoinop w
  | 0x1D#6 => decTaskop w
  | 0x1E#6 => decExit w
  | 0x1F#6 => decMonw w
  | 0x20#6 => decLd w
  | 0x21#6 => decSt w
  | 0x22#6 => decLlk w
  | 0x23#6 => decSul w
  | 0x24#6 => decAtom w
  | 0x25#6 => decTag w
  | 0x26#6 => decRop w
  | 0x28#6 => decPhase w
  | 0x29#6 => decBar w
  | 0x2A#6 => decQfence w
  | 0x2B#6 => decCpy w
  | 0x2C#6 => decTok w
  | 0x2D#6 => decHset w
  | 0x2E#6 => decMtx w
  | 0x30#6 => decSend w
  | 0x31#6 => decMsg w
  | 0x32#6 => decMapop w
  | 0x33#6 => decCinv w
  | 0x34#6 => decSlotcall w
  | 0x35#6 => decCsr w
  | 0x36#6 => decPleach w
  | _ => none

/-- The instruction of a word (R82): allocated, with every field at a value it may hold. -/
def decodeWord (w : Word) : Except DecodeError Instr :=
  match decodeFields w with
  | none => .error .unallocated
  | some i => if i.wf then .ok i else .error .reservedValue

/-- A word from its four bytes, the lowest address first (R4). -/
def wordOfBytes (b0 b1 b2 b3 : Byte) : Word := b3 ++ b2 ++ b1 ++ b0

/-- The four bytes of a word, the lowest address first (R4). -/
def bytesOfWord (w : Word) : List Byte :=
  [w.extractLsb' 0 8, w.extractLsb' 8 8, w.extractLsb' 16 8, w.extractLsb' 24 8]

/-- Reads one instruction from bytes, and what follows it. -/
def decode : List Byte → Except DecodeError (Instr × List Byte)
  | b0 :: b1 :: b2 :: b3 :: rest =>
    match decodeWord (wordOfBytes b0 b1 b2 b3) with
    | .ok i => .ok (i, rest)
    | .error e => .error e
  | _ => .error .truncated

/-- The low n bytes of a number, the least significant first. -/
def bytesOfNat : Nat → Nat → List Byte
  | 0, _ => []
  | n + 1, w => BitVec.ofNat 8 w :: bytesOfNat n (w / 256)

/-- The instruction read from an instruction word whose nbits low bits are w and whose other bits are
zero: the word is laid out in memory order and given to the decoder. -/
def decodeTableWord (nbits w : Nat) : Option Instr :=
  match decode (bytesOfNat ((nbits + 7) / 8) (w % 2 ^ nbits) ++ bytesOfNat (4 - (nbits + 7) / 8) 0) with
  | .ok (i, _) => some i
  | .error _ => none

/-! ## Encoding -/

/-- A word of format R (R66). -/
def mkR (op : BitVec 6) (d : BitVec 6) (a : BitVec 6) (b : BitVec 6) (fn : BitVec 8) : Word :=
  op ++ d ++ a ++ b ++ fn

/-- A word of format R4 (R66). -/
def mkR4 (op : BitVec 6) (d : BitVec 6) (a : BitVec 6) (b : BitVec 6) (c : BitVec 6) (md : BitVec 2) : Word :=
  op ++ d ++ a ++ b ++ c ++ md

/-- A word of format I (R66). -/
def mkI (op : BitVec 6) (d : BitVec 6) (a : BitVec 6) (imm : BitVec 14) : Word :=
  op ++ d ++ a ++ imm

/-- A word of format S (R66). -/
def mkS (op : BitVec 6) (d : BitVec 6) (a : BitVec 6) (kind : BitVec 2) (zero : BitVec 7) (cnt : BitVec 5) : Word :=
  op ++ d ++ a ++ kind ++ zero ++ cnt

/-- A word of format Csr (R66). -/
def mkCsr (op : BitVec 6) (d : BitVec 6) (a : BitVec 6) (csrop : BitVec 2) (csr : BitVec 12) : Word :=
  op ++ d ++ a ++ csrop ++ csr

/-- A word of format L (R66). -/
def mkL (op : BitVec 6) (d : BitVec 6) (imm : BitVec 20) : Word :=
  op ++ d ++ imm

/-- A word of format Join (R66). -/
def mkJoin (op : BitVec 6) (jsub : BitVec 3) (jn : BitVec 3) (imm : BitVec 20) : Word :=
  op ++ jsub ++ jn ++ imm

/-- A word of format JoinR (R66). -/
def mkJoinR (op : BitVec 6) (jsub : BitVec 3) (jn : BitVec 3) (r : BitVec 6) (zero : BitVec 14) : Word :=
  op ++ jsub ++ jn ++ r ++ zero

/-- A word of format Task (R66). -/
def mkTask (op : BitVec 6) (a : BitVec 6) (ts : BitVec 1) (off : BitVec 19) : Word :=
  op ++ a ++ ts ++ off

/-- A word of format P (R66). -/
def mkP (op : BitVec 6) (pd : BitVec 3) (cc : BitVec 4) (a : BitVec 6) (b : BitVec 6) (cmb : BitVec 7) : Word :=
  op ++ pd ++ cc ++ a ++ b ++ cmb

/-- A word of format PI (R66). -/
def mkPI (op : BitVec 6) (pd : BitVec 3) (cc : BitVec 4) (a : BitVec 6) (imm : BitVec 13) : Word :=
  op ++ pd ++ cc ++ a ++ imm

/-- A word of format M (R66). -/
def mkM (op : BitVec 6) (d : BitVec 6) (g : BitVec 5) (x : BitVec 6) (sp : BitVec 2) (sz : BitVec 3) (imm : BitVec 4) : Word :=
  op ++ d ++ g ++ x ++ sp ++ sz ++ imm

/-- A word of format A (R66). -/
def mkA (op : BitVec 6) (d : BitVec 6) (g : BitVec 5) (x : BitVec 6) (aop : BitVec 5) (fl : BitVec 4) : Word :=
  op ++ d ++ g ++ x ++ aop ++ fl

/-- A word of format C (R66). -/
def mkC (op : BitVec 6) (neg : BitVec 1) (pred : BitVec 3) (off : BitVec 22) : Word :=
  op ++ neg ++ pred ++ off

/-- A word of format J (R66). -/
def mkJ (op : BitVec 6) (off : BitVec 26) : Word :=
  op ++ off

/-- A word of format G (R66). -/
def mkG (op : BitVec 6) (gd : BitVec 5) (ga : BitVec 5) (gb : BitVec 5) (zero : BitVec 3) (fn : BitVec 8) : Word :=
  op ++ gd ++ ga ++ gb ++ zero ++ fn

/-- A word of format GI (R66). -/
def mkGI (op : BitVec 6) (gd : BitVec 5) (ga : BitVec 5) (imm : BitVec 16) : Word :=
  op ++ gd ++ ga ++ imm

/-- A word of format X (R66). -/
def mkX (op : BitVec 6) (d : BitVec 6) (ga : BitVec 5) (gb : BitVec 5) (z : BitVec 4) (sub : BitVec 6) : Word :=
  op ++ d ++ ga ++ gb ++ z ++ sub

/-- A word of format Fcvt (R66). -/
def mkFcvt (op : BitVec 6) (d : BitVec 6) (a : BitVec 6) (rm : BitVec 2) (sat : BitVec 1) (trap : BitVec 1) (zero : BitVec 2) (df : BitVec 4) (sf : BitVec 4) : Word :=
  op ++ d ++ a ++ rm ++ sat ++ trap ++ zero ++ df ++ sf
/-- The word of an instruction; an event has none. -/
def encode : Instr → Option Word
  | .nop => some (mkX 0x00#6 0#6 0#5 0#5 0#4 1#6)
  | .halt => some (mkX 0x00#6 0#6 0#5 0#5 0#4 2#6)
  | .bkpt z => some (mkX 0x00#6 0#6 0#5 0#5 z 3#6)
  | .trap a => some (mkX 0x00#6 0#6 a 0#5 0#4 4#6)
  | .eret a l => some (mkX 0x00#6 0#6 a 0#5 (0#2 ++ l) 5#6)
  | .iflush => some (mkX 0x00#6 0#6 0#5 0#5 0#4 6#6)
  | .replay => some (mkX 0x00#6 0#6 0#5 0#5 0#4 7#6)
  | .yield => some (mkX 0x00#6 0#6 0#5 0#5 0#4 8#6)
  | .add d a b => some (mkR 0x01#6 d a b 1#8)
  | .sub d a b => some (mkR 0x01#6 d a b 2#8)
  | .mul d a b => some (mkR 0x01#6 d a b 3#8)
  | .mulh d a b => some (mkR 0x01#6 d a b 4#8)
  | .mulhu d a b => some (mkR 0x01#6 d a b 5#8)
  | .div d a b => some (mkR 0x01#6 d a b 6#8)
  | .divu d a b => some (mkR 0x01#6 d a b 7#8)
  | .rem d a b => some (mkR 0x01#6 d a b 8#8)
  | .remu d a b => some (mkR 0x01#6 d a b 9#8)
  | .and d a b => some (mkR 0x01#6 d a b 10#8)
  | .or d a b => some (mkR 0x01#6 d a b 11#8)
  | .xor d a b => some (mkR 0x01#6 d a b 12#8)
  | .andn d a b => some (mkR 0x01#6 d a b 13#8)
  | .shl d a b => some (mkR 0x01#6 d a b 14#8)
  | .shr d a b => some (mkR 0x01#6 d a b 15#8)
  | .sra d a b => some (mkR 0x01#6 d a b 16#8)
  | .rol d a b => some (mkR 0x01#6 d a b 17#8)
  | .ror d a b => some (mkR 0x01#6 d a b 18#8)
  | .min d a b => some (mkR 0x01#6 d a b 19#8)
  | .max d a b => some (mkR 0x01#6 d a b 20#8)
  | .minu d a b => some (mkR 0x01#6 d a b 21#8)
  | .maxu d a b => some (mkR 0x01#6 d a b 22#8)
  | .adds d a b => some (mkR 0x01#6 d a b 23#8)
  | .subs d a b => some (mkR 0x01#6 d a b 24#8)
  | .addus d a b => some (mkR 0x01#6 d a b 25#8)
  | .subus d a b => some (mkR 0x01#6 d a b 26#8)
  | .clz d a => some (mkR 0x01#6 d a 0#6 27#8)
  | .ctz d a => some (mkR 0x01#6 d a 0#6 28#8)
  | .popc d a => some (mkR 0x01#6 d a 0#6 29#8)
  | .brev d a => some (mkR 0x01#6 d a 0#6 30#8)
  | .sextb d a => some (mkR 0x01#6 d a 0#6 31#8)
  | .sexth d a => some (mkR 0x01#6 d a 0#6 32#8)
  | .addi d a i => some (mkI 0x02#6 d a i)
  | .andi d a i => some (mkI 0x03#6 d a i)
  | .ori d a i => some (mkI 0x04#6 d a i)
  | .xori d a i => some (mkI 0x05#6 d a i)
  | .shli d a c => some (mkS 0x06#6 d a 0#2 0#7 c)
  | .shri d a c => some (mkS 0x06#6 d a 1#2 0#7 c)
  | .srai d a c => some (mkS 0x06#6 d a 2#2 0#7 c)
  | .lui d i => some (mkL 0x07#6 d i)
  | .muli d a i => some (mkI 0x08#6 d a i)
  | .cmp p c a b m => some (mkP 0x09#6 p c a b (m ++ 0#1))
  | .cmpi p c a i => some (mkPI 0x0A#6 p c a i)
  | .pand d a b => some (mkR 0x0B#6 (0#3 ++ d) (0#3 ++ a) (0#3 ++ b) 1#8)
  | .por d a b => some (mkR 0x0B#6 (0#3 ++ d) (0#3 ++ a) (0#3 ++ b) 2#8)
  | .pxor d a b => some (mkR 0x0B#6 (0#3 ++ d) (0#3 ++ a) (0#3 ++ b) 3#8)
  | .pandn d a b => some (mkR 0x0B#6 (0#3 ++ d) (0#3 ++ a) (0#3 ++ b) 4#8)
  | .porn d a b => some (mkR 0x0B#6 (0#3 ++ d) (0#3 ++ a) (0#3 ++ b) 5#8)
  | .pnot d a => some (mkR 0x0B#6 (0#3 ++ d) (0#3 ++ a) 0#6 6#8)
  | .sel d a b p => some (mkR 0x0B#6 d a b (1#5 ++ p))
  | .gadd d a b => some (mkG 0x0C#6 d a b 0#3 1#8)
  | .gsub d a b => some (mkG 0x0C#6 d a b 0#3 2#8)
  | .gmul d a b => some (mkG 0x0C#6 d a b 0#3 3#8)
  | .gand d a b => some (mkG 0x0C#6 d a b 0#3 4#8)
  | .gor d a b => some (mkG 0x0C#6 d a b 0#3 5#8)
  | .gxor d a b => some (mkG 0x0C#6 d a b 0#3 6#8)
  | .gshl d a b => some (mkG 0x0C#6 d a b 0#3 7#8)
  | .gshr d a b => some (mkG 0x0C#6 d a b 0#3 8#8)
  | .gmov d a => some (mkG 0x0C#6 d a 0#5 0#3 9#8)
  | .gfrom d a => some (mkG 0x0C#6 d a 0#5 0#3 10#8)
  | .gaddi d a i => some (mkGI 0x0D#6 d a i)
  | .gli d i => some (mkL 0x0E#6 (0#1 ++ d) i)
  | .addw d a b => some (mkR 0x0F#6 (d ++ 0#1) (a ++ 0#1) (b ++ 0#1) 1#8)
  | .subw d a b => some (mkR 0x0F#6 (d ++ 0#1) (a ++ 0#1) (b ++ 0#1) 2#8)
  | .mulw d a b => some (mkR 0x0F#6 (d ++ 0#1) (a ++ 0#1) (b ++ 0#1) 3#8)
  | .shlw d a b => some (mkR 0x0F#6 (d ++ 0#1) (a ++ 0#1) b 4#8)
  | .shrw d a b => some (mkR 0x0F#6 (d ++ 0#1) (a ++ 0#1) b 5#8)
  | .movg d a => some (mkR 0x0F#6 (d ++ 0#1) (0#1 ++ a) 0#6 6#8)
  | .voteAny d a => some (mkR 0x10#6 (0#3 ++ d) (0#3 ++ a) 0#6 1#8)
  | .voteAll d a => some (mkR 0x10#6 (0#3 ++ d) (0#3 ++ a) 0#6 2#8)
  | .voteBal d a => some (mkR 0x10#6 d (0#3 ++ a) 0#6 3#8)
  | .shflIdx d a b => some (mkR 0x10#6 d a b 4#8)
  | .shflUp d a b => some (mkR 0x10#6 d a b 5#8)
  | .shflDn d a b => some (mkR 0x10#6 d a b 6#8)
  | .shflXor d a b => some (mkR 0x10#6 d a b 7#8)
  | .redAdd d a => some (mkR 0x10#6 d a 0#6 8#8)
  | .redMin d a => some (mkR 0x10#6 d a 0#6 9#8)
  | .redMax d a => some (mkR 0x10#6 d a 0#6 10#8)
  | .matchLanes d a => some (mkR 0x10#6 d a 0#6 11#8)
  | .actv d => some (mkR 0x10#6 d 0#6 0#6 12#8)
  | .fadd d a b => some (mkR 0x11#6 d a b 1#8)
  | .fsub d a b => some (mkR 0x11#6 d a b 2#8)
  | .fmul d a b => some (mkR 0x11#6 d a b 3#8)
  | .fmin d a b => some (mkR 0x11#6 d a b 4#8)
  | .fmax d a b => some (mkR 0x11#6 d a b 5#8)
  | .fabs d a => some (mkR 0x11#6 d a 0#6 6#8)
  | .fneg d a => some (mkR 0x11#6 d a 0#6 7#8)
  | .frcp d a => some (mkR 0x11#6 d a 0#6 8#8)
  | .frsq d a => some (mkR 0x11#6 d a 0#6 9#8)
  | .fsqrt d a => some (mkR 0x11#6 d a 0#6 10#8)
  | .fexp2 d a => some (mkR 0x11#6 d a 0#6 11#8)
  | .flog2 d a => some (mkR 0x11#6 d a 0#6 12#8)
  | .ffma d a b c m => some (mkR4 0x12#6 d a b c m)
  | .fcmp p c a b m => some (mkP 0x13#6 p c a b (m ++ 0#1))
  | .fcvt d a r s f g => some (mkFcvt 0x14#6 d a r s 0#1 0#2 f g)
  | .fcvtTrap d a r s f g => some (mkFcvt 0x14#6 d a r s 1#1 0#2 f g)
  | .hadd2 d a b f => some (mkR 0x15#6 d a b (f ++ 1#7))
  | .hsub2 d a b f => some (mkR 0x15#6 d a b (f ++ 2#7))
  | .hmul2 d a b f => some (mkR 0x15#6 d a b (f ++ 3#7))
  | .hmin2 d a b f => some (mkR 0x15#6 d a b (f ++ 4#7))
  | .hmax2 d a b f => some (mkR 0x15#6 d a b (f ++ 5#7))
  | .hfma2 d a b c m => some (mkR4 0x16#6 d a b c (0#1 ++ m))
  | .idp4 d a b c m => some (mkR4 0x17#6 d a b c m)
  | .bra n p o => some (mkC 0x18#6 n p o)
  | .jmp o => some (mkJ 0x19#6 o)
  | .jal o => some (mkJ 0x1A#6 o)
  | .jr a => some (mkR 0x1B#6 0#6 a 0#6 1#8)
  | .jalr d a => some (mkR 0x1B#6 d a 0#6 2#8)
  | .jrG a => some (mkR 0x1B#6 0#6 (0#1 ++ a) 0#6 3#8)
  | .jalrG d a => some (mkR 0x1B#6 d (0#1 ++ a) 0#6 4#8)
  | .jarm j i => some (mkJoin 0x1C#6 0#3 j i)
  | .jset j a => some (mkJoinR 0x1C#6 1#3 j a 0#14)
  | .jget j d => some (mkJoinR 0x1C#6 2#3 j d 0#14)
  | .join j => some (mkJoinR 0x1C#6 3#3 j 0#6 0#14)
  | .fork a o => some (mkTask 0x1D#6 a 0#1 o)
  | .fjoin a => some (mkTask 0x1D#6 a 1#1 0#19)
  | .exit => some (mkJ 0x1E#6 0#26)
  | .monw g x i => some (mkM 0x1F#6 0#6 g x 0#2 4#3 i)
  | .ld d g x s z i => some (mkM 0x20#6 d g x s z i)
  | .st d g x s z i => some (mkM 0x21#6 d g x s z i)
  | .llk d g x s z i => some (mkM 0x22#6 d g x s z i)
  | .sul d g x s z i => some (mkM 0x23#6 d g x s z i)
  | .atomAdd d g x f => some (mkA 0x24#6 d g x 0#5 (0#1 ++ f))
  | .atomMin d g x f => some (mkA 0x24#6 d g x 1#5 (0#1 ++ f))
  | .atomMax d g x f => some (mkA 0x24#6 d g x 2#5 (0#1 ++ f))
  | .atomMinu d g x f => some (mkA 0x24#6 d g x 3#5 (0#1 ++ f))
  | .atomMaxu d g x f => some (mkA 0x24#6 d g x 4#5 (0#1 ++ f))
  | .atomAnd d g x f => some (mkA 0x24#6 d g x 5#5 (0#1 ++ f))
  | .atomOr d g x f => some (mkA 0x24#6 d g x 6#5 (0#1 ++ f))
  | .atomXor d g x f => some (mkA 0x24#6 d g x 7#5 (0#1 ++ f))
  | .atomXchg d g x f => some (mkA 0x24#6 d g x 8#5 (0#1 ++ f))
  | .atomCas d g x f => some (mkA 0x24#6 d g x 9#5 (0#1 ++ f))
  | .atomFadd d g x f => some (mkA 0x24#6 d g x 10#5 (0#1 ++ f))
  | .tlook d a => some (mkR 0x25#6 d a 0#6 1#8)
  | .tins d a b => some (mkR 0x25#6 d a b 2#8)
  | .tdel d a => some (mkR 0x25#6 d a 0#6 3#8)
  | .tclr => some (mkR 0x25#6 0#6 0#6 0#6 4#8)
  | .ropLd d g x s => some (mkA 0x26#6 d g x 0#5 (0#2 ++ s))
  | .ropSt d g x s => some (mkA 0x26#6 d g x 1#5 (0#2 ++ s))
  | .ropAdd d g x s => some (mkA 0x26#6 d g x 2#5 (0#3 ++ s))
  | .ropCas2 d g x => some (mkA 0x26#6 (d ++ 0#2) g x 3#5 0#4)
  | .ropEnq d g x => some (mkA 0x26#6 (d ++ 0#1) g x 4#5 0#4)
  | .ropChase d g x h => some (mkA 0x26#6 (d ++ 0#1) g x 5#5 (0#1 ++ h))
  | .phase k s => some (mkX 0x28#6 0#6 0#5 0#5 (k ++ s) 0#6)
  | .barArrive z => some (mkX 0x29#6 0#6 0#5 0#5 z 1#6)
  | .barWait z => some (mkX 0x29#6 0#6 0#5 0#5 z 2#6)
  | .barSync z => some (mkX 0x29#6 0#6 0#5 0#5 z 3#6)
  | .barArriveCl z => some (mkX 0x29#6 0#6 0#5 0#5 z 17#6)
  | .barWaitCl z => some (mkX 0x29#6 0#6 0#5 0#5 z 18#6)
  | .barSyncCl z => some (mkX 0x29#6 0#6 0#5 0#5 z 19#6)
  | .qfence a => some (mkX 0x2A#6 0#6 a 0#5 0#4 0#6)
  | .cpy h a b k => some (mkX 0x2B#6 (0#3 ++ h) a b k 0#6)
  | .twait a k => some (mkX 0x2C#6 0#6 a 0#5 k 1#6)
  | .tread d k => some (mkX 0x2C#6 (0#1 ++ d) 0#5 0#5 k 2#6)
  | .tset a k => some (mkX 0x2C#6 0#6 a 0#5 k 3#6)
  | .tadd a k => some (mkX 0x2C#6 0#6 a 0#5 k 4#6)
  | .hset h a w => some (mkX 0x2D#6 (0#3 ++ h) a 0#5 (0#2 ++ w) 0#6)
  | .mclaim d => some (mkX 0x2E#6 (0#1 ++ d) 0#5 0#5 0#4 1#6)
  | .mrelease a => some (mkX 0x2E#6 0#6 a 0#5 0#4 2#6)
  | .mpost a b k => some (mkX 0x2E#6 0#6 a b k 3#6)
  | .pcset a b => some (mkX 0x2E#6 0#6 a b 0#4 4#6)
  | .pcread d a => some (mkX 0x2E#6 (0#1 ++ d) a 0#5 0#4 5#6)
  | .pcwait a => some (mkX 0x2E#6 0#6 a 0#5 0#4 6#6)
  | .send a b w => some (mkX 0x30#6 0#6 a (b ++ 0#1) w 1#6)
  | .sendC a b w => some (mkX 0x30#6 0#6 a (b ++ 0#1) w 2#6)
  | .sendNb p a b w => some (mkX 0x30#6 (0#3 ++ p) a (b ++ 0#1) w 3#6)
  | .reply b w => some (mkX 0x31#6 0#6 0#5 (b ++ 0#1) w 1#6)
  | .refuse => some (mkX 0x31#6 0#6 0#5 0#5 0#4 2#6)
  | .mbind d a b => some (mkX 0x31#6 (0#1 ++ d) a b 0#4 3#6)
  | .munbind d a => some (mkX 0x31#6 (0#1 ++ d) a 0#5 0#4 4#6)
  | .mqstat d a => some (mkX 0x31#6 (0#1 ++ d) a 0#5 0#4 5#6)
  | .launch a k => some (mkX 0x31#6 0#6 a 0#5 k 6#6)
  | .map d a b => some (mkX 0x32#6 (0#1 ++ d) a b 0#4 1#6)
  | .grant d a b => some (mkX 0x32#6 (0#1 ++ d) a b 0#4 2#6)
  | .unmap d a => some (mkX 0x32#6 (0#1 ++ d) a 0#5 0#4 3#6)
  | .mquery d a => some (mkX 0x32#6 (0#1 ++ d) a 0#5 0#4 4#6)
  | .cinv d a b => some (mkX 0x33#6 (0#1 ++ d) a b 0#4 0#6)
  | .slotcall d a => some (mkX 0x34#6 (0#1 ++ d) a 0#5 0#4 1#6)
  | .slotcallNb d a => some (mkX 0x34#6 (0#1 ++ d) a 0#5 0#4 2#6)
  | .csrr d c => some (mkCsr 0x35#6 d 0#6 0#2 c)
  | .csrw a c => some (mkCsr 0x35#6 0#6 a 1#2 c)
  | .csrs d a c => some (mkCsr 0x35#6 d a 2#2 c)
  | .csrc d a c => some (mkCsr 0x35#6 d a 3#2 c)
  | .plwr a b => some (mkX 0x36#6 0#6 a (b ++ 0#1) 0#4 1#6)
  | .plrd d a => some (mkX 0x36#6 (0#1 ++ d ++ 0#1) a 0#5 0#4 2#6)
  | .plgo => some (mkX 0x36#6 0#6 0#5 0#5 0#4 3#6)
  | .plhalt => some (mkX 0x36#6 0#6 0#5 0#5 0#4 4#6)
  | .plstat d a => some (mkX 0x36#6 (0#1 ++ d) a 0#5 0#4 5#6)
  | .stasha a b => some (mkX 0x36#6 0#6 a b 0#4 6#6)
  | .stashf a b => some (mkX 0x36#6 0#6 a b 0#4 7#6)
  | .slotgive a b => some (mkX 0x36#6 0#6 a b 0#4 8#6)
  | .messageArrival _ => none
  | .mailboxDequeue _ => none
  | .taskAdmission _ => none
  | .taskEnd _ => none
  | .launchPlacement _ => none
  | .workSteal _ => none
  | .sendQueueInject _ => none
  | .sendqTimeout _ => none
  | .unbound _ _ _ => none
  | .overflowRefill _ _ => none
  | .monitorTimeout _ => none
  | .pagereq _ _ => none
  | .coreReplay _ _ => none
  | .coppice _ => none
  | .reAdmission _ => none
  | .migrationProtect => none
  | .migrationSwitch => none
  | .migrationRelease => none
  | .invalidation => none
  | .shootdownAck _ => none
  | .reclaimEnd => none
  | .copyRun _ _ => none
  | .copyComplete _ _ => none
  | .recordIssue _ => none
  | .wload _ => none
  | .swap _ => none
  | .mstream _ => none
  | .gemm _ => none
  | .drain _ => none
  | .recordComplete _ => none
  | .residentSwitch _ => none
  | .sliceEnd _ => none
  | .preemptionRequest _ _ => none
  | .budgetExpiry _ => none
  | .quiescentSave _ => none
  | .contextSave _ => none
  | .contextRestore _ _ => none
  | .determSwitch => none
  | .pleachWalkCycle => none
  | .pleachEntryEnd _ => none
  | .slotgiveMsg _ => none
  | .arrive _ => none
  | .plctlClr => none
  | .msg _ => none
  | .write _ => none
  | .read _ => none
  | .rdata _ => none
  | .rop _ => none
  | .roprep _ => none
  | .xreq _ => none
  | .xrep _ => none
  | .inval _ => none
  | .invack _ => none
  | .marker _ => none
  | .markack _ => none
  | .eack _ => none
  | .e2eRetransmit _ _ => none
  | .peerDisconnect _ => none
  | .rreq _ => none
  | .linkReplayTimeout _ => none
  | .lastingLinkError _ => none
  | .lossOfLight _ _ _ => none
  | .wavelengthReturn _ _ _ => none
  | .restripeRestart _ _ => none
  | .hostSend _ => none
  | .hostMap _ => none
  | .hostGrant _ => none
  | .hostUnmap _ => none
  | .hostMquery _ => none
  | .reserve _ => none
  | .migrate _ => none
  | .hostReplay _ => none
  | .partcreate _ => none
  | .partdestroy _ => none
  | .ctxcreate _ => none
  | .ctxdestroy _ => none
  | .place _ => none
  | .save _ => none
  | .capset _ => none
  | .plassign _ => none
  | .time _ => none
  | .alloc _ => none
  | .free _ => none
  | .log _ => none
  | .signal _ => none
  | .wake _ => none
  | .mapproxy _ => none
  | .yieldslice _ => none
  | .features _ => none
  | .claim _ => none
  | .release _ => none
  | .handover _ _ => none
  | .accept _ => none
  | .handoverLapse => none
  | .transportReset _ => none
  | .negotiate _ => none
  | .registerWrite _ _ _ => none
  | .flr _ => none
  | .moduleReset => none
  | .boot => none
  | .powerGating _ _ => none
  | .thermalShutdown _ => none
  | .getVersion => none
  | .getCapabilities => none
  | .negotiateAlgorithms _ => none
  | .getDigests => none
  | .getCertificate _ _ _ => none
  | .challenge _ => none
  | .getMeasurements _ => none
  | .linkFlit _ _ _ => none
  | .rreqResend _ => none

end Sys2Proof
end

