-- ==== Sys2Proof/Config.lean ====
section
/-! DEFINITION. What the spec leaves to an implementation or leaves open: free values, constants without a body, so
that nothing can be proved of the value of any of them. -/

namespace Sys2Proof.Config

/-- The TASKID chosen for the n-th task started (R13): any value, but see `Machine.chooseTaskId`, which keeps to the
rule's limits. DESIGN CHOICE: log 5. -/
opaque freeTaskId : Nat → Word

/-- The context-space address at which ALLOC places its n-th extent, as a 512 KiB unit number (R251). DESIGN CHOICE: log 6. -/
opaque allocUnit : Nat → Nat

/-- The first physical frame of the n-th extent that ALLOC backs (R251). DESIGN CHOICE: log 6. -/
opaque allocFrame : Nat → BitVec 25

/-- The fresh frame of the n-th page that the part retires by itself (R319). DESIGN CHOICE: log 6. -/
opaque spareFrame : Nat → BitVec 25

/-- The place of the n-th translation table that the mapping engine makes, as a TADDR (R280, R282): the place that it tries
first in the mapping region, or for a stage-1 space the intermediate address. DESIGN CHOICE: log 7. -/
opaque tablePlace : Nat → BitVec 30

/-- DEVFEAT, the features the part offers (R405, R407): bits 0 to 7; every other bit reads zero. DESIGN CHOICE: log 8. -/
opaque devFeat : BitVec 8

/-- The device-physical address of the inventory record (R405). DESIGN CHOICE: log 8. -/
opaque inventory : DWord

/-- The serial number, and for each of the 512 engines its spare lanes and spare columns in use, as the test fuses fix them (R359,
R405); and the fuse maps themselves, which only measurement 3 covers (R410). DESIGN CHOICE: log 8. -/
opaque serialNo : DWord
opaque spares : Nat → Nat × Nat
opaque fuseMaps : List Byte

/-- The measurement digests of the boot ROM and of a firmware image (R410). DESIGN CHOICE: log 9. -/
opaque digest : Nat → BitVec 512

/-- The bytes of the partition configuration that measurement 5 covers (R410): what is recorded of partitions, contexts and
the Pleach table's owner. DESIGN CHOICE: log 9. -/
opaque partitionRecord : List Nat → List Byte

/-- The certificate chain in SPDM slot 0 and the signatures that the device identity key makes (R411). DESIGN CHOICE: log 9. -/
opaque certificate : List Byte
opaque signature : List Byte → List Byte

/-- The weights of a context's activity counters, in picojoules, as firmware calibrates them for the part (R331), by the keys of
`Ctx.activity`. DESIGN CHOICE: log 100. -/
opaque energyWeight : Nat → Nat

/-- Where the firmware's thread for a queue of the service processor starts, and the context in which it acts (R35). DESIGN CHOICE:
log 48. -/
opaque servicePc : Nat → VAddr
opaque serviceCtx : CtxId

/-- The destination word of a message that the part makes itself (R239), by its identifier. DESIGN CHOICE: log 16. -/
opaque partWord : Word → DWord

/-- The node place that the mapping engine tries first for its n-th node (R284). DESIGN CHOICE: log 17. -/
opaque nodeIndex : Nat → Nat

/-- The PC and the strand in the record of a trap that no instruction of the task raises, where the spec names neither
(R314, R315): by a number of draws. DESIGN CHOICE: log 22. -/
opaque openPc : Nat → VAddr
opaque openStrand : Nat → BitVec 9

/-- A byte that a matrix engine reads outside its context's operand slots (R221 names no such byte): cluster and byte.
DESIGN CHOICE: log 25. -/
opaque openOperand : Nat → Byte

/-- The quarter of its stack that holds a line: the eight channels that one near-memory operation unit serves (R393). The spec does not
give the layout of addresses over channels. DESIGN CHOICE: log 103. -/
opaque quarterOf : Nat → BitVec 2

/-- The way of a full set that a core's snapshot or instruction cache drops for a new line (R1): by the cycle and the line.
DESIGN CHOICE: log 77. -/
opaque victimWay : Nat → Nat → BitVec 3

end Sys2Proof.Config
end

