-- ==== Sys2Proof/Machine/Maps.lean ====
section
/-! DEFINITION. Finite maps as plain data: lists of a key and a value with the keys rising. A sparse map holds
words of which all but finitely many are zero, and lists no zero, so that equal contents are equal data. -/

namespace Sys2Proof.Machine

/-- A finite map from numbers, its keys strictly rising. -/
abbrev AMap (α : Type) := List (Nat × α)

/-- The value at a key, if one is listed. The search ends at the first larger key. -/
def AMap.get? {α : Type} : AMap α → Nat → Option α
  | [], _ => none
  | (k', v) :: m, k => if k' < k then AMap.get? m k else if k' = k then some v else none

/-- The value at a key, or the given one. -/
def AMap.getD {α : Type} (m : AMap α) (k : Nat) (d : α) : α := (AMap.get? m k).getD d

/-- Sets the value at a key. -/
def AMap.put {α : Type} : AMap α → Nat → α → AMap α
  | [], k, v => [(k, v)]
  | (k', v') :: m, k, v =>
    if k' < k then (k', v') :: AMap.put m k v
    else if k' = k then (k, v) :: m
    else (k, v) :: (k', v') :: m

/-- Drops the entries at the head whose keys are at most k. -/
def AMap.dropTo {α : Type} (k : Nat) : AMap α → AMap α
  | [] => []
  | (k', v) :: m => if k' ≤ k then AMap.dropTo k m else (k', v) :: m

/-- Removes the entry at a key. -/
def AMap.erase {α : Type} : AMap α → Nat → AMap α
  | [], _ => []
  | (k', v') :: m, k =>
    if k' < k then (k', v') :: AMap.erase m k
    else if k' = k then AMap.dropTo k m
    else (k', v') :: m

/-- Changes the value at a key, if one is listed. -/
def AMap.modify {α : Type} (m : AMap α) (k : Nat) (f : α → α) : AMap α :=
  match AMap.get? m k with
  | some v => AMap.put m k (f v)
  | none => m

/-- The keys rise strictly. -/
def AMap.rising {α : Type} : AMap α → Bool
  | [] => true
  | [_] => true
  | (k, _) :: (k', v) :: m => decide (k < k') && AMap.rising ((k', v) :: m)

/-- A map to words of which all but the listed ones are zero. -/
abbrev Sparse (n : Nat) := List (Nat × BitVec n)

/-- The word at a key. -/
def Sparse.read {n : Nat} (m : Sparse n) (k : Nat) : BitVec n := AMap.getD m k 0#n

/-- Sets the word at a key; a zero is not listed. -/
def Sparse.write {n : Nat} (m : Sparse n) (k : Nat) (v : BitVec n) : Sparse n :=
  if v = 0#n then AMap.erase m k else AMap.put m k v

/-- The canonical form: keys strictly rising, no zero listed. -/
def Sparse.wf {n : Nat} (m : Sparse n) : Bool := AMap.rising m && m.all (fun e => e.2 != 0#n)

/-- Removes the entries with keys from a up to, but not including, b. -/
def AMap.clear {α : Type} (m : AMap α) (a b : Nat) : AMap α := m.filter (fun e => e.1 < a || b ≤ e.1)

/-- The entries with keys from a up to, but not including, b. -/
def AMap.between {α : Type} (m : AMap α) (a b : Nat) : AMap α := m.filter (fun e => a ≤ e.1 && e.1 < b)

/-! ## Bytes in sparse memories -/

/-- The memory of a store: bytes, an unlisted one zero (DESIGN CHOICE for memory whose contents at reset the spec
does not give; DESIGN CHOICE: log 3). -/
abbrev Mem := List Host.Cell

/-- One byte. -/
def Mem.byte (m : Mem) (a : Nat) : Byte := Sparse.read m a

/-- Writes one byte. -/
def Mem.setByte (m : Mem) (a : Nat) (b : Byte) : Mem := Sparse.write m a b

/-- The canonical form of a memory: addresses strictly rising, no zero byte listed. -/
def Mem.wf (m : Mem) : Bool := Sparse.wf m

/-- n bytes from an address up. -/
def Mem.bytes (m : Mem) (a : Nat) : Nat → List Byte
  | 0 => []
  | n + 1 => Mem.byte m a :: Mem.bytes m (a + 1) n

/-- Writes bytes from an address up. -/
def Mem.setBytes (m : Mem) (a : Nat) : List Byte → Mem
  | [] => m
  | b :: bs => Mem.setBytes (Mem.setByte m a b) (a + 1) bs

/-- The number that bytes hold, the least significant first (R4). -/
def natOfBytes : List Byte → Nat
  | [] => 0
  | b :: bs => b.toNat + 256 * natOfBytes bs

/-- The low n bytes of a number, the least significant first (R4). -/
def bytesOf : Nat → Nat → List Byte
  | 0, _ => []
  | n + 1, v => BitVec.ofNat 8 v :: bytesOf n (v / 256)

/-- A number of n bytes at an address (R4). -/
def Mem.nat (m : Mem) (a n : Nat) : Nat := natOfBytes (Mem.bytes m a n)

/-- Writes a number of n bytes at an address (R4). -/
def Mem.setNat (m : Mem) (a n v : Nat) : Mem := Mem.setBytes m a (bytesOf n v)

end Sys2Proof.Machine
end

