-- ==== Sys2Proof/Machine/State.lean ====
section
/-! DEFINITION. The state of the part: everything the spec gives the machine, as plain data, and the part
right after a module reset.

Keys of the flat maps. A group slot of core c, bank b and slot n has key c × 32 + b × 16 + n; a strand's key is its
group slot's key × 32 + its lane; a task slot's key is formed as a group slot's. Core 256 stands for the service
processor, which runs tasks of its own (R33). -/

namespace Sys2Proof.Machine

/-! ## Stops -/

/-- Why the machine stops with a fault. -/
inductive Fault where
  /-- An access to a device-physical address that the address map of R277 gives to nothing. Raised by the reads and
  writes at the coherence point. Safe: the part's behaviour there is not described. -/
  | noSuchAddress (pa : Nat)
  deriving DecidableEq, Repr

/-- Why a step has no meaning. -/
inductive Refusal where
  /-- An instruction with no meaning in the model. Raised by the arms of Dispatch alone. Safe. -/
  | notModelled (mnemonic : String)
  /-- An access to a device register whose behaviour the spec does not give. Raised by the accesses at the
  coherence point and by REGISTER_WRITE. Safe. -/
  | deviceRegister (pa : Nat)
  deriving DecidableEq, Repr

/-- The outcome of a meaning. -/
abbrev Out (σ : Type) := Host.Outcome σ Fault Refusal

/-! ## Messages and work -/

/-- A virtual network (R232, R325). -/
inductive VNet where
  | req
  | reply
  | sys
  | bulk
  deriving DecidableEq, Repr

/-- A trap record (R25, R26, R38). -/
structure TrapRec where
  deferred : Bool
  cause : BitVec 8
  pc : VAddr
  value : DWord
  strand : BitVec 9
  msg : Word
  task : Word
  deriving DecidableEq, Repr

/-- The agents attached to the mesh's routers (R371). -/
inductive Agent where
  | core (c : CoreId)
  | matrixEngine (e : BitVec 9)
  | copyEngine (n : BitVec 7)
  /-- The memory-side cache slice of an HBM channel. -/
  | cacheSlice (channel : BitVec 8)
  | nearMemory (unit : BitVec 5)
  | opticalPort (port : BitVec 5)
  | mappingEngine
  | privetEngine
  | pleachTable
  | serviceProcessor
  | messageRouter
  | pcie
  deriving DecidableEq, Repr

/-- An input of a router of the mesh: the router, 0 to 31 of a cluster, 32 to 35 of the I/O die, and the router at the other end of
the link; none for the local input, from the router's agents (R371, R373). -/
structure Seat where
  router : Nat
  source : Option Nat
  deriving DecidableEq, Repr

/-- Where a message comes from: the part (or a peer), the core and context, and the message window of a
function when the host sent it (R231, R236). -/
structure Origin where
  peer : Option (BitVec 10)
  core : CoreId
  ctx : CtxId
  window : Option (BitVec 6)
  deriving DecidableEq, Repr

/-- The reason of a page request (R306). -/
inductive Reason where
  | unmapped
  | unbacked
  | noframe
  | badframe
  deriving DecidableEq, Repr

/-- A page that a walk found not present (R281, R282): the 512 KiB unit, the reason, the context whose supervisor
is asked, the partition when stage 2 failed, the peer when the page is there, and whether a request is sent at all
(none for a page that migrates, R296). -/
structure Absent where
  unit : Nat
  reason : Reason
  dest : CtxId
  vf : Option Nat
  peer : Option (BitVec 10)
  ask : Bool
  deriving DecidableEq, Repr

/-- The kinds of parked-access and side-log entries (R300). -/
inductive EntryKind where
  | load
  | atomR
  | store
  | atomNR
  | fetch
  | ropR
  | ropSt
  | monw
  deriving DecidableEq, Repr

/-- A parked-access or side-log entry (R300), with the task that made it, for the report of R38. -/
structure Entry where
  kind : EntryKind
  ea : DWord
  data : List Word
  /-- log2 of the access size. -/
  size : Nat
  aop : BitVec 5
  fl : BitVec 4
  d : SReg
  sign : Bool
  strand : BitVec 9
  order : Word
  /-- The model's own number of the entry on its core: entries stand in the order of these, which is that of their making. -/
  key : Nat := 0
  /-- The page it waits for. -/
  away : Absent
  ctx : CtxId
  uid : Nat
  taskId : Word
  msgId : Word
  /-- Marked by a revocation that reached a coppiced task (R315). -/
  discarded : Bool
  /-- A ROP that a replay has sent again: the entry stays until its target answers (R196, R308). -/
  sent : Bool
  /-- A replay has left it behind a side-log entry of its strand and line: it is retried when that has gone (R308). -/
  due : Bool := false
  deriving DecidableEq, Repr

/-- What a remote operation gives at its target (R194 to R196). -/
inductive RopOut where
  | done (data : List Word)
  | trap (cause : BitVec 8) (value : DWord)
  | absent (a : Absent)
  /-- A device register or a reserved address. -/
  | stop (pa : Nat)
  deriving DecidableEq, Repr

/-- Where a remote operation comes from: a strand of a core, by its key; or a peer, by the SEQ of its packet and the port on which it
came. -/
inductive RopFrom where
  | strand (k core : Nat)
  | peer (p : BitVec 10) (q : BitVec 32) (port : Nat)
  deriving DecidableEq, Repr

/-- A remote operation on its way to a near-memory operation unit of this part, or queued there (R393, R394). -/
structure RopJob where
  e : Entry
  source : RopFrom
  unit : BitVec 5
  /-- The physical place of its own address, as its source has found it. -/
  pa : Nat
  /-- Of a chase: the address of the next hop, and how many hops it has still to make. -/
  next : DWord
  left : Nat
  /-- The index of the forwarding entries that it takes: that of the hop; 0 where it takes a place of the queue. -/
  index : Nat
  deriving DecidableEq, Repr

/-- What a message is for. -/
inductive MsgKind where
  /-- Starts a task of its destination slot, or at the PC in payload word 0 (R233). -/
  | task
  /-- Adds slots to a stage's credit (R346). -/
  | slotgive (stage : BitVec 4) (gslots downstream : Bool) (count : BitVec 5)
  /-- Announces an arrival for a stage (R346). -/
  | arrive (stage : BitVec 4) (gslots : Bool) (source : DWord)
  /-- Decrements the fork counter at an offset of a cluster window (R123). -/
  | forkDone (cluster : ClusterId) (off : Nat)
  /-- Brings a remote operation, or a hop of a chase, to its unit; and its result back to its source (R393, R394). -/
  | ropReq (j : RopJob)
  | ropRes (j : RopJob) (r : RopOut)
  deriving DecidableEq, Repr

/-- A message: header, two arguments, payload (R230, R231). -/
structure Message where
  kind : MsgKind
  /-- The destination word. -/
  dw : DWord
  /-- The destination: a peer or this part, the core, the context and the handler. -/
  peer : Option (BitVec 10)
  core : CoreId
  ctx : CtxId
  slot : BitVec 6
  supv : Bool
  vnet : VNet
  origin : Origin
  id : Word
  a0 : DWord
  a1 : DWord
  payload : List DWord
  /-- The trap record of a TRAP message (R25). -/
  trap : Option TrapRec
  /-- The model's own number of the trap whose returned work waits for this message's task (R41); else 0. -/
  serial : Nat
  /-- The agent that puts it on the mesh, and the input in which it stands; none while it waits at its agent for room in the first
  router's input (R371, R374). -/
  agent : Agent := .messageRouter
  seat : Option Seat := none
  /-- It has passed the local output of its last router: its receiver takes it (R375). -/
  landed : Bool := false
  /-- Of a message from a peer: the peer and the SEQ of the packet, which is acknowledged on delivery (R384, R387). -/
  ack : Option (BitVec 10 × BitVec 32) := none
  /-- The entry that a Pleach message is sent for (R354). -/
  forEntry : Option (BitVec 9) := none
  deriving DecidableEq, Repr

/-- One task of a LAUNCH (R244). -/
structure LaunchItem where
  launch : Nat
  ctx : CtxId
  slot : BitVec 6
  arg0 : DWord
  arg1 : DWord
  id : Word
  index : DWord
  deriving DecidableEq, Repr

/-- The registers of one strand in a start image or a saved image. -/
structure LaneRegs where
  s : List Word
  p : BitVec 8
  ff : BitVec 5
  priv : BitVec 2
  deriving DecidableEq, Repr

/-- A deque entry: the start image of a forked task (R119, R121). -/
structure ForkImage where
  ctx : CtxId
  lanes : List (Nat × LaneRegs)
  g : List DWord
  h : List (BitVec 256)
  pc : VAddr
  id : Word
  domain : BitVec 2
  /-- The counter: home cluster and the offset in that context's window there. -/
  home : ClusterId
  off : Nat
  /-- The forking core. -/
  core : Nat
  deriving DecidableEq, Repr

/-- The work that starts a task (R35). -/
inductive Work where
  | message (m : Message)
  | launch (i : LaunchItem)
  | fork (f : ForkImage)
  /-- A Pleach entry: its index, the context, micro-batch, stage, identifier, binding slot. -/
  | pleach (entry : BitVec 9) (ctx : CtxId) (slot : BitVec 6) (mb : BitVec 8) (stage : BitVec 4) (id : Word)
  /-- A notify write to a queue of the service processor: the queue and its descriptor words. -/
  | service (queue : Nat) (w0 w1 : DWord) (seq : Word)
  deriving DecidableEq, Repr

/-- Work held in a mailbox or a deque: its arrival time, and the trap whose supervisor task it waits for
(R41). -/
structure Held where
  work : Work
  since : Nat
  heldFor : Option Nat
  deriving DecidableEq, Repr

/-! ## Strands, groups and tasks -/

/-- A line that a monitor watches: a GLOBAL line by its physical line number, or a line of a window by its number in
that window store (R126, R128). -/
inductive MonLine where
  | global (line : Nat)
  | core (a : Nat)
  | cluster (a : Nat)
  deriving DecidableEq, Repr

/-- The condition that an instruction waits for before it acts (R106). -/
inductive Cond where
  /-- No outstanding operation on the token, or (for TWAIT) the threshold or the error flag (R210, R211). -/
  | tokQuiet (tok : Nat)
  | tokAtLeast (tok : Nat) (threshold : Nat)
  /-- A predecessor counter reads zero (R229). -/
  | counterZero (cluster : Nat) (index : Nat)
  /-- No copy that the group issued up to a cycle, that of the QFENCE, in the copy queues named (R214). -/
  | queuesClear (uid group : Nat) (queues : List Nat) (before : Nat)
  /-- No queued copy or record names the operand slot (R217). -/
  | slotIdle (cluster : Nat) (slot : Nat)
  /-- Room for a record in the posting buffer (R222). -/
  | postRoom (cluster : Nat)
  /-- Room in the fork deque (R120). -/
  | dequeRoom (core : Nat) (ctx : CtxId)
  /-- No side-log entry, no outstanding ROP and no parked access of these strands (R181, R195). -/
  | released (strands : List Nat)
  /-- As `released`, and no outstanding copy to a peer that the group issued up to a cycle, that of the PHASE (R270). -/
  | fabricReady (strands : List Nat) (uid group : Nat) (before : Nat)
  /-- The fork counter reads zero (R123). -/
  | forkZero (cluster : Nat) (addr : Nat)
  /-- Room in a send queue; the destination word is the value of a SENDQ trap (R233). -/
  | sendRoom (core : Nat) (vnet : VNet) (dw : DWord)
  /-- Room in the launch queue (R244). -/
  | launchRoom (cluster : Nat)
  /-- The Pleach entry is not issued (R259). -/
  | entryFree (entry : Nat)
  /-- Room for n entries in the parked-access table; the page that the strand's own access waits for (R179, R180). -/
  | parkRoom (core : Nat) (n : Nat) (away : Absent)
  /-- As `parkRoom`, for the one entry of a fetch (R179, R301). -/
  | fetchRoom (core : Nat) (away : Absent)
  /-- The strand's earlier access to the line is no longer pending (R181). -/
  | lineFree (strands : List Nat) (line : Nat)
  /-- Every earlier access of these strands has performed: no ROP of them is outstanding, and no atomic or rop.st stands in the
  side log (R260, R268, R272). -/
  | ropsQuiet (strands : List Nat)
  /-- No rop.st of the strand to the part (a peer, or this one) is pending in the side log, and none to this part outstanding (R195). -/
  | ropTurn (strand : Nat) (peer : Option (BitVec 10))
  deriving DecidableEq, Repr

/-- What a strand is doing. -/
inductive Wait where
  /-- Its next instruction can issue. -/
  | run
  /-- Its next instruction waits for a condition, since a cycle; it issues again when the condition holds. -/
  | cond (c : Cond) (since : Nat)
  /-- Waits at a JOIN of the numbered mask (R116). -/
  | join (n : Nat)
  /-- Parked on a monitor of a line since a cycle (R126, R128). -/
  | monitor (line : MonLine) (since : Nat)
  /-- Waits in the first-in, first-out queue of a lock bit (R188), given as its bank's core × 64 + its number, with the
  load that its LLK completes: cluster window or not, the address in that store, destination and size code. -/
  | lock (bit : Nat) (cl : Bool) (addr : Nat) (d : SReg) (z : BitVec 3)
  /-- Waits for the reply of its remote operation (R195). -/
  | rop
  /-- Waits for the reply of the numbered request to the mapping engine, the Privet engine or a replay. -/
  | reply (request : Nat)
  /-- Waits for the marker acknowledgements of the numbered FABRIC release (R270). -/
  | fabric (release : Nat)
  /-- Waits at a barrier for its generation to pass (R427). -/
  | barrier (cluster : Bool) (z : BitVec 4) (generation : Word)
  /-- Waits for its parked access to be replayed (R178). -/
  | fault
  /-- Has exited. -/
  | exited
  deriving DecidableEq, Repr

/-- A strand's last LD: the line, the address and the value (R128). -/
structure LastLd where
  line : MonLine
  addr : Nat
  value : Nat
  /-- A wake event has occurred for the line since. -/
  woken : Bool
  deriving DecidableEq, Repr

/-- The end of an iteration: branch address, target, registers, uniform registers, last LD (R128). -/
structure SpinEnd where
  pc : VAddr
  target : VAddr
  regs : LaneRegs
  g : List DWord
  ld : Option LastLd
  deriving DecidableEq, Repr

/-- A strand's own record of its iterations (R128). -/
structure SpinRec where
  /-- The present iteration holds only the instructions that R128 allows. -/
  clean : Bool
  /-- The last LD of the present iteration. -/
  ld : Option LastLd
  /-- The end of the previous iteration. -/
  prev : Option SpinEnd
  deriving DecidableEq, Repr

/-- A fault deferred to the strand's next release (R433). -/
structure Deferred where
  cause : BitVec 8
  value : DWord
  deriving DecidableEq, Repr

/-- A strand (R10). -/
structure Strand where
  pc : VAddr
  priv : BitVec 2
  ff : BitVec 5
  wait : Wait
  /-- Held lock bits, each bank core × 64 + number (R187). -/
  locks : List Nat
  /-- The line of the most recent value-returning GLOBAL access, and whether a wake event has occurred for it since
  (R126): its physical line number, for the wake events, and its line number in the context's space. -/
  lastLine : Option Nat
  lastVa : Option Nat
  woken : Bool
  spin : SpinRec
  /-- Deferred faults, the earliest first (R433). -/
  deferred : List Deferred
  deriving DecidableEq, Repr

/-- Since a YIELD: the other slots of the quarter that were ready at one of its choices, and those chosen (R254). -/
structure Yielded where
  seen : List Nat
  chosen : List Nat
  deriving DecidableEq, Repr

/-- A group in a group slot (R11). -/
structure Group where
  task : Nat
  index : Nat
  turn : BitVec 5
  /-- Parked on a fault since a cycle (R299). -/
  parked : Option Nat
  /-- After a YIELD (R254). -/
  yielded : Option Yielded
  /-- Since when every ready strand waits at an FJOIN with the core full (R125). -/
  fjoinSince : Option Nat
  deriving DecidableEq, Repr

/-- A join mask: lane mask, join PC and waiting set (R20, R116). -/
structure JoinMask where
  mask : Word
  pc : VAddr
  waiting : Word
  deriving DecidableEq, Repr

/-- A token register: count, whose bit 31 is the error flag, and outstanding operations (R20). -/
structure Token where
  count : Word
  outstanding : Nat
  deriving DecidableEq, Repr

/-- A barrier (R427): its member tasks by model number, the strands that have arrived in its generation, as the task
and the strand index, and the generation. The strands that wait know it themselves. -/
structure Barrier where
  members : List Nat
  arrived : List (Nat × Nat)
  generation : Word
  deriving DecidableEq, Repr

/-- A reference to a token of a live task: the task's model number, the group's index in it, the register. -/
structure TokRef where
  uid : Nat
  group : Nat
  k : KReg
  deriving DecidableEq, Repr

/-- A task in a task slot (R10, R35). -/
structure Task where
  /-- The model's own number of the task, never reused. -/
  uid : Nat
  taskId : Word
  ctx : CtxId
  supv : Bool
  work : Work
  /-- The core whose mailbox or deque its work was taken from (R41). -/
  fromCore : Nat
  groups : List Nat
  /-- Core-window allocation: first 16 KiB unit and count (R326). -/
  winBase : Nat
  winUnits : Nat
  domain : BitVec 2
  msgId : Word
  spinCount : Word
  trap : Option TrapRec
  held : List Message
  refused : Bool
  discardWork : Bool
  budget : Word
  budgetLeft : Nat
  /-- BUDGETCFG.TRAP as read at the start (R26). -/
  budgetTrap : Bool
  budgetOn : Bool
  expired : Bool
  bars : AMap Barrier
  /-- A quiescent save stops its issue (R332). -/
  saving : Bool
  /-- A coppicing has stopped its groups (R312 step 1). -/
  stopping : Bool
  deriving DecidableEq, Repr

/-! ## Memory, parking and mapping -/

/-- The access of a page request (R306). -/
inductive Access where
  | none
  | read
  | write
  | atomic
  | fetch
  | copy
  | drain
  | privet
  deriving DecidableEq, Repr

/-- A queued page request (R304, R305). -/
structure PageReq where
  unit : Nat
  reason : Reason
  access : Access
  ctx : CtxId
  /-- The context whose supervisor receives it. -/
  dest : CtxId
  peer : Option (BitVec 10)
  deriving DecidableEq, Repr

/-- A store in a core's write buffer: its physical address and bytes, the context that made it (R262). -/
structure BufStore where
  pa : Nat
  bytes : List Byte
  ctx : CtxId
  deriving DecidableEq, Repr

/-- A node of the mapping tree (R284). Its children stand in SIBLING order, the first child first. -/
structure Node where
  cut : Bool
  reclaim : Bool
  granted : Bool
  unbacked : Bool
  moving : Bool
  rights : BitVec 5
  psize : BitVec 2
  gen : BitVec 10
  parent : Option Nat
  children : List Nat
  owner : CtxId
  /-- The holder: a context's space, or 4096 + the partition for its stage-2 space (R282). -/
  space : Nat
  pages : Nat
  va : Nat
  pva : Nat
  remote : DWord
  /-- A backing node's reserved node (R286). -/
  backs : Option Nat
  /-- Runs of bytes of the extent, from its start, that have been backed at some time (R284). -/
  backed : List (Nat × Nat) := []
  deriving DecidableEq, Repr

/-- A leaf of a translation table, or a REVOKED entry, which has a node and nothing else (R280). -/
structure Leaf where
  revoked : Bool
  pres : Bool
  wp : Bool
  /-- ATOM, X, W, R. -/
  rights : BitVec 4
  psize : BitVec 2
  node : Nat
  /-- The backing node whose frame stands here (R286). -/
  backing : Option Nat
  /-- Bits [43:19] of the first byte of the page. -/
  frame : BitVec 25
  deriving DecidableEq, Repr

/-- An entry of a translation cache: the combined translation (R282, R287). -/
structure TlbEntry where
  ctx : CtxId
  va : Nat
  psize : BitVec 2
  rights : BitVec 4
  wp : Bool
  pa : Nat
  node : Nat
  deriving DecidableEq, Repr

/-- Who waits for a reply of the mapping engine. -/
inductive ReplyTo where
  /-- The strands of a group that wait for a request, and the uniform register of the reply. -/
  | group (gkey : Nat) (request : Nat) (d : GReg)
  /-- A host post: function and tag (R397). -/
  | host (fn : BitVec 6) (tag : DWord)
  /-- A call of the Privet engine (R251). -/
  | privet (call : Nat)
  | nobody
  deriving DecidableEq, Repr

/-- What an invalidation is for. -/
inductive InvalKind where
  /-- UNMAP of a node: its subtree is reclaimed after the reply (R292, R293). -/
  | unmap
  /-- GRANT: the giver's own leaves of the extent (R248). -/
  | grant
  /-- The two shootdowns of a migration (R296). -/
  | protect
  | release
  deriving DecidableEq, Repr

/-- An invalidation, queued or in progress (R283, R292). -/
structure Inval where
  kind : InvalKind
  node : Nat
  /-- The rewrite and the shootdown have been made. -/
  sent : Bool
  /-- Caches that have not acknowledged. -/
  acks : List Nat
  /-- Peers that have not acknowledged, each with the node of its invalidation (R290). -/
  peers : List (BitVec 10 × Nat)
  /-- Spaces in the filter of the shootdown (R289). -/
  filter : List Nat
  reply : ReplyTo
  status : DWord
  /-- Contexts whose parked accesses are replayed when it is over (R298). -/
  after : List CtxId := []
  deriving DecidableEq, Repr

/-- The stages of a migration (R296). -/
inductive MigStage where
  | queued
  | protecting
  | copying
  | switched
  deriving DecidableEq, Repr

/-- A page migration (R296, R319). -/
structure Migration where
  node : Nat
  space : Nat
  va : Nat
  oldFrame : BitVec 25
  newFrame : BitVec 25
  stage : MigStage
  reply : ReplyTo
  /-- The node whose UNMAP has ended it at its cut (R298): its frames stay taken until that reclaim has ended. -/
  ended : Option Nat := none
  deriving DecidableEq, Repr

/-- A map request (R246). -/
structure MapReq where
  src : Nat
  dst : Nat
  pages : Nat
  psize : BitVec 2
  rights : BitVec 5
  /-- A reserved field or value is set. -/
  bad : Bool
  deriving DecidableEq, Repr

/-- A MAP or GRANT that waits until frames of its source have been reclaimed (R293): the issuer's space and the target's, the
two outcomes of its context checks, the request. -/
structure HeldMap where
  grant : Bool
  issuer : Nat
  target : Nat
  noCtx : Bool
  badCtx : Bool
  req : MapReq
  who : ReplyTo
  deriving DecidableEq, Repr

/-- A large page that a GRANT of a part of it has split: its space, its first byte and its leaf (R285). -/
structure Split where
  space : Nat
  base : Nat
  leaf : Leaf
  deriving DecidableEq, Repr

/-- The mapping engine and its tables (R283, R284). -/
structure MapEngine where
  nodes : AMap Node
  /-- Generations of free node places that are not zero (R285). -/
  gens : Sparse 10
  /-- Level-3 entries, keyed space × 2^33 + VA[51:19]. -/
  leaf3 : AMap Leaf
  /-- Level-2 leaves of 128 GiB pages, keyed space × 2^22 + VA[51:30]. -/
  leaf2 : AMap Leaf
  /-- What the tree gives a REVOKED entry, by the same keys: the leaf that stood there (R285, R286). -/
  kept3 : AMap Leaf
  kept2 : AMap Leaf
  splits : List Split
  /-- TADDR of the tables in use (R280), keyed space × 2^23 + 2048 for level 1, + VA[51:41] for level 2,
  + 2^22 + VA[51:30] for level 3; and the count of tables made. -/
  tables : AMap (BitVec 30)
  tableCount : Nat
  invals : List Inval
  /-- MAPs and GRANTs that wait for a reclaim (R293), in the order of their arrival. -/
  heldMaps : List HeldMap
  /-- UNMAPs of cut nodes, held until the earlier UNMAP replies (R291): that UNMAP's node and who waits. -/
  heldUnmaps : List (Nat × ReplyTo)
  /-- Roots of subtrees being reclaimed (R293). -/
  reclaims : List Nat
  migrations : List Migration
  /-- Next request number, for the waits of strands. -/
  nextRequest : Nat
  /-- A tree node could not be read: the engine has stopped (R318). -/
  stopped : Bool
  deriving DecidableEq, Repr

/-! ## Cores, clusters and contexts -/

/-- A placement pointer and the balances that are not zero (R328). The pointer is a core number: the list is read
from the first eligible core at or after it. -/
structure Placement where
  ptr : Nat
  bal : AMap Int
  deriving DecidableEq, Repr

/-- A core (R10). -/
structure Core where
  /-- The counter of the identifiers that the core assigns (R434). -/
  idCount : BitVec 19
  /-- The slot each quarter chose last, keyed bank × 4 + quarter (R107). -/
  lastSlot : AMap Nat
  /-- Unpublished stores in core store order (R262). -/
  wbuf : List BufStore
  /-- The lines of the snapshot data cache, keyed by physical line number (R262). -/
  snap : AMap (BitVec 1024)
  /-- The lines of the instruction cache, keyed context × 2^45 + VA[51:7] (R254). -/
  icache : AMap (BitVec 1024)
  /-- The parked-access table and the side log, in ORDER, and the count of entries made (R300, R303). -/
  parked : List Entry
  sidelog : List Entry
  order : Word
  /-- The model's own count of the entries that have stood on the core, restored ones too. -/
  made : Nat
  /-- Side-log entries of tasks that have trapped off the cores, which wait for places in the side log (R36). -/
  sideLate : List Entry
  /-- Mailboxes and fork deques by context, oldest first; MBOXLIM by context, 128 where not listed (R27, R119). -/
  mbox : AMap (List Held)
  mboxLim : AMap Nat
  deque : AMap (List Held)
  /-- When the last UNBOUND message of a slot was sent, keyed context × 64 + slot (R242). -/
  unbound : AMap Nat
  /-- The send queues REQ, REPLY, SYS, BULK, oldest first, the queue offered last, and SQLIM (R325). -/
  sendReq : List Message
  sendReply : List Message
  sendSys : List Message
  sendBulk : List Message
  sendTurn : Nat
  sqLim : Nat
  /-- Peers written since the previous FABRIC release (R270). -/
  peersWritten : List (BitVec 10)
  /-- The placement state of its steals (R328) and its sensor weight. -/
  stealPlace : Placement
  weight : BitVec 4
  /-- Strands that found the queue of its bank's lock bits full, in the order of their first attempts (R188). -/
  lockLate : List Nat
  /-- Bytes that the core has read from or written to HBM, by context, since that context's slice began (R331). -/
  traffic : AMap Nat
  deriving DecidableEq, Repr

/-- A posted launch: tasks not yet ended, completion data (R243, R244). -/
structure Launch where
  ctx : CtxId
  core : Nat
  tok : TokRef
  left : Nat
  rel : BitVec 2
  dec0 : Option Nat
  dec1 : Option Nat
  /-- When its last task ended, while its FABRIC release waits for the issuing core's PEER copies (R244, R270). -/
  doneAt : Option Nat
  deriving DecidableEq, Repr

/-- A cluster (R10). -/
structure Cluster where
  /-- The contexts that own it: one in IMAGE mode; in RESIDENT mode the owners of the lower and upper half,
  which own bank 0 and bank 1 (R31, R320). -/
  lower : Option CtxId
  upper : Option CtxId
  resident : Bool
  /-- The issuing bank in RESIDENT mode (R321). -/
  bank : Nat
  /-- Claimed operand slots and the context that claimed each (R217). -/
  claims : AMap CtxId
  /-- Unplaced tasks: launch and the items left, oldest launch first; CSET of each (R244). -/
  launchQ : List (Nat × List LaunchItem × Word)
  /-- Re-admission queue of coppiced or saved tasks, by model number (R316). -/
  readmit : List Nat
  readmitPlace : Placement
  /-- Cluster barriers by number 0 to 15; in RESIDENT mode the lower owner has 0 to 7 (R427). -/
  bars : AMap Barrier
  /-- Contexts with a pending pre-emption here (R330). -/
  preempt : List CtxId
  deriving DecidableEq, Repr

/-- A lock bit that is held: its holder and the strands that wait, in order (R188). -/
structure LockBit where
  holder : Nat
  queue : List Nat
  deriving DecidableEq, Repr

/-- A slot's binding (R241). -/
structure Binding where
  entry : VAddr
  glog : Nat
  window : Nat
  domain : BitVec 2
  deriving DecidableEq, Repr

/-- A task off the cores: coppiced, or saved by a pre-emption. What the frame does not hold is kept here
(R312, R313, R332). -/
structure Coppiced where
  task : Task
  frame : VAddr
  /-- Index of its coppice-list entry. -/
  entry : Nat
  cluster : ClusterId
  /-- The core of the cluster that it has run on last. -/
  core : BitVec 3
  /-- Its parked and side-log entries as saved. -/
  parked : List Entry
  sidelog : List Entry
  /-- Parts of the strands and groups that the frame's layout does not name. -/
  strands : List (Nat × Strand)
  groups : List Group
  /-- Coppiced under R125: the window address of the counter it waits for. -/
  fork : Option Nat
  /-- Saved by a pre-emption: its frame's bytes, which are in no coppice frame. -/
  saved : Bool
  bytes : Mem
  /-- The captured high halves of LO and HI pairs: strand index × 4096 + the LO address (R23). -/
  hold : Sparse 32
  /-- Its frame's page is not present: a page request is outstanding (R314). -/
  frameAbsent : Bool
  deriving DecidableEq, Repr

/-- What a pending pre-emption of a context is for: the KIND of the image, whether the context resumes after it (for a SLICE
image: whether the next context of the rotation is placed after it), and who waits for the reply (R330, R331, R336, R397). -/
structure SavePlan where
  kind : Nat
  resume : Bool
  reply : ReplyTo
  deriving DecidableEq, Repr

/-- A context (R10). -/
structure Ctx where
  /-- The partition it belongs to. -/
  part : Nat
  /-- Bindings by slot; 64 is the supervisor handler. -/
  binds : AMap Binding
  parkLim : Word
  budget : Word
  budgetCfg : Word
  /-- VTIME: the value at the last restore, and the cycles of residence since (R339). -/
  vtBase : DWord
  vtCycles : Nat
  vtFrozen : Bool
  /-- The clusters it is placed on; none while paused (R320). -/
  clusters : List ClusterId
  /-- Overflow mailbox: extent, log2 of its places, the messages in order, each with its index, and the index of the next one
  (R323). -/
  ovfBase : Nat
  ovfLog : Nat
  ovf : List (Nat × Message)
  ovfIndex : Nat
  /-- Messages that the router holds until room frees (R323, R235). -/
  routerHeld : List Message
  /-- Page requests in the order of their first faults: the first 1,024 stand in the queue, any others wait for room there
  (R305). -/
  pageQ : List PageReq
  /-- PAGEREQs returned by a trapped supervisor: not delivered before this cycle (R258). -/
  pageQNot : Nat
  coppiceList : VAddr
  noframeAt : Option Nat
  coppiced : AMap Coppiced
  launchPlace : Placement
  expiries : Nat
  /-- Device-physical tables and extents named at creation (R401). -/
  capBase : Nat
  imageBase : Nat
  imageSize : Nat
  wallOff : DWord
  logIndex : Nat
  /-- Cycles of the present slice, and the activity counted in it (R331): issues by their OP 0 to 63, multiply-accumulates by the
  format of the weights at 64 to 79, HBM bytes at 80, fabric bytes at 81. -/
  sliceCycles : Nat
  activity : AMap Nat
  plan : Option SavePlan
  /-- Handles of the extents that ALLOC has made for it (R251). -/
  allocs : List DWord
  /-- A save that found its extent too small left it stopped (R334). -/
  stuck : Bool
  deriving DecidableEq, Repr

/-! ## Copies and tile tasks -/

/-- A queued copy (R205, R206). -/
structure Copy where
  shape : BitVec 256
  src : DWord
  dst : DWord
  tok : TokRef
  ctx : CtxId
  /-- The task slot and core-window base of the issuing task, the issuing core and group. -/
  task : Nat
  core : Nat
  group : Nat
  winBase : Nat
  /-- The cycle in which it was queued (R214). -/
  since : Nat
  /-- The next run (R206), counted in loop order. -/
  run : Nat
  /-- Stopped on an absent page until a replay (R209). -/
  stopped : Option Absent
  /-- A replay has asked for a retry. -/
  retry : Bool
  /-- Ended in error, or all runs performed; the token update follows (R210). -/
  done : Bool
  error : Bool
  /-- Of a copy with a PEER side: packets of the present run that the peer has still to answer, READs or WRITEs of the run that have
  been sent, and the bytes of the run that have been read (R209). -/
  peerOut : Nat
  peerSent : Nat
  peerData : Option (List Byte)
  /-- Of a run with a PEER side: how many of its pieces have been found on pages that are present there (R209, R391). -/
  peerOk : Nat := 0
  deriving DecidableEq, Repr

/-- A copy queue: its copies in order, and the token whose TSET ends its halt (R209, R212). -/
structure CopyQueue where
  copies : List Copy
  halted : Option TokRef
  deriving DecidableEq, Repr

/-- A posted tile-task record (R218, R222). -/
structure Record where
  /-- The sixteen words as one number. -/
  words : BitVec 512
  /-- Predecessor counter, absolute index in the cluster. -/
  pred : Option Nat
  tok : TokRef
  ctx : CtxId
  /-- The engine numbers of the share: first and count. -/
  share : Nat
  task : Nat
  group : Nat
  deriving DecidableEq, Repr

/-- A record in an engine, and its progress (R224, R226). -/
structure Running where
  record : Record
  /-- Rows already drained, and the writes of the row that has been read and waits on an absent page (R226). -/
  drained : Nat
  rowOut : List (Int × List Byte)
  /-- GEMM: its stream has been performed. -/
  streamed : Bool
  stopped : Option Absent
  retry : Bool
  done : Bool
  error : Bool
  deriving DecidableEq, Repr

/-- A weight plane: columns, scale vectors, metadata, format, sparsity (R224, R362). -/
structure Plane where
  cols : Sparse 512
  scales : Sparse 160
  metadata : Sparse 128
  wfmt : BitVec 4
  sparse : Bool
  /-- Unusable after an error in its load (R369). -/
  bad : Bool
  deriving DecidableEq, Repr

/-- A matrix engine (R362 to R365). -/
structure Engine where
  active : Plane
  shadow : Plane
  /-- The active pointer: the storage tag of the active plane (R362). -/
  store : BitVec 1
  /-- Accumulator cells, keyed bank × 32768 + row × 256 + column. -/
  acc : Sparse 32
  /-- Accumulator cells with a lasting error, keyed as they are (R369). -/
  badCells : List Nat
  executing : Option Running
  pending : Option Record
  /-- Records past their release points that have not completed, oldest first (R364). -/
  units : List Running
  deriving DecidableEq, Repr

/-! ## The Pleach table -/

/-- The source of an arrival (R345). -/
inductive ArrSource where
  | upstream
  | downstream
  | turn
  deriving DecidableEq, Repr

/-- The stages of an entry after its issue (R349, R350, R355). -/
inductive EntryStage where
  /-- Its task waits for admission on a core or runs. -/
  | running
  /-- The task trapped: it starts again when the supervisor task for the numbered trap has ended (R355). Number 0:
  it does not start again (R41). -/
  | trapped (serial : Nat)
  /-- To be started again on a core that can admit it. -/
  | restart
  /-- The task ended: steps 2 to 5 of R350 follow. The automatic send's shape, source, destination, the core. -/
  | ended (shape : BitVec 256) (src dst : DWord) (core : Nat)
  /-- The automatic send is queued: its copy is marked by a token reference of the entry. -/
  | sending
  deriving DecidableEq, Repr

/-- An entry of the table (R343, R348). -/
structure PlEntry where
  bits : BitVec 128
  issued : Option EntryStage
  stamp : BitVec 48
  overtaken : Bool
  /-- The source of the arrival it consumed. -/
  consumed : Option ArrSource
  deriving DecidableEq, Repr

/-- The Pleach table (R340 to R357). Entries not listed are zero and waiting. -/
structure Pleach where
  entries : AMap PlEntry
  running : Bool
  len : BitVec 10
  head : BitVec 9
  up : Word
  down : Word
  status : BitVec 4
  errIx : BitVec 9
  owner : Option CtxId
  clock : BitVec 48
  /-- IN, OUT, STASH, BUSY, FAULT, PREEMPT, HALT. -/
  bubbles : List (BitVec 48)
  stash : List Nat
  credA : List Nat
  credG : List Nat
  arrA : List (List ArrSource)
  arrG : List (List ArrSource)
  place : Placement
  /-- Pleach messages held back by an absent neighbour, each with the entry that it is sent for (R354). -/
  stalled : List (BitVec 10 × MsgKind × Option (BitVec 9))
  /-- Cycles that the head has stalled on an unbound slot since the last UNBOUND message (R347). -/
  unboundFor : Nat
  deriving DecidableEq, Repr

/-! ## The fabric -/

/-- A restripe of a direction: the fabric time of the first declaration that it covers, the width before it, and whether a lasting
error caused it (R381, R382). -/
structure Restripe where
  time : Nat
  width : Nat
  lasting : Bool
  deriving DecidableEq, Repr

/-- One direction of a port, at this end (R376 to R381). -/
structure LinkDir where
  /-- Width in wavelengths, and the wavelengths that are dark. -/
  width : Nat
  dark : BitVec 16
  /-- Transmit: next LSEQ, the unacknowledged DATA flits (LSEQ and bytes, oldest first), flits still queued. -/
  nextSeq : Nat
  replay : List (Nat × List Byte)
  queue : List (List Byte)
  /-- Receive: expected LSEQ, and the fabric time at which an RREQ has been sent for it, if one has. -/
  expect : Nat
  rreqAt : Option Nat
  /-- Receive: the DATA flits, by LSEQ, that have come corrupt and not yet well, with the wavelengths whose parity failed (R380). -/
  corrupt : AMap (BitVec 16)
  /-- The replayed copy has been corrupt too: the wavelengths whose parity failed in both (R380). -/
  lasting : Option (BitVec 16)
  /-- A restripe in progress (R381). -/
  restripe : Option Restripe
  /-- Receive: the other end agrees, and its next LSEQ when it quiesced (R381). -/
  agreed : Option Nat
  /-- Receive: a restripe that is over but for the first restriped flit, with which its record is written (R382). -/
  awaits : Option Restripe
  /-- Transmit: the fabric time at which each flit of the replay buffer was last sent (R379), how many of its last flits a replay has still to send, and
  the fabric time from which the next flit can go out (R378). -/
  times : List Nat
  again : Nat
  freeAt : Nat
  /-- Receive: the LSEQ of the last DATA flit that was not corrupt, and the corrupt flits since, newest first: whether each reads as
  DATA, and its parities (R380). -/
  last : Nat
  since : List (Bool × BitVec 16)
  deriving DecidableEq, Repr

/-- An optical port. -/
structure Port where
  rx : LinkDir
  tx : LinkDir
  transient : Nat
  /-- Bytes of the packets that the receiver is putting together, by the VNET code of their flits (R383). -/
  parts : AMap (List Byte)
  /-- The last flit sent of each type but DATA (IDLE 0, RREQ 2, LCTL 3), and the fabric time at which the port last sent a flit,
  which carries LACK (R377, R379). -/
  ctl : AMap (List Byte)
  idleAt : Nat
  deriving DecidableEq, Repr

/-- What a packet sent to a peer belongs to, so that its answer or failure finds it (R384, R389). -/
inductive PktUse where
  | message (m : Message)
  /-- A WRITE or READ of a copy run: cluster queue key, the address, bytes to write. -/
  | copyWrite (queue : Nat) (tok : TokRef)
  | copyRead (queue : Nat) (tok : TokRef)
  /-- A ROP with a return of a strand, or a posted rop.st. -/
  | rop (e : Entry) (skey : Nat) (core : Nat)
  | ropSt (e : Entry) (core : Nat)
  /-- A translation request before a ROP of a strand, or before a run of a copy (R391). -/
  | xreqRop (e : Entry) (skey : Nat) (core : Nat)
  | xreqCopy (queue : Nat) (tok : TokRef)
  | marker (core : Nat) (id : Nat)
  /-- An answer or an invalidation acknowledgement. -/
  | answer
  | inval (node : Nat)
  deriving DecidableEq, Repr

/-- A packet kept until it is acknowledged (R385). -/
structure SentPkt where
  seq : BitVec 32
  kind : BitVec 8
  bytes : List Byte
  use : PktUse
  sentAt : Nat
  expiries : Nat
  deriving DecidableEq, Repr

/-- What this part keeps for each peer (R383 to R388). -/
structure Peer where
  nextSeq : BitVec 32
  unacked : List SentPkt
  /-- Packets that wait for a place among the 4,096: kind, body, use, and the port of a marker. -/
  waiting : List (BitVec 8 × List Byte × PktUse × Option Nat)
  /-- Highest SEQ received, and the marks of the 4,096 up to it, bit n for H − n. -/
  high : BitVec 32
  marks : BitVec 4096
  /-- Next OSEQ to send and to deliver on each VNET (REQ, BULK, SYS, REPLY). -/
  oseqOut : List (BitVec 32)
  oseqIn : List (BitVec 32)
  /-- Markers that wait for packets to perform (R388): SEQ of the MARKER, its identifier, M. -/
  markersIn : List (BitVec 32 × BitVec 32 × BitVec 32)
  deriving DecidableEq, Repr

/-- A translation of a peer's page, held by the cache of the port on which it came (R287, R391): peer, context, page, size, rights,
node handle. -/
structure RemoteTr where
  port : Nat
  peer : BitVec 10
  ctx : CtxId
  va : Nat
  psize : BitVec 2
  rights : BitVec 4
  handle : Word
  deriving DecidableEq, Repr

/-- An INVAL taken from a peer, acknowledged when the packets sent under its translations are (R392). -/
structure RemoteInval where
  peer : BitVec 10
  seq : BitVec 32
  handle : Word
  /-- SEQs that must be acknowledged first. -/
  waits : List (BitVec 32)
  deriving DecidableEq, Repr

/-- What follows a FABRIC release once every marker is acknowledged (R270). -/
inductive FabDone where
  /-- The strands of a group that wait at a PHASE: continue, with an acquire for kind FULL. -/
  | phase (gkey : Nat) (acquire : Bool)
  /-- The end of a launched task, then of the launch's issuing core (R244). -/
  | launchTask (launch : Nat)
  | launchEnd (launch : Nat)
  /-- The publication at the end of a table task (R350). -/
  | entry (index : Nat)
  deriving DecidableEq, Repr

/-- A FABRIC release in progress: core, the strands or work that wait, the peers whose MARKACK is awaited
(R270, R388). -/
structure FabRelease where
  id : Nat
  core : Nat
  peers : List (BitVec 10)
  done : FabDone
  deriving DecidableEq, Repr

/-- The fabric's state. -/
structure Fabric where
  ports : AMap Port
  peers : AMap Peer
  /-- The peer table's PORTS and CONN, and this part's own number, which is zero until it has been written (R389). -/
  table : AMap DWord
  self : BitVec 10
  numbered : Bool
  /-- Received packets not yet taken: the port, the VNET code and the packet's bytes. -/
  rx : List (Nat × Nat × List Byte)
  discarded : Nat
  remote : List RemoteTr
  remoteInvals : List RemoteInval
  releases : List FabRelease
  nextMarker : Nat
  /-- ROPs that wait until an earlier ROP of their strand to the peer has performed, in issue order: the peer, the
  operation, the strand and its core (R195). -/
  ropsHeld : List (BitVec 10 × Entry × Nat × Nat)
  /-- Fabric time since module reset, in eighths of a nanosecond (R2, R378, R382). -/
  time : Nat
  deriving DecidableEq, Repr

/-! ## The host, partitions and management -/

/-- A captured post (R396, R397). -/
structure Post where
  bytes : List Byte
  deriving DecidableEq, Repr

/-- A reply entry or another ring entry, as its bytes. -/
abbrev RingEntry := List Byte

/-- A message window of a function (R396). -/
structure Window where
  slots : Mem
  winerr : BitVec 1
  rrBase : DWord
  rrSize : Nat
  rrTail : Nat
  rrHead : Nat
  prqBase : DWord
  prqSize : Nat
  prqTail : Nat
  prqHead : Nat
  sigPend : BitVec 64
  /-- Captured posts not yet handled, in order; SENDs still on their way: identifier and TAG. -/
  posts : List Post
  sends : List (Word × Word)
  /-- Operations whose reply comes later: identifier and TAG. -/
  laters : List DWord
  /-- Reply and page-request entries that wait for room (R399, R400); a reply entry with whether a post is outstanding until it is
  written. -/
  replies : List (Bool × RingEntry)
  prqs : List RingEntry
  /-- The page requests of the function's stage-2 misses (R307). -/
  pageQ : List PageReq
  /-- TAG of the last post of each counter value of its identifier. -/
  tags : Sparse 32
  /-- The origin counter of the window's identifiers (R434). -/
  idCount : BitVec 12
  deriving DecidableEq, Repr

/-- A partition (R401). -/
structure Part where
  resident : Bool
  clusters : BitVec 32
  cbBase : Nat
  vfs : DWord
  ctxFirst : Nat
  ctxCount : Nat
  guest : CtxId
  /-- The control block as firmware read it last: rotation, count and slice records (R402). -/
  block : List Byte
  deriving DecidableEq, Repr

/-- A call passed to the Privet engine (R250 to R252). -/
structure Call where
  ctx : CtxId
  service : BitVec 4
  cap : DWord
  /-- The argument block or the call record: context address. -/
  block : VAddr
  args : List DWord
  /-- A SLOTCALL posts a record; a CINV or blocking SLOTCALL leaves strands waiting. -/
  slot : Bool
  gkey : Option Nat
  request : Nat
  d : GReg
  /-- An argument's page is absent (R251). -/
  absent : Option Absent
  retry : Bool
  /-- A FREE whose UNMAP is in progress. -/
  unmapping : Bool
  deriving DecidableEq, Repr

/-- A replay in progress: context, cores yet to begin, the strands that wait (R256, R308). -/
structure Replay where
  ctx : CtxId
  cores : List Nat
  reply : ReplyTo
  deriving DecidableEq, Repr

/-- A record of the error-record ring (R258, R319, R318). -/
inductive ErrRecord where
  | trap (ctx : CtxId) (r : TrapRec)
  /-- A retired page: context, address, the lines lost. -/
  | page (ctx : CtxId) (va : Nat) (lost : List Nat)
  /-- A lasting error that nothing retires or repairs: its physical line. -/
  | part (line : Nat)
  /-- A save whose extent is too small: the context and the bytes that its image needs (R334). -/
  | need (ctx : CtxId) (bytes : Nat)
  deriving DecidableEq, Repr

/-- A firmware image in a slot (R409): whether its public key has the hash that the boot ROM holds, whether the signature over its
body verifies under that key, and its version. -/
structure Firmware where
  keyOk : Bool
  signed : Bool
  version : Nat
  deriving DecidableEq, Repr

/-- Management (R404 to R412). -/
structure Mgmt where
  owner : BitVec 3
  successor : BitVec 3
  pending : Bool
  pendingAt : Nat
  ready : Bool
  bootFail : Bool
  negotiated : Bool
  partErr : Bool
  drvFeat : BitVec 128
  actFeat : BitVec 128
  /-- WALLREF as last written, and the cycle of the write. -/
  wallRef : DWord
  wallAt : Nat
  pwrLimit : Nat
  power : Word
  temp : Word
  stackCe : AMap Word
  fevRing : DWord
  errRing : DWord
  logBase : DWord
  /-- Records written to the fabric event ring and the error-record ring, oldest first (R382, R258, R319). -/
  fevOut : List (List Byte)
  errOut : List ErrRecord
  /-- The boot sequence has run since the last module reset (R408). -/
  booted : Bool
  /-- The firmware slots, the one that runs (B or A), and the anti-rollback count in fuses (R409). -/
  slotA : Firmware
  slotB : Firmware
  runsB : Bool
  /-- The slot that does not run has been written since the last boot (R409). -/
  staged : Bool
  rollback : Nat
  /-- Measurements 1 to 5 (R410). -/
  measures : AMap (BitVec 512)
  /-- Clocks stopped at 105 degrees (R412); issue gated. -/
  stopped : Bool
  gated : Bool
  /-- SPDM: the responses given, newest last (R411). -/
  spdmOut : List (List Byte)
  msix : AMap Nat
  /-- Transient errors of the engines' stores and of operand memory (R369). -/
  engineCe : Nat
  /-- The inventory record, loaded with the fuse maps: the serial number, and for each engine its spare lanes and spare columns in
  use (R359, R405). -/
  serialNo : DWord
  spares : List (Nat × Nat)
  deriving DecidableEq, Repr

/-- The service processor's queues: notify writes not yet taken, each with the identifier of its sequence number, and the last
sequence number (R35, R254). -/
structure Service where
  queues : AMap (List (DWord × DWord × Word))
  seq : Word
  deriving DecidableEq, Repr

/-- An output of a mesh router: the input it served last (0 to 4: the local input, then the links from the north, east, south and
west), the virtual network it served last at each input, and the cycle from which it is free (R375). -/
structure RouterOut where
  lastInput : Option Nat
  lastVnet : AMap Nat
  freeAt : Nat
  deriving DecidableEq, Repr

/-- What a context image holds of a context, beside the bytes of its memories (R334, R335): clusters and cores are
logical. -/
structure Image where
  kind : Nat
  /-- The context owned the Pleach table at the save (R334). -/
  owner : Bool := false
  ctxid : CtxId
  ctx : Ctx
  resident : Bool
  ncl : Nat
  /-- Saved and coppiced tasks, by model number. -/
  tasks : List (Nat × Coppiced)
  /-- Stopped copies and halts, by cluster × 12 + queue. -/
  copies : List (Nat × Copy)
  halts : List (Nat × TokRef)
  /-- Coppiced or saved tasks in the re-admission queues, in order, each with its cluster. -/
  readmit : List (Nat × Nat)
  mail : List (Nat × List Held)
  deques : List (Nat × List Held)
  limits : List (Nat × Nat)
  /-- Claimed slots by cluster × 512 + number in the share. -/
  claims : List Nat
  /-- Engines and barriers by cluster × 16 + number in the share. -/
  engines : List (Nat × Engine)
  bars : List (Nat × Barrier)
  /-- Windows, operand memory and counters, by cluster × 2^23, × 2^22, × 4096 + the place in the share. -/
  cluwin : Mem
  opmem : Mem
  pcs : Sparse 32
  pl : Option Pleach
  digest : BitVec 512
  deriving DecidableEq, Repr

/-! ## What happens next, and the whole part -/

/-- The events: the rows of the opcode table that have no instruction word, named as `Instr` names them. (An own type,
so that a step can make an event in compiled code: the runtime has no place for all of `Instr`'s constructors.) -/
inductive Event where
  | messageArrival (n : Nat)
  | mailboxDequeue (core : CoreId)
  | taskAdmission (core : CoreId)
  | taskEnd (task : Nat)
  | launchPlacement (cluster : ClusterId)
  | workSteal (core : CoreId)
  | sendQueueInject (core : CoreId)
  | sendqTimeout (group : Nat)
  | unbound (core : CoreId) (ctx : CtxId) (slot : BitVec 6)
  | overflowRefill (core : CoreId) (ctx : CtxId)
  | monitorTimeout (strand : Nat)
  | pagereq (vf : Bool) (queue : CtxId)
  | coreReplay (core : CoreId) (ctx : CtxId)
  | coppice (core : CoreId)
  | reAdmission (cluster : ClusterId)
  | migrationProtect
  | migrationSwitch
  | migrationRelease
  | invalidation
  | shootdownAck (cache : Nat)
  | reclaimEnd
  | copyRun (cluster : ClusterId) (queue : BitVec 4)
  | copyComplete (cluster : ClusterId) (queue : BitVec 4)
  | recordIssue (cluster : ClusterId)
  | wload (engine : BitVec 9)
  | swap (engine : BitVec 9)
  | mstream (engine : BitVec 9)
  | gemm (engine : BitVec 9)
  | drain (engine : BitVec 9)
  | recordComplete (engine : BitVec 9)
  | residentSwitch (cluster : ClusterId)
  | sliceEnd (ctx : CtxId)
  | preemptionRequest (ctx : CtxId) (clusters : BitVec 32)
  | budgetExpiry (task : Nat)
  | quiescentSave (task : Nat)
  | contextSave (ctx : CtxId)
  | contextRestore (image : BitVec 44) (clusters : BitVec 32)
  | determSwitch
  | pleachWalkCycle
  | pleachEntryEnd (entry : BitVec 9)
  | slotgiveMsg (n : Nat)
  | arrive (n : Nat)
  | plctlClr
  | msg (n : Nat)
  | write (n : Nat)
  | read (n : Nat)
  | rdata (n : Nat)
  | rop (n : Nat)
  | roprep (n : Nat)
  | xreq (n : Nat)
  | xrep (n : Nat)
  | inval (n : Nat)
  | invack (n : Nat)
  | marker (n : Nat)
  | markack (n : Nat)
  | eack (n : Nat)
  | e2eRetransmit (peer : BitVec 10) (seq : BitVec 32)
  | peerDisconnect (peer : BitVec 10)
  | rreq (port : BitVec 5)
  | linkReplayTimeout (port : BitVec 5)
  | lastingLinkError (port : BitVec 5)
  | lossOfLight (port : BitVec 5) (transmit : Bool) (waves : BitVec 16)
  | wavelengthReturn (port : BitVec 5) (transmit : Bool) (waves : BitVec 16)
  | restripeRestart (port : BitVec 5) (transmit : Bool)
  | hostSend (fn : BitVec 6)
  | hostMap (fn : BitVec 6)
  | hostGrant (fn : BitVec 6)
  | hostUnmap (fn : BitVec 6)
  | hostMquery (fn : BitVec 6)
  | reserve (fn : BitVec 6)
  | migrate (fn : BitVec 6)
  | hostReplay (fn : BitVec 6)
  | partcreate (fn : BitVec 6)
  | partdestroy (fn : BitVec 6)
  | ctxcreate (fn : BitVec 6)
  | ctxdestroy (fn : BitVec 6)
  | place (fn : BitVec 6)
  | save (fn : BitVec 6)
  | capset (fn : BitVec 6)
  | plassign (fn : BitVec 6)
  | time (n : Nat)
  | alloc (n : Nat)
  | free (n : Nat)
  | log (n : Nat)
  | signal (n : Nat)
  | wake (n : Nat)
  | mapproxy (n : Nat)
  | yieldslice (n : Nat)
  | features (n : Nat)
  | claim (master : BitVec 3)
  | release (master : BitVec 3)
  | handover (master successor : BitVec 3)
  | accept (master : BitVec 3)
  | handoverLapse
  | transportReset (master : BitVec 3)
  | negotiate (master : BitVec 3)
  | registerWrite (space : RegSpace) (offset : Nat) (value : DWord)
  | flr (fn : BitVec 6)
  | moduleReset
  | boot
  | powerGating (watts celsius : BitVec 32)
  | thermalShutdown (celsius : BitVec 32)
  | getVersion
  | getCapabilities
  | negotiateAlgorithms (slhDsaShake256f : Bool)
  | getDigests
  | getCertificate (slot : BitVec 4) (offset length : BitVec 16)
  | challenge (nonce : BitVec 256)
  | getMeasurements (index : BitVec 8)
  | linkFlit (port : BitVec 5) (bytes : List Byte) (parity : BitVec 16)
  | rreqResend (port : BitVec 5)
  deriving DecidableEq, Repr

/-- What the outside world, a unit of the part or time does next. The agenda is plain data that says which agent
moves: a step takes its head. -/
inductive AgendaItem where
  /-- An event of the opcode table. -/
  | event (e : Event)
  /-- Cycles pass. -/
  | elapse (cycles : Nat)
  /-- A cache drops a line or an entry, as it may at any time (R262, R288). -/
  | dropSnap (core : Nat) (line : Nat)
  | dropIcache (core : Nat) (key : Nat)
  | dropTlb (cache : Nat)
  /-- The service processor computes a core's sensor weight (R328). -/
  | weight (core : CoreId) (w : BitVec 4)
  /-- A line of HBM has an uncorrectable error from now on, lasting or not; or reads correctly again (R318). -/
  | eccLine (line : Nat) (error : Option Bool)
  /-- A 64-bit word of operand memory has an uncorrectable lasting error (R369). -/
  | eccOperand (cluster : ClusterId) (word : Nat)
  /-- A plane store or an accumulator cell has one (R369). -/
  | eccPlane (engine : BitVec 9) (active : Bool)
  | eccAcc (engine : BitVec 9) (bank : BitVec 1) (row : BitVec 7) (column : BitVec 8)
  /-- A read of operand memory, of a plane store or of an accumulator bank failed and its second read was correct (R369). -/
  | eccTransient
  /-- The host writes device memory through its link; the write performs at the coherence point (R261). -/
  | hostWrite (pa : BitVec 44) (bytes : List Byte)
  /-- The host writes an image that another Vexhorn has saved into an extent (R336). -/
  | hostImage (pa : BitVec 44) (image : Image)
  /-- A notify write to a queue of the service processor (R35). -/
  | notify (queue : Nat) (w0 w1 : DWord)
  /-- A master writes a firmware image into the slot that does not run (R409). -/
  | firmware (master : BitVec 3) (image : Firmware)
  deriving DecidableEq, Repr

/-- What the choice of a group and a lane has changed, so that an instruction that only waits gives its turn back (R106):
the turn pointer and the yields of the quarter's groups, and the slot that the quarter chose before. -/
structure Before where
  groups : List (Nat × BitVec 5 × Option Yielded)
  last : Option Nat
  deriving DecidableEq, Repr

/-- The issue in progress: the group, the active set and the address and word issued (R108); what the choice changed. -/
structure Issue where
  core : Nat
  bank : Nat
  gslot : Nat
  mask : Word
  pc : VAddr
  word : Word
  before : Before
  deriving DecidableEq, Repr

/-- The register file, with the keys of the flat maps. -/
structure RegFile where
  /-- s0 to s63: strand × 64 + number. -/
  s : Sparse 32
  /-- p0 to p7 as one byte: strand. -/
  p : Sparse 8
  /-- g0 to g31: group × 32 + number. -/
  g : Sparse 64
  /-- h0 to h7: group × 8 + number. -/
  h : Sparse 256
  /-- j0 to j7: group × 8 + number; one that is not listed is zero. -/
  j : AMap JoinMask
  /-- k0 to k15: group × 16 + number; one that is not listed is zero with nothing outstanding. -/
  k : AMap Token
  /-- The captured high halves of LO and HI pairs: strand × 4096 + the LO address (R23). -/
  hold : Sparse 32
  deriving DecidableEq, Repr

/-- The state of the part. -/
structure State where
  issue : Issue
  rf : RegFile
  strands : AMap Strand
  groups : AMap Group
  tasks : AMap Task
  cores : AMap Core
  clusters : AMap Cluster
  ctxs : AMap Ctx
  parts : AMap Part
  /-- Lock bits held, keyed core × 64 + number (R187). -/
  locks : AMap LockBit
  /-- Tags of a task: task slot × 4096 + slot; bit 25 valid (R197). -/
  tags : Sparse 26
  /-- The memory at the coherence point, by device-physical address (R277). -/
  mem : Mem
  /-- Core windows, core × 2^19; cluster windows, cluster × 2^23; operand memory, cluster × 2^22. -/
  corewin : Mem
  cluwin : Mem
  opmem : Mem
  /-- Predecessor counters: cluster × 4096 + index (R229). -/
  pcs : Sparse 32
  /-- Posting buffers by cluster, copy queues by cluster × 12 + queue, engines by cluster × 16 + engine. -/
  posts : AMap (List Record)
  queues : AMap CopyQueue
  engines : AMap Engine
  launches : AMap Launch
  calls : AMap Call
  replays : List Replay
  map : MapEngine
  /-- Translation caches: core 0 to 255, cluster 256 + n, copy engine 288 + n, port 384 + n; the stage-2 entries that the walkers
  hold of partition p are 416 + p, with context 0 and intermediate addresses (R287). -/
  tlbs : AMap (List TlbEntry)
  /-- Lines with an uncorrectable error: true for a lasting one (R318); operand words likewise (R369). -/
  badLines : AMap Bool
  badOps : AMap Unit
  /-- Context images by the address of their extent (R334). -/
  images : AMap Image
  /-- Messages at their agents and in the mesh: those of one buffer of a router in the order in which they came to it; those that
  have left their last router stand in the order of their arrival (R371, R373, R374). -/
  mesh : List Message
  /-- What each near-memory operation unit has to perform, in the order of arrival (R393, R394). -/
  units : AMap (List RopJob)
  /-- The outputs of the mesh's routers, keyed router × 8 + direction: north 0, east, south, west, local 4 (R375). -/
  routers : AMap RouterOut
  pl : Pleach
  fab : Fabric
  windows : AMap Window
  mgmt : Mgmt
  service : Service
  /-- DETERM (R28). -/
  determEn : Bool
  determActive : Bool
  /-- Identifier counters of the page-request queues and the Pleach table (R434). -/
  prqIds : BitVec 12
  plIds : BitVec 12
  /-- Cycles since module reset. -/
  now : Nat
  /-- The model's own: what happens next, whose turn it is when nothing is due, counters of task numbers, trap
  serials and free values drawn. -/
  agenda : List AgendaItem
  favor : Bool
  nextQuarter : Nat
  /-- The event that a unit of the part made last, by its place in the rotation of the arbiters (R337, R131). -/
  lastEvent : Nat
  uid : Nat
  serial : Nat
  draws : Nat
  deriving DecidableEq, Repr

/-! ## After a module reset -/

def Placement.init : Placement := ⟨0, []⟩

def Strand.init : Strand :=
  ⟨0, 0, 0, .exited, [], none, none, false, ⟨true, none, none⟩, []⟩

def Core.init : Core :=
  ⟨0, [], [], [], [], [], [], 0, 0, [], [], [], [], [], [], [], [], [], 0, 32, [], Placement.init, 0, [], []⟩

def Cluster.init : Cluster := ⟨none, none, false, 0, [], [], [], Placement.init, [], []⟩

def Plane.init : Plane := ⟨[], [], [], 0, false, false⟩

def Engine.init : Engine := ⟨Plane.init, Plane.init, 0, [], [], none, none, []⟩

def CopyQueue.init : CopyQueue := ⟨[], none⟩

/-- An entry of the Pleach table at reset: zero and waiting. -/
def PlEntry.init : PlEntry := ⟨0, none, 0, false, none⟩

/-- The Pleach table at reset (R342). -/
def Pleach.init : Pleach :=
  ⟨[], false, 0x200, 0, 0x80000000, 0x80000000, 0, 0, none, 0, List.replicate 7 0, List.replicate 16 64,
    List.replicate 16 0, List.replicate 16 0, List.replicate 16 [], List.replicate 16 [], Placement.init, [], 0⟩

/-- A direction of a port before its link is up: no width (R408). -/
def LinkDir.init : LinkDir := ⟨0, 0, 0, [], [], 0, none, [], none, none, none, none, [], 0, 0, 0xFFF, []⟩

def Port.init : Port := ⟨LinkDir.init, LinkDir.init, 0, [], [], 0⟩

/-- A peer before its first packet. The first packet to it has SEQ 0xFFFFFFFF, so that the writes that follow the first translation
request are numbered from 0, as R424 says; none before it is awaited (DESIGN CHOICE: log 13). -/
def Peer.init : Peer := ⟨0xFFFFFFFF, [], [], 0xFFFFFFFE, BitVec.allOnes 4096, List.replicate 4 0, List.replicate 4 0, []⟩

def Fabric.init : Fabric := ⟨[], [], [], 0, false, [], 0, [], [], [], 0, [], 0⟩

/-- A message window at reset (R396). -/
def Window.init : Window := ⟨[], 0, 0, 6, 0, 0, 0, 6, 0, 0, 0, [], [], [], [], [], [], [], 0⟩

/-- The management registers at reset (R405). -/
def Mgmt.init : Mgmt :=
  ⟨0, 0, false, 0, false, false, false, false, 0, 0, 0, 0, 1500, 0, 0, [], 0, 0, 0, [], [], false, ⟨true, true, 0⟩, ⟨true, true, 0⟩,
    false, false, 0, [], false, false, [], [], 0, 0, []⟩

/-- The root nodes of context 0 that exist at reset: HBM and the device registers (R277). A host extent gets its
root node as the host enables it (DESIGN CHOICE: log 44). -/
def MapEngine.init : MapEngine :=
  { nodes := [(0, { cut := false, reclaim := false, granted := false, unbacked := false, moving := false,
                    rights := 0x1F, psize := 0, gen := 0, parent := none, children := [], owner := 0, space := 0,
                    pages := 0xBE000, va := 0, pva := 0, remote := 0, backs := none }),
              (1, { cut := false, reclaim := false, granted := false, unbacked := false, moving := false,
                    rights := 0x13, psize := 0, gen := 0, parent := none, children := [], owner := 0, space := 0,
                    pages := 0x200000, va := 0xF0000000000, pva := 0xF0000000000, remote := 0, backs := none }),
              (2, { cut := false, reclaim := false, granted := false, unbacked := false, moving := false,
                    rights := 0x1F, psize := 0, gen := 0, parent := none, children := [], owner := 0, space := 0,
                    pages := 0x800000, va := 0x80000000000, pva := 0x80000000000, remote := 0, backs := none })]
    gens := [], leaf3 := [], leaf2 := [], kept3 := [], kept2 := [], splits := [], tables := [], tableCount := 0, invals := [],
    heldMaps := [], heldUnmaps := [], reclaims := [],
    migrations := [], nextRequest := 1, stopped := false }

/-- The part right after a module reset (R43): no task runs, no context exists, every register and memory at its
reset value, and boot still to come (R408) (DESIGN CHOICE: log 1). -/
def State.reset : State :=
  { issue := ⟨0, 0, 0, 0, 0, 0, ⟨[], none⟩⟩
    rf := ⟨[], [], [], [], [], [], []⟩
    strands := [], groups := [], tasks := [], cores := [], clusters := [], ctxs := [], parts := [], locks := [],
    tags := [], mem := [], corewin := [], cluwin := [], opmem := [], pcs := [], posts := [], queues := [],
    engines := [], launches := [], calls := [], replays := [], map := MapEngine.init, tlbs := [], badLines := [],
    badOps := [], images := [], mesh := [], units := [], routers := [], pl := Pleach.init, fab := Fabric.init, windows := [], mgmt := Mgmt.init,
    service := ⟨[], 0⟩, determEn := false, determActive := false, prqIds := 0, plIds := 0, now := 0, agenda := [],
    favor := false, nextQuarter := 0, lastEvent := 0, uid := 1, serial := 1, draws := 0 }

end Sys2Proof.Machine
end

