-- ==== Sys2Proof/Machine/Ops.lean ====
section
/-! DEFINITION. The named operations over registers, strands, memories, translation, messages and tasks that the
meanings share, and taking a trap. -/

namespace Sys2Proof.Machine

/-! ## Registers (R15, R16, R17) -/

/-- s[r] of a strand; s0 reads zero. -/
def getS (s : State) (k : Nat) (r : SReg) : Word := if r = 0 then 0 else Sparse.read s.rf.s (k * 64 + r.toNat)

/-- Writes s[r] of a strand; a write to s0 is discarded. -/
def setS (s : State) (k : Nat) (r : SReg) (v : Word) : State :=
  if r = 0 then s else { s with rf := { s.rf with s := Sparse.write s.rf.s (k * 64 + r.toNat) v } }

/-- p[n] of a strand; p7 reads true. -/
def getP (s : State) (k : Nat) (n : Reg3) : Bool := n = 7 || (Sparse.read s.rf.p k).getLsbD n.toNat

/-- The byte with one bit set to a value. -/
def setBit8 (b : Byte) (n : Nat) (v : Bool) : Byte :=
  if v then b ||| (1#8 <<< n) else b &&& ~~~(1#8 <<< n)

/-- Writes p[n] of a strand; a write to p7 is discarded. -/
def setP (s : State) (k : Nat) (n : Reg3) (v : Bool) : State :=
  if n = 7 then s else
    { s with rf := { s.rf with p := Sparse.write s.rf.p k (setBit8 (Sparse.read s.rf.p k) n.toNat v) } }

/-- g[n] of a group; g0 reads zero. -/
def getG (s : State) (gk : Nat) (n : GReg) : DWord := if n = 0 then 0 else Sparse.read s.rf.g (gk * 32 + n.toNat)

/-- Writes g[n] of a group; a write to g0 is discarded. -/
def setG (s : State) (gk : Nat) (n : GReg) (v : DWord) : State :=
  if n = 0 then s else { s with rf := { s.rf with g := Sparse.write s.rf.g (gk * 32 + n.toNat) v } }

/-- h[n] of a group. -/
def getH (s : State) (gk : Nat) (n : Reg3) : BitVec 256 := Sparse.read s.rf.h (gk * 8 + n.toNat)

/-- Writes h[n] of a group. -/
def setH (s : State) (gk : Nat) (n : Reg3) (v : BitVec 256) : State :=
  { s with rf := { s.rf with h := Sparse.write s.rf.h (gk * 8 + n.toNat) v } }

/-- j[n] of a group. -/
def getJ (s : State) (gk : Nat) (n : Nat) : JoinMask := AMap.getD s.rf.j (gk * 8 + n) ⟨0, 0, 0⟩

/-- Writes j[n] of a group. -/
def setJ (s : State) (gk : Nat) (n : Nat) (v : JoinMask) : State :=
  { s with rf := { s.rf with j := AMap.put s.rf.j (gk * 8 + n) v } }

/-- k[n] of a group. -/
def getK (s : State) (gk : Nat) (n : KReg) : Token := AMap.getD s.rf.k (gk * 16 + n.toNat) ⟨0, 0⟩

/-- Writes k[n] of a group. -/
def setK (s : State) (gk : Nat) (n : KReg) (v : Token) : State :=
  { s with rf := { s.rf with k := AMap.put s.rf.k (gk * 16 + n.toNat) v } }

/-- The pair whose even register is r: the lower-numbered register holds bits [31:0] (R17). -/
def getPair (s : State) (k : Nat) (r : SReg) : DWord := getS s k (r + 1) ++ getS s k r

/-- Writes a pair. -/
def setPair (s : State) (k : Nat) (r : SReg) (v : DWord) : State :=
  setS (setS s k r (v.setWidth 32)) k (r + 1) (v.extractLsb' 32 32)

/-- The even register of the n-th pair. -/
def evenReg (n : BitVec 5) : SReg := n ++ 0#1

/-- n registers from r up as 32-bit words in memory order. -/
def getRegs (s : State) (k : Nat) (r : SReg) : Nat → List Word
  | 0 => []
  | n + 1 => getS s k r :: getRegs s k (r + 1) n

/-- Writes 32-bit words to registers from r up. -/
def setRegs (s : State) (k : Nat) (r : SReg) : List Word → State
  | [] => s
  | w :: ws => setRegs (setS s k r w) k (r + 1) ws

/-- The number that words hold, the first the least significant. -/
def natOfWords : List Word → Nat
  | [] => 0
  | w :: ws => w.toNat + 2 ^ 32 * natOfWords ws

/-- The low n words of a number. -/
def wordsOf : Nat → Nat → List Word
  | 0, _ => []
  | n + 1, v => BitVec.ofNat 32 v :: wordsOf n (v / 2 ^ 32)

/-! ## Strands, groups and the issue -/

/-- A group slot's key. -/
def gkey (core bank slot : Nat) : Nat := core * 32 + bank * 16 + slot

/-- The issuing group's key. -/
def gk (s : State) : Nat := gkey s.issue.core s.issue.bank s.issue.gslot

/-- The lanes of a mask, ascending (R87). -/
def lanesOf (m : Word) : List Nat := (List.range 32).filter (fun l => m.getLsbD l)

/-- The lanes of the active set S. -/
def lanes (s : State) : List Nat := lanesOf s.issue.mask

/-- The key of a lane's strand of the issuing group. -/
def skey (s : State) (lane : Nat) : Nat := gk s * 32 + lane

/-- The strands of S, ascending. -/
def active (s : State) : List Nat := (lanes s).map (skey s)

/-- The lowest-numbered strand of S. -/
def firstActive (s : State) : Nat := (active s).headD 0

/-- A strand; one that does not exist has exited. -/
def strandAt (s : State) (k : Nat) : Strand := AMap.getD s.strands k Strand.init

/-- Changes a strand that exists. -/
def modStrand (s : State) (k : Nat) (f : Strand → Strand) : State := { s with strands := AMap.modify s.strands k f }

/-- Changes each strand of a list. -/
def modStrands (s : State) (ks : List Nat) (f : Strand → Strand) : State :=
  ks.foldl (fun s k => modStrand s k f) s

/-- Sets a strand's PC. -/
def setPc (s : State) (k : Nat) (pc : VAddr) : State := modStrand s k (fun t => { t with pc := pc })

/-- The address after the instruction that issues. -/
def nextPc (s : State) : VAddr := s.issue.pc + 4

/-- Every strand of S continues after the instruction (R113). -/
def advance (s : State) : State := modStrands s (active s) (fun t => { t with pc := s.issue.pc + 4, wait := .run })

/-- Does f for each strand of S in ascending lane order. -/
def forActive (s : State) (f : State → Nat → State) : State := (active s).foldl f s

/-- A group of the part. -/
def groupAt? (s : State) (g : Nat) : Option Group := AMap.get? s.groups g

/-- The task of a group. -/
def taskOfGroup? (s : State) (g : Nat) : Option (Nat × Task) :=
  match AMap.get? s.groups g with
  | none => none
  | some gr => (AMap.get? s.tasks gr.task).map (fun t => (gr.task, t))

/-- The issuing task and its key. -/
def issuer? (s : State) : Option (Nat × Task) := taskOfGroup? s (gk s)

/-- Changes a task that exists. -/
def modTask (s : State) (k : Nat) (f : Task → Task) : State := { s with tasks := AMap.modify s.tasks k f }

/-- Changes a group that exists. -/
def modGroup (s : State) (k : Nat) (f : Group → Group) : State := { s with groups := AMap.modify s.groups k f }

/-- A core; one not listed is as at reset. -/
def coreAt (s : State) (c : Nat) : Core := AMap.getD s.cores c Core.init

/-- Changes a core. -/
def modCore (s : State) (c : Nat) (f : Core → Core) : State := { s with cores := AMap.put s.cores c (f (coreAt s c)) }

/-- A cluster; one not listed is as at reset. -/
def clusterAt (s : State) (c : Nat) : Cluster := AMap.getD s.clusters c Cluster.init

/-- Changes a cluster. -/
def modCluster (s : State) (c : Nat) (f : Cluster → Cluster) : State :=
  { s with clusters := AMap.put s.clusters c (f (clusterAt s c)) }

/-- A context, if it exists. -/
def ctxAt? (s : State) (c : CtxId) : Option Ctx := AMap.get? s.ctxs c.toNat

/-- Changes a context that exists. -/
def modCtx (s : State) (c : CtxId) (f : Ctx → Ctx) : State := { s with ctxs := AMap.modify s.ctxs c.toNat f }

/-- Changes a message window. -/
def windowAt (s : State) (fn : BitVec 6) : Window := AMap.getD s.windows fn.toNat Window.init

def modWindow (s : State) (fn : BitVec 6) (f : Window → Window) : State :=
  { s with windows := AMap.put s.windows fn.toNat (f (windowAt s fn)) }

/-- A copy queue, a posting buffer, an engine. -/
def queueAt (s : State) (q : Nat) : CopyQueue := AMap.getD s.queues q CopyQueue.init

def modQueue (s : State) (q : Nat) (f : CopyQueue → CopyQueue) : State :=
  { s with queues := AMap.put s.queues q (f (queueAt s q)) }

def engineAt (s : State) (e : Nat) : Engine := AMap.getD s.engines e Engine.init

def modEngine (s : State) (e : Nat) (f : Engine → Engine) : State :=
  { s with engines := AMap.put s.engines e (f (engineAt s e)) }

/-- The core of a strand, a group, a task slot. -/
def coreOfStrand (k : Nat) : Nat := k / 1024
def coreOfGroup (g : Nat) : Nat := g / 32
def bankOfKey (g : Nat) : Nat := g % 32 / 16
def laneOfStrand (k : Nat) : Nat := k % 32
def clusterOfCore (c : Nat) : Nat := c / 8

/-- The strand index of a strand within its task (R10). -/
def strandIx (s : State) (k : Nat) : BitVec 9 :=
  match AMap.get? s.groups (k / 32) with
  | none => 0
  | some g => BitVec.ofNat 9 (g.index * 32 + k % 32)

/-- The task with a model number, if it is on a core. -/
def taskByUid? (s : State) (uid : Nat) : Option (Nat × Task) := s.tasks.find? (fun e => e.2.uid = uid)

/-- The strand of a task by its strand index. -/
def strandByIx? (t : Task) (ix : BitVec 9) : Option Nat :=
  (t.groups[ix.toNat / 32]?).map (fun g => g * 32 + ix.toNat % 32)

/-- All strands of a task. -/
def strandsOfTask (t : Task) : List Nat := t.groups.flatMap (fun g => (List.range 32).map (fun l => g * 32 + l))

/-- The strands of a group. -/
def strandsOfGroup (g : Nat) : List Nat := (List.range 32).map (fun l => g * 32 + l)

/-- The privilege of a strand (R33). -/
def privOf (s : State) (k : Nat) : BitVec 2 := (strandAt s k).priv

/-- Strands stop until a condition holds; their instruction then issues again (R106). -/
def holdFor (s : State) (ks : List Nat) (c : Cond) : State :=
  modStrands s ks (fun t =>
    match t.wait with
    | .cond _ since => { t with wait := .cond c since }
    | _ => { t with wait := .cond c s.now })

/-- The issue takes no turn, because no strand of it was ready: the quarter's choice and the group's turn pointer are as
before it (R106 to R108). -/
def giveTurnBack (s : State) : State :=
  let b := s.issue.before
  let s1 := b.groups.foldl (fun s g => modGroup s g.1 (fun x => { x with turn := g.2.1, yielded := g.2.2 })) s
  if b.groups.isEmpty then s1
  else
    let q := s.issue.bank * 4 + s.issue.gslot % 4
    modCore s1 s.issue.core (fun c => { c with lastSlot :=
      match b.last with
      | some n => AMap.put c.lastSlot q n
      | none => AMap.erase c.lastSlot q })

/-- The strands of S stop until the condition holds: the instruction waits and takes no turn (R106). -/
def waitFor (s : State) (ks : List Nat) (c : Cond) : State := giveTurnBack (holdFor s ks c)

/-! ## Tokens (R210) -/

/-- The group of a token reference, if its task still lives on a core. -/
def tokGroup? (s : State) (r : TokRef) : Option Nat :=
  match taskByUid? s r.uid with
  | none => none
  | some (_, t) => t.groups[r.group]?

/-- The reference to a token of the issuing group. -/
def tokRef (s : State) (k : KReg) : TokRef :=
  match issuer? s with
  | none => ⟨0, 0, k⟩
  | some (_, t) => ⟨t.uid, ((AMap.get? s.groups (gk s)).map (·.index)).getD 0, k⟩

/-- The count after a completion: one more mod 2^31, bit 31 on an error (R210). -/
def bumpCount (c : Word) (error : Bool) : Word :=
  (if error then 1#1 else c.extractLsb' 31 1) ++ (c.extractLsb' 0 31 + 1)

/-- A token update of a task that a pre-emption has saved: its saved count (R36, R313). -/
def tokenAway (s : State) (r : TokRef) (error : Bool) : State :=
  let off := 0x1000 + r.group * 1024 + 512 + 8 * r.k.toNat
  { s with ctxs := s.ctxs.map (fun e => (e.1, { e.2 with
      coppiced := AMap.modify e.2.coppiced r.uid (fun c =>
        if c.saved then
          let n := bumpCount (BitVec.ofNat 32 (Mem.nat c.bytes off 4)) error
          { c with bytes := Mem.setNat (Mem.setNat c.bytes off 4 n.toNat) (off + 4) 4 (Mem.nat c.bytes (off + 4) 4 - 1) }
        else c) })) }

/-- The update of R210 for an operation that was outstanding; discarded when the task has gone (R215). -/
def tokenUpdate (s : State) (r : TokRef) (error : Bool) : State :=
  match tokGroup? s r with
  | none => tokenAway s r error
  | some g =>
    let t := getK s g r.k
    setK s g r.k ⟨bumpCount t.count error, t.outstanding - 1⟩

/-! ## Wakes and monitors (R127) -/

/-- Whether a strand is parked on a monitor of the line. -/
def watches (t : Strand) (l : MonLine) : Bool :=
  match t.wait with
  | .monitor l' _ => l' = l
  | _ => false

/-- What a wake event for a line does to a strand: it wakes if it watches the line, and it remembers the event. -/
def Strand.wake (l : MonLine) (t : Strand) : Strand :=
  { t with
    wait := if watches t l then .run else t.wait
    woken := t.woken || (match l with | .global n => t.lastLine == some n | _ => false)
    spin := { t.spin with ld := t.spin.ld.map (fun d => if d.line = l then { d with woken := true } else d) } }

/-- The cores at which an event wakes strands: all of them, one, or all but one (R127). -/
inductive Wakes where
  | all
  | core (c : Nat)
  | others (c : Nat)
  deriving DecidableEq, Repr

/-- The event wakes the strands of a core. -/
def Wakes.at : Wakes → Nat → Bool
  | .all, _ => true
  | .core c, n => n == c
  | .others c, n => n != c

/-- A wake event for a line, at some cores: the strands that watch it wake, and their cores drop their snapshots, the line's with
them: a wake is an acquire (R127, R269). -/
def wakeLine (s : State) (l : MonLine) (w : Wakes) : State :=
  let hit := fun (k : Nat) => w.at (coreOfStrand k)
  let woken := (s.strands.filter (fun e => hit e.1 && watches e.2 l)).map (fun e => coreOfStrand e.1)
  woken.foldl (fun s c => modCore s c (fun x => { x with snap := [] }))
    { s with strands := s.strands.map (fun e => if hit e.1 then (e.1, Strand.wake l e.2) else e) }

/-- Wake events for the lines of a range of bytes of a store. -/
def wakeRange (s : State) (mk : Nat → MonLine) (a n : Nat) (w : Wakes) : State :=
  if n = 0 then s else
    ((List.range ((a + n - 1) / 128 - a / 128 + 1)).map (fun i => a / 128 + i)).foldl
      (fun s l => wakeLine s (mk l) w) s

/-! ## Windows and operand memory (R29 to R31, R186) -/

/-- The bytes of a window store: the cluster windows or the core windows. -/
def winBytes (s : State) (cl : Bool) (a n : Nat) : List Byte := Mem.bytes (if cl then s.cluwin else s.corewin) a n

/-- Writes bytes of a window store; any write to a line is a wake event for it. -/
def winWrite (s : State) (cl : Bool) (a : Nat) (bs : List Byte) : State :=
  wakeRange
    (if cl then { s with cluwin := Mem.setBytes s.cluwin a bs } else { s with corewin := Mem.setBytes s.corewin a bs })
    (if cl then .cluster else .core) a bs.length .all

/-- The half of a cluster that a context owns: the first byte of its window share, its length, and whether it is
the upper half (R31, R216). None when it owns nothing there. -/
def clusterShare? (s : State) (cluster : Nat) (ctx : CtxId) : Option (Nat × Nat × Bool) :=
  let c := clusterAt s cluster
  if c.resident then
    if c.lower = some ctx then some (0, 0x400000, false)
    else if c.upper = some ctx then some (0x400000, 0x400000, true)
    else none
  else if c.lower = some ctx then some (0, 0x800000, false) else none

/-- The cluster barriers of a context's share: first number and count (R427). -/
def barShare? (s : State) (cluster : Nat) (ctx : CtxId) : Option (Nat × Nat) :=
  (clusterShare? s cluster ctx).map (fun x =>
    if (clusterAt s cluster).resident then (if x.2.2 then 8 else 0, 8) else (0, 16))

/-- The limit of CLUWIN offsets (R29). -/
def cluLimit (s : State) (cluster : Nat) : Nat := if (clusterAt s cluster).resident then 0x400000 else 0x800000

/-! ## Memory at the coherence point (R260, R262, R277, R318) -/

/-- Plain memory of the device-physical space: HBM below the mapping region, and host extents. -/
def plainMem (pa : Nat) : Bool := pa < 0x5F00000000 || (0x80000000000 ≤ pa && pa < 0xC0000000000)

/-- The peer table and the part's own number (R389). -/
def peerTable (pa : Nat) : Bool := 0xF0001000000 ≤ pa && pa < 0xF0001002008

/-- The 64-bit peer-table word that holds an address. -/
def peerWord (s : State) (pa : Nat) : DWord :=
  if 0xF0001002000 ≤ pa then s.fab.self.setWidth 64
  else
    let n := (pa - 0xF0001000000) / 8
    let w := AMap.getD s.fab.table n 0
    if BitVec.ofNat 10 n = s.fab.self ∧ s.fab.numbered then w ||| 0x4000000000000000 else w

/-- Feature 4 is active: fabric and peer table (R407). -/
def featureOn (s : State) (n : Nat) : Bool := s.mgmt.actFeat.getLsbD n

/-- One byte at the coherence point. -/
def memByte (s : State) (pa : Nat) : Byte :=
  if peerTable pa then
    if featureOn s 4 then (peerWord s pa).extractLsb' (pa % 8 * 8) 8 else 0
  else Mem.byte s.mem pa

/-- Bytes at the coherence point. -/
def memBytes (s : State) (pa : Nat) : Nat → List Byte
  | 0 => []
  | n + 1 => memByte s pa :: memBytes s (pa + 1) n

/-- Writes one byte of the peer table: CONN and PORTS take what is written; the other bits are read only (R389). -/
def peerSetByte (s : State) (pa : Nat) (b : Byte) : State :=
  if featureOn s 4 then
    if 0xF0001002000 ≤ pa then
      let w : DWord := (s.fab.self.setWidth 64 &&& ~~~((0xFF#64) <<< (pa % 8 * 8))) ||| (b.setWidth 64 <<< (pa % 8 * 8))
      { s with fab := { s.fab with self := w.setWidth 10, numbered := true } }
    else
      let n := (pa - 0xF0001000000) / 8
      let o := AMap.getD s.fab.table n 0
      let w : DWord := (o &&& ~~~((0xFF#64) <<< (pa % 8 * 8))) ||| (b.setWidth 64 <<< (pa % 8 * 8))
      { s with fab := { s.fab with table := AMap.put s.fab.table n (w &&& 0x80000000FFFFFFFF) } }
  else s

/-- Writes one byte at the coherence point. -/
def memSetByte (s : State) (pa : Nat) (b : Byte) : State :=
  if peerTable pa then peerSetByte s pa b else { s with mem := Mem.setByte s.mem pa b }

def memSetBytes (s : State) (pa : Nat) : List Byte → State
  | [] => s
  | b :: bs => memSetBytes (memSetByte s pa b) (pa + 1) bs

/-- The stack of a physical address, if it is in HBM (R277). -/
def stackOf? (pa : Nat) : Option Nat := if pa < 0x6000000000 then some (pa / 0xC00000000) else none

/-- Counts a transient error of a line's stack, and the line then reads correctly (R318). -/
def countTransient (s : State) (line : Nat) : State :=
  let s := { s with badLines := AMap.erase s.badLines line }
  match stackOf? (line * 128) with
  | none => s
  | some st =>
    let c := AMap.getD s.mgmt.stackCe st 0
    { s with mgmt := { s.mgmt with stackCe := AMap.put s.mgmt.stackCe st (if c = 0xFFFFFFFF then c else c + 1) } }

/-- The partition of a context that is made of a virtual function, whose spaces translate in two stages (R282). -/
def vfPart? (s : State) (ctx : CtxId) : Option Nat :=
  match ctxAt? s ctx with
  | none => none
  | some c =>
    match AMap.get? s.parts c.part with
    | some p => if p.vfs ≠ 0 then some c.part else none
    | none => none

/-- Whose addresses the frames of a space's leaves are: device-physical ones for a stage-2 space and for a context that
translates in one stage, else the intermediate ones of a partition (R282). -/
def frameSpace (s : State) (space : Nat) : Option Nat :=
  if 4096 ≤ space then none else vfPart? s (BitVec.ofNat 12 space)

/-- The frames of a space's leaves are device-physical. -/
def physicalSpace (s : State) (space : Nat) : Bool := (frameSpace s space).isNone

/-- The leaf that an entry holds, or stands for while it is REVOKED. -/
def standing (kept : AMap Leaf) (k : Nat) (l : Leaf) : Leaf := if l.revoked then AMap.getD kept k l else l

/-- The leaf of one 512 KiB unit of a page. -/
def Leaf.unit (l : Leaf) (i : Nat) : Leaf :=
  { l with psize := 0, frame := if l.pres then l.frame + BitVec.ofNat 25 i else l.frame }

/-- The leaf of the unit that a level-3 entry holds or stands for. -/
def unitOf (m : MapEngine) (e : Nat × Leaf) : Leaf :=
  let l := standing m.kept3 e.1 e.2
  l.unit (if l.psize = 1 then e.1 % 512 else 0)

/-- Every place of a unit whose leaf names a frame as a space does: its space, its address and the unit's leaf. -/
def framePlaces (s : State) (space : Nat) (f : BitVec 25) : List (Nat × Nat × Leaf) :=
  (s.map.leaf3.filter (fun e =>
      (unitOf s.map e).pres && (unitOf s.map e).frame == f && frameSpace s (e.1 / 2 ^ 33) == frameSpace s space)).map
    (fun e => (e.1 / 2 ^ 33, e.1 % 2 ^ 33 * 2 ^ 19, unitOf s.map e))

/-- The 1 GiB parts of pages of 128 GiB whose leaf covers a frame as a space names it. -/
def hugePlaces (s : State) (space : Nat) (f : BitVec 25) : List (Nat × Nat × Leaf) :=
  (s.map.leaf2.filterMap (fun e =>
    let l := standing s.map.kept2 e.1 e.2
    let first := l.frame.toNat + e.1 % 128 * 2048
    if l.pres && frameSpace s (e.1 / 2 ^ 22) == frameSpace s space && decide (first ≤ f.toNat) && decide (f.toNat < first + 2048)
    then some (e.1 / 2 ^ 22, e.1 % 2 ^ 22 * 2 ^ 30 + (f.toNat - first) * 2 ^ 19, l)
    else none))

/-- A page with a lasting error is to be retired by migration (R319): the mapping engine finds it in the first place that names
the frame. An error in a frame that no leaf names, or in a page that is already to move, retires nothing. -/
def retirePage (s : State) (pa : Nat) : State :=
  let f := BitVec.ofNat 25 (pa / 2 ^ 19)
  match framePlaces s 4096 f ++ hugePlaces s 4096 f with
  | [] => s
  | (space, va, l) :: _ =>
    if s.map.migrations.any (fun m => (frameSpace s m.space).isNone && (m.oldFrame == f || m.newFrame == f)) then s
    else
      { s with map := { s.map with migrations := s.map.migrations ++ [
          { node := l.node, space := space, va := va, oldFrame := f, newFrame := f, stage := .queued, reply := .nobody }] } }

/-- Reads the ECC state of a line before its data: a transient error is counted and gone; a lasting one answers
true and retires the page (R318). -/
def eccCheck (s : State) (line : Nat) : State × Bool :=
  match AMap.get? s.badLines line with
  | none => (s, false)
  | some false => (countTransient s line, false)
  | some true => (retirePage s (line * 128), true)

/-- The ECC state of the lines of a range of bytes. -/
def eccRange (s : State) (pa n : Nat) : State × Bool :=
  if n = 0 then (s, false) else
    ((List.range ((pa + n - 1) / 128 - pa / 128 + 1)).map (fun i => pa / 128 + i)).foldl
      (fun a l => let r := eccCheck a.1 l; (r.1, a.2 || r.2)) (s, false)

/-- A write to a line with a lasting error: its other bytes are written zero (R318). -/
def eccWrite (s : State) (line : Nat) : State :=
  match AMap.get? s.badLines line with
  | some true =>
    { retirePage s (line * 128) with
      badLines := AMap.erase s.badLines line, mem := AMap.clear s.mem (line * 128) (line * 128 + 128) }
  | some false => countTransient s line
  | none => s

/-- A write performs at the coherence point: the bytes land, and it is a wake event at some cores (R127, R260). -/
def performFor (s : State) (w : Wakes) (pa : Nat) (bs : List Byte) : State :=
  if bs.isEmpty then s else
    let s1 := ((List.range ((pa + bs.length - 1) / 128 - pa / 128 + 1)).map (fun i => pa / 128 + i)).foldl eccWrite s
    wakeRange (memSetBytes s1 pa bs) .global pa bs.length w

/-- A write of an atomic, a remote operation, an engine or the host performs: a wake event at every core (R127). -/
def perform (s : State) (pa : Nat) (bs : List Byte) : State := performFor s .all pa bs

/-- A count grows. -/
def bump (m : AMap Nat) (k n : Nat) : AMap Nat := AMap.put m k (AMap.getD m k 0 + n)

/-- An activity counter of a context grows (R331); in deterministic mode energy is not counted (R337). -/
def addActivity (s : State) (ctx : CtxId) (k n : Nat) : State :=
  if s.determActive then s else modCtx s ctx (fun c => { c with activity := bump c.activity k n })

/-- The context that the issuing bank of a core serves (R31, R321). -/
def coreCtx (s : State) (c : Nat) : CtxId :=
  let k := clusterAt s (clusterOfCore c)
  (if k.resident && k.bank == 1 then k.upper else k.lower).getD 0

/-- HBM bytes of a context that pass a core: counted where the address lies in HBM (R331; DESIGN CHOICE: log 100). -/
def Core.moves (x : Core) (ctx : CtxId) (pa n : Nat) : Core :=
  if (stackOf? pa).isSome then { x with traffic := bump x.traffic ctx.toNat n } else x

/-- The near-memory operation unit of a place in HBM: one for each quarter of a stack. A place in the host's memory has none, and unit 0
takes its operations (R393; DESIGN CHOICE: log 103). -/
def nearUnit (pa : Nat) : BitVec 5 :=
  match stackOf? pa with
  | some st => BitVec.ofNat 5 (st * 4 + (Config.quarterOf (pa / 128)).toNat)
  | none => 0

/-- HBM bytes of a context that an engine moves (R331; DESIGN CHOICE: log 100). -/
def hbmMoves (s : State) (ctx : CtxId) (l : List (Nat × Nat)) : State :=
  addActivity s ctx 80 ((l.filter (fun x => (stackOf? x.1).isSome)).map (·.2)).sum

/-- 1,024 bits of a line from its bytes. -/
def lineBits (bs : List Byte) : BitVec 1024 := BitVec.ofNat 1024 (natOfBytes bs)

/-- A line with bytes from a place in it replaced. -/
def patchLine (l : BitVec 1024) (i : Nat) : List Byte → BitVec 1024
  | [] => l
  | b :: bs => patchLine ((l &&& ~~~((0xFF#1024) <<< (8 * i))) ||| (b.setWidth 1024 <<< (8 * i))) (i + 1) bs

/-- A store of a core performs: it becomes visible to the other cores, where it is a wake event, as it was at its own core when
it was made (R127); the core's own copy of the line takes the bytes of the store alone (R262). -/
def performStore (s : State) (c : Nat) (b : BufStore) : State :=
  let s := performFor s (.others c) b.pa b.bytes
  let line := b.pa / 128
  match AMap.get? (coreAt s c).snap line with
  | none => s
  | some l => modCore s c (fun x => { x with snap := AMap.put x.snap line (patchLine l (b.pa % 128) b.bytes) })

/-- Publish(CHIP): every store of the core's write buffer performs, in core store order, and the buffer empties
(R266). -/
def publish (s : State) (c : Nat) : State :=
  let b := (coreAt s c).wbuf
  b.foldl (fun s x => performStore s c x) (modCore s c (fun x => { x with wbuf := [] }))

/-- Publishes the stores of the write buffer that a test chooses (R192, R292). -/
def publishSome (s : State) (c : Nat) (f : BufStore → Bool) : State :=
  let b := (coreAt s c).wbuf
  (b.filter f).foldl (fun s x => performStore s c x)
    (modCore s c (fun x => { x with wbuf := b.filter (fun y => !f y) }))

/-- Acquire(CHIP): drops every line of the core's snapshot (R266). -/
def acquire (s : State) (c : Nat) : State := modCore s c (fun x => { x with snap := [] })

/-- The distinct lines of the unpublished stores. -/
def bufLines (b : List BufStore) : List Nat :=
  b.foldl (fun ls x => if ls.contains (x.pa / 128) then ls else (x.pa / 128) :: ls) []

/-- A store is made: it enters the write buffer; strands of the core may wake (R127). When the unpublished stores
exceed the 1,024 lines of the snapshot cache, the whole buffer is published (R265, capacity; DEDUCED: log 12). -/
def makeStore (s : State) (c : Nat) (ctx : CtxId) (pa : Nat) (bs : List Byte) : State :=
  let s := modCore s c (fun x => ({ x with wbuf := x.wbuf ++ [⟨pa, bs, ctx⟩] } : Core).moves ctx pa bs.length)
  let s := wakeRange s .global pa bs.length (.core c)
  if (bufLines (coreAt s c).wbuf).length > 1024 then publish s c else s

/-- The last unpublished byte that a core has stored at an address. -/
def bufByte? (b : List BufStore) (pa : Nat) : Option Byte :=
  b.foldl (fun r x => if x.pa ≤ pa ∧ pa < x.pa + x.bytes.length then x.bytes[pa - x.pa]? else r) none

/-- A cache of sets of eight lines takes a line; a full set drops one of its lines, which one the spec leaves open (R1;
DESIGN CHOICE: log 77). -/
def putLine (m : AMap (BitVec 1024)) (sets now key : Nat) (l : BitVec 1024) : AMap (BitVec 1024) :=
  let peers := (m.map (·.1)).filter (fun k => k % sets == key % sets && k != key)
  let m := if 8 ≤ peers.length then AMap.erase m (peers.getD (Config.victimWay now key).toNat 0) else m
  AMap.put m key l

/-- The line of a core's snapshot after a load of it: filled from the coherence point if it is missing (R262). -/
def fillLine (s : State) (c : Nat) (line : Nat) : State :=
  match AMap.get? (coreAt s c).snap line with
  | some _ => s
  | none => modCore s c (fun x =>
      ({ x with snap := putLine x.snap 128 s.now line (lineBits (memBytes s (line * 128) 128)) } : Core).moves (coreCtx s c) (line * 128) 128)

/-- The byte that a load of the core returns once the line is in its snapshot (R262). -/
def coreByte (x : Core) (pa : Nat) : Byte :=
  match bufByte? x.wbuf pa with
  | some b => b
  | none => ((AMap.getD x.snap (pa / 128) 0).extractLsb' (pa % 128 * 8) 8)

/-- n bytes as the core sees them. -/
def coreBytes (x : Core) (pa : Nat) : Nat → List Byte
  | 0 => []
  | n + 1 => coreByte x pa :: coreBytes x (pa + 1) n

/-- The write buffer holds every byte of an access (R262). -/
def buffered (b : List BufStore) (pa n : Nat) : Bool := (List.range n).all (fun i => (bufByte? b (pa + i)).isSome)

/-- A GLOBAL load of a core of bytes of one line: the line is read when the write buffer does not answer every byte
(R262). -/
def loadGlobal (s : State) (c : Nat) (pa n : Nat) : State × List Byte :=
  let s := if buffered (coreAt s c).wbuf pa n then s else fillLine s c (pa / 128)
  (s, coreBytes (coreAt s c) pa n)

/-! ## Translation (R279 to R282, R287, R288) -/

/-- Bytes of a page, by its size code (R279). -/
def pageBytes (z : BitVec 2) : Nat := match z.toNat with | 0 => 2 ^ 19 | 1 => 2 ^ 28 | _ => 2 ^ 37

/-- Bytes of a node's extent (R284). -/
def Node.bytes (n : Node) : Nat := n.pages * pageBytes n.psize

/-- The translation of an address that a root node of a space gives: the identity (R278, R401). -/
def rootLeaf? (m : MapEngine) (space va : Nat) : Option Leaf :=
  (m.nodes.find? (fun e => e.2.parent.isNone && e.2.space == space && e.2.va ≤ va && va < e.2.va + e.2.bytes)).map
    (fun e => ⟨false, true, false, e.2.rights.setWidth 4, 0, e.1, none, BitVec.ofNat 25 (va / 2 ^ 19)⟩)

/-- The leaf that a walk of a space meets, if its entries are not EMPTY. -/
def leafAt? (m : MapEngine) (space va : Nat) : Option Leaf :=
  match AMap.get? m.leaf2 (space * 2 ^ 22 + va / 2 ^ 30) with
  | some l => some l
  | none =>
    match AMap.get? m.leaf3 (space * 2 ^ 33 + va / 2 ^ 19) with
    | some l => some l
    | none => rootLeaf? m space va

/-- The outcome of a walk. -/
inductive WalkOut where
  | page (e : TlbEntry)
  | absent (a : Absent)
  | revoked
  deriving DecidableEq, Repr

/-- The places of the page that a migration moves: every leaf that names its frame (R296, R297; DEDUCED: log 52). -/
def pagePlaces (s : State) (g : Migration) : List (Nat × Nat) :=
  (framePlaces s g.space (if g.stage = .switched then g.newFrame else g.oldFrame)).map (fun p => (p.1, p.2.1))

/-- A walk of a place meets a page whose migration has switched frames and awaits its acknowledgements, be it ended by a cut
since: walks of it wait (R296 step 4). -/
def switching (s : State) (space va : Nat) : Bool :=
  s.map.migrations.any (fun g => g.stage = .switched &&
    (g.ended.isNone || s.map.invals.any (fun v => v.kind == .release && v.node == g.node)) &&
    (pagePlaces s g).contains (space, va / 2 ^ 19 * 2 ^ 19))

/-- The context that receives the UNBACKED requests of a node (R284). -/
def ownerOf (m : MapEngine) (node : Nat) : CtxId := ((AMap.get? m.nodes node).map (·.owner)).getD 0

/-- One stage: a leaf of a space for an access (R281). -/
def walkLeaf (s : State) (space : Nat) (ctx : CtxId) (va : Nat) (write : Bool) (vf : Option Nat) : WalkOut :=
  match leafAt? s.map space va with
  | none => .absent ⟨va / 2 ^ 19 * 2 ^ 19, .unmapped, ctx, vf, none, true⟩
  | some l =>
    if l.revoked then .revoked
    else if !l.pres then .absent ⟨va / 2 ^ 19 * 2 ^ 19, .unbacked, ownerOf s.map l.node, vf, none, true⟩
    else if (l.wp && write) || switching s space va then
      .absent ⟨va / 2 ^ 19 * 2 ^ 19, .unbacked, ctx, vf, none, false⟩
    else
      .page ⟨ctx, va / pageBytes l.psize * pageBytes l.psize, l.psize, l.rights, l.wp, l.frame.toNat * 2 ^ 19, l.node⟩

/-- Whether a cached translation covers an address of a context. -/
def TlbEntry.covers (e : TlbEntry) (ctx : CtxId) (va : Nat) : Bool :=
  e.ctx == ctx && e.va ≤ va && va < e.va + pageBytes e.psize

def tlbAt (s : State) (cache : Nat) : List TlbEntry := AMap.getD s.tlbs cache []

/-- Where the walkers hold the stage-2 entries of a partition (R287). -/
def walkerCache (p : Nat) : Nat := 416 + p

/-- Stage 2 of an intermediate address (R282): the physical address, the rights and WP, or the outcome; from an entry that the
walkers hold, else from the tables (R287). -/
def stage2 (s : State) (p : Nat) (ctx : CtxId) (ipa : Nat) (write : Bool) : WalkOut :=
  match (tlbAt s (walkerCache p)).find? (fun e => e.covers 0 ipa) with
  | some e =>
    if e.wp && write then .absent ⟨ipa / 2 ^ 19 * 2 ^ 19, .unbacked, ctx, some p, none, false⟩ else .page { e with ctx := ctx }
  | none => walkLeaf s (4096 + p) ctx ipa write (some p)

/-- The outcomes of stage 2 for the table pointers of a walk, the first that is not a page (R282). -/
def stage2Tables (s : State) (p : Nat) (ctx : CtxId) : List Nat → Option WalkOut
  | [] => none
  | ipa :: rest =>
    match stage2 s p ctx ipa false with
    | .page _ => stage2Tables s p ctx rest
    | o => some o

/-- The entries that a walk of a space reads, from level 1 down to the first that is not TABLE (R280, R281): the key of the
table, and the entry's address. -/
def entryPath (m : MapEngine) (space va : Nat) : List (Nat × Nat) :=
  let at_ := fun (k ix : Nat) => (AMap.get? m.tables k).toList.map (fun (t : BitVec 30) => (k, t.toNat * 2 ^ 14 + ix * 8))
  let k2 := space * 2 ^ 23 + va / 2 ^ 41
  let k3 := space * 2 ^ 23 + 2 ^ 22 + va / 2 ^ 30
  at_ (space * 2 ^ 23 + 2048) (va / 2 ^ 41) ++ at_ k2 (va / 2 ^ 30 % 2048) ++
    (if (AMap.get? m.leaf2 (space * 2 ^ 22 + va / 2 ^ 30)).isSome then [] else at_ k3 (va / 2 ^ 19 % 2048))

/-- The intermediate addresses of the entries that a walk reads in a stage-1 space: each is that of the table pointer with the
entry's place in the table, which lies in the pointer's unit (R282). -/
def tablePath (s : State) (ctx : CtxId) (va : Nat) : List Nat := (entryPath s.map ctx.toNat va).map (·.2)

/-- The physical addresses of the table entries that a walk of a context's address reads, each with its table: stage 2 for each
entry of stage 1 and for the frame (R282, R318). -/
def entriesRead (s : State) (ctx : CtxId) (va : Nat) : List (Nat × Nat) :=
  match vfPart? s ctx with
  | none => entryPath s.map ctx.toNat va
  | some p =>
    let two := fun (ipa : Nat) => entryPath s.map (4096 + p) ipa
    (entryPath s.map ctx.toNat va).flatMap (fun e =>
      two e.2 ++ (match stage2 s p ctx e.2 false with
        | .page f => [(e.1, f.pa + (e.2 - f.va))]
        | _ => [])) ++
    (match leafAt? s.map ctx.toNat va with
      | some l => if l.pres then two (l.frame.toNat * 2 ^ 19 + va % pageBytes l.psize) else []
      | none => [])

/-- A walk of a context's address (R281, R282). -/
def walk (s : State) (ctx : CtxId) (va : Nat) (write : Bool) : WalkOut :=
  match vfPart? s ctx with
  | none => walkLeaf s ctx.toNat ctx va write none
  | some p =>
    match stage2Tables s p ctx (tablePath s ctx va) with
    | some o => o
    | none =>
      match walkLeaf s ctx.toNat ctx va write none with
      | .page e =>
        match stage2 s p ctx (e.pa + (va - e.va)) write with
        | .page f =>
          let z := if pageBytes f.psize < pageBytes e.psize then f.psize else e.psize
          let base := va / pageBytes z * pageBytes z
          .page ⟨ctx, base, z, e.rights &&& f.rights, e.wp || f.wp, f.pa + (e.pa + (va - e.va) - f.va) - (va - base),
            e.node⟩
        | o => o
      | o => o

/-- Places of a translation cache (R287). The spec gives the walkers' stage-2 entries no number: they are not bounded here, and any
may be dropped at any time (R288; DESIGN CHOICE: log 102). -/
def cacheSize (cache : Nat) : Nat :=
  if cache < 256 then 64 else if cache < 288 then 2048 else if cache < 384 then 32 else if cache < 416 then 256 else 2 ^ 33

/-- A cache takes a translation, dropping its oldest when it is full. -/
def tlbFill (s : State) (e : TlbEntry) (cache : Nat) : State :=
  let l := tlbAt s cache
  if l.any (fun x => x.covers e.ctx e.va && x.psize == e.psize) then s
  else { s with tlbs := AMap.put s.tlbs cache ((e :: l).take (cacheSize cache)) }

/-- The first of the caches that holds a translation. -/
def tlbFind (s : State) (ctx : CtxId) (va : Nat) : List Nat → Option TlbEntry
  | [] => none
  | c :: cs =>
    match (tlbAt s c).find? (fun e => e.covers ctx va) with
    | some e => some e
    | none => tlbFind s ctx va cs

/-- The place for a new table: the free one of the mapping region that the part finds from its first choice on (R277), or the
intermediate address of a table of stage 1 (R282) (DESIGN CHOICE: log 7). -/
def freeTable (used : List (BitVec 30)) (i : Nat) : Nat → BitVec 30
  | 0 => BitVec.ofNat 30 (0x17C4000 + i)
  | fuel + 1 =>
    if used.contains (BitVec.ofNat 30 (0x17C4000 + i)) then freeTable used ((i + 1) % 245760) fuel
    else BitVec.ofNat 30 (0x17C4000 + i)

/-- Makes a table. -/
def makeTable (phys : Bool) (m : MapEngine) (k : Nat) : MapEngine :=
  let c := Config.tablePlace m.tableCount
  let a := if phys then freeTable (m.tables.map (·.2)) (c.toNat % 245760) (m.tables.length + 1) else c
  { m with tables := AMap.put m.tables k a, tableCount := m.tableCount + 1 }

/-- A walker reads a table entry: a transient error is counted and gone; a table whose line cannot be read is rebuilt in a fresh
place from the tree, and the walk goes on (R318). An engine that has stopped rebuilds none. -/
def readEntry (s : State) (e : Nat × Nat) : State :=
  match AMap.get? s.badLines (e.2 / 128) with
  | none => s
  | some false => countTransient s (e.2 / 128)
  | some true => if s.map.stopped then s else { s with map := makeTable (physicalSpace s (e.1 / 2 ^ 23)) s.map e.1 }

/-- The entries that a walk reads are read. -/
def readEntries (s : State) (ctx : CtxId) (va : Nat) : State :=
  if s.badLines.isEmpty then s else (entriesRead s ctx va).foldl readEntry s

/-- A walk meets a table entry that still cannot be read: its access waits (R318). -/
def unreadable (s : State) (ctx : CtxId) (va : Nat) : Bool :=
  s.map.stopped && (entriesRead s ctx va).any (fun e => AMap.get? s.badLines (e.2 / 128) == some true)

/-- The outcome of a walk whose entries have been read: a page that cannot be reached for an entry that cannot be read is away. -/
def walked (s : State) (ctx : CtxId) (va : Nat) (write : Bool) : WalkOut :=
  if unreadable s ctx va then .absent ⟨va / 2 ^ 19 * 2 ^ 19, .unmapped, ctx, none, none, false⟩ else walk s ctx va write

/-- The walkers keep the stage-2 entries that a walk has met: of the table pointers and of the leaf's frame (R282, R287). -/
def fillWalkers (s : State) (ctx : CtxId) (va : Nat) : State :=
  match vfPart? s ctx with
  | none => s
  | some p =>
    let frame := match leafAt? s.map ctx.toNat va with
      | some l => if l.pres then [l.frame.toNat * 2 ^ 19 + va % pageBytes l.psize] else []
      | none => []
    (tablePath s ctx va ++ frame).foldl (fun s ipa =>
      match stage2 s p 0 ipa false with
      | .page f => tlbFill s f (walkerCache p)
      | _ => s) s

/-- A walker's walk: the entries are read and kept, and the outcome (R281, R287, R318). -/
def walkRead (s : State) (ctx : CtxId) (va : Nat) (write : Bool) : State × WalkOut :=
  let s1 := fillWalkers (readEntries s ctx va) ctx va
  (s1, walked s1 ctx va write)

/-- Walks of some pages are made, for what their reads of the tables do (R318). -/
def walkPages (s : State) (ctx : CtxId) (vas : List Nat) : State := vas.foldl (fun s va => (walkRead s ctx va false).1) s

/-- The caches of a list that stand before one that holds a translation: these take it from there. -/
def before (s : State) (ctx : CtxId) (va : Nat) : List Nat → List Nat
  | [] => []
  | c :: cs => if (tlbAt s c).any (fun e => e.covers ctx va) then [] else c :: before s ctx va cs

/-- Translates through the caches in order, asking a walker when none holds the page; a cache fills from the next, the last from
the walker (R287, R318). -/
def translate (s : State) (caches : List Nat) (ctx : CtxId) (va : Nat) (write : Bool) : State × WalkOut :=
  match tlbFind s ctx va caches with
  | some e =>
    if e.wp && write then (s, .absent ⟨va / 2 ^ 19 * 2 ^ 19, .unbacked, ctx, none, none, false⟩)
    else ((before s ctx va caches).foldl (fun s c => tlbFill s e c) s, .page e)
  | none =>
    let r := walkRead s ctx va write
    match r.2 with
    | .page e => (caches.foldl (fun s c => tlbFill s e c) r.1, .page e)
    | o => (r.1, o)

/-- The caches that a core looks in: its own, then its cluster's. The service processor, core 256, has none. -/
def coreCaches (c : Nat) : List Nat := if c < 256 then [c, 256 + clusterOfCore c] else []

/-! ## Page requests (R304 to R307) -/

/-- Two waits for one unit of one space, here or at one peer. -/
def Absent.same (a b : Absent) : Bool := a.unit == b.unit && a.vf == b.vf && a.peer == b.peer

/-- The records that an engine holds, released or not (R364). -/
def Engine.runs (x : Engine) : List Running := x.executing.toList ++ x.units

/-- Every access of a context, or of a partition for a stage-2 unit, that waits for a page (R304). -/
def waiters (s : State) (ctx : CtxId) (a : Absent) : Nat :=
  let mine := fun (c : CtxId) => c == ctx || (a.vf.isSome && vfPart? s c == a.vf)
  let ents := s.cores.flatMap (fun e => e.2.parked ++ e.2.sidelog ++ e.2.sideLate) ++
    s.ctxs.flatMap (fun e => e.2.coppiced.flatMap (fun c => c.2.parked ++ c.2.sidelog))
  (ents.filter (fun e => mine e.ctx && e.away.same a)).length +
  (s.strands.filter (fun e => match e.2.wait with
    | .cond (.parkRoom _ _ x) _ => x.same a && ((taskOfGroup? s (e.1 / 32)).map (fun t => mine t.2.ctx)).getD false
    | .cond (.fetchRoom _ x) _ => x.same a && ((taskOfGroup? s (e.1 / 32)).map (fun t => mine t.2.ctx)).getD false
    | _ => false)).length +
  ((s.queues.flatMap (fun e => e.2.copies)).filter
    (fun c => mine c.ctx && (c.stopped.map (fun x => x.same a)).getD false)).length +
  ((s.engines.flatMap (fun e => e.2.runs)).filter
    (fun r => mine r.record.ctx && (r.stopped.map (fun x => x.same a)).getD false)).length +
  ((s.calls.map (·.2)).filter (fun c => mine c.ctx && (c.absent.map (fun x => x.same a)).getD false)).length

/-- Queues a page request for a unit that no access was waiting for (R304); a stage-2 miss goes to the queue of its
virtual function (R307), of a partition with several to that of the lowest number (R282 says 'that virtual function'; DESIGN CHOICE:
log 99). To be made before the access itself is entered as waiting. -/
def requestPage (s : State) (ctx : CtxId) (a : Absent) (access : Access) : State :=
  if !a.ask || waiters s ctx a ≠ 0 then s
  else
    let r : PageReq := ⟨a.unit, a.reason, access, ctx, a.dest, a.peer⟩
    match a.vf with
    | none => modCtx s ctx (fun c => { c with pageQ := c.pageQ ++ [r] })
    | some p =>
      let fn := ((List.range 64).find? (fun n => ((AMap.get? s.parts p).map (fun q => q.vfs.getLsbD n)).getD false)).getD 0
      modWindow s (BitVec.ofNat 6 fn) (fun w => { w with pageQ := w.pageQ ++ [r] })

/-! ## Messages (R230 to R236, R434) -/

def kReq : BitVec 4 := 0x0
def kReply : BitVec 4 := 0x1
def kFull : BitVec 4 := 0x2
def kNoctx : BitVec 4 := 0x3
def kSoft : BitVec 4 := 0x4
def kTrap : BitVec 4 := 0x5
def kPagereq : BitVec 4 := 0x6
def kUnbound : BitVec 4 := 0x7
def kLaunch : BitVec 4 := 0x8
def kPleach : BitVec 4 := 0x9
def kSystem : BitVec 4 := 0xA

/-- The KIND of an identifier (R231). -/
def kindOf (id : Word) : BitVec 4 := id.extractLsb' 28 4

/-- An identifier with another KIND and the CORE and SEQ of a request (R236, R237). -/
def withKind (id : Word) (k : BitVec 4) : Word := k ++ id.extractLsb' 0 28

/-- A new identifier of a core (R434). For the service processor R434 lists no origin: CORE is 0xFF and SEQ[19] is 1, which no
other identifier has, before its counter (DESIGN CHOICE: log 48). -/
def newId (s : State) (c : Nat) (k : BitVec 4) : State × Word :=
  let n := (coreAt s c).idCount
  (modCore s c (fun x => { x with idCount := n + 1 }),
    if c < 256 then k ++ BitVec.ofNat 8 c ++ 0#1 ++ n else k ++ 0xFF#8 ++ 1#1 ++ n)

/-- A new identifier of an origin on the I/O die (R434). -/
def dieId (k : BitVec 4) (origin : Nat) (n : BitVec 12) : Word := k ++ 0#8 ++ 1#1 ++ BitVec.ofNat 7 origin ++ n

/-- A context's partition, if the context exists. -/
def partOf? (s : State) (c : CtxId) : Option Nat := (ctxAt? s c).map (·.part)

/-- Puts a message on its way (R371). -/
def inject (s : State) (m : Message) : State := { s with mesh := s.mesh ++ [m] }

/-- A message of the part, which a core sends, for a context's supervisor on that core, on the SYS network (R257 and R242 name no
core; DESIGN CHOICE: log 21). -/
def supvMessage (core : Nat) (ctx : CtxId) (id : Word) (a0 a1 : DWord) (trap : Option TrapRec) (serial : Nat) :
    Message :=
  { kind := .task, dw := Config.partWord id, peer := none, core := BitVec.ofNat 8 core, ctx := ctx, slot := 0, supv := true, vnet := .sys,
    origin := ⟨none, BitVec.ofNat 8 core, ctx, none⟩, id := id, a0 := a0, a1 := a1, payload := [], trap := trap,
    serial := serial, agent := .core (BitVec.ofNat 8 core) }

/-- Sends a TRAP message for a record to the supervisor of a context (R257); 0 for a report that holds no work
back. -/
def sendTrap (s : State) (core : Nat) (ctx : CtxId) (r : TrapRec) (serial : Nat) : State :=
  let p := newId s core kTrap
  inject p.1 (supvMessage core ctx p.2 r.value (r.pc.setWidth 64) (some r) serial)

/-- Reports a deferred fault that no release raises (R38). -/
def reportDeferred (s : State) (core : Nat) (ctx : CtxId) (d : Deferred) (strand : BitVec 9) (msg task : Word) :
    State :=
  sendTrap s core ctx ⟨true, d.cause, 0, d.value, strand, msg, task⟩ 0

/-- An interrupt to the host: the function's MSI-X vector (R397). -/
def msix (s : State) (fn vector : Nat) : State :=
  let n := AMap.getD s.mgmt.msix (fn * 4 + vector) 0 + 1
  { s with mgmt := { s.mgmt with msix := AMap.put s.mgmt.msix (fn * 4 + vector) n } }

/-- A write to the host's memory. It is held where the address is one of the host extents of the device-physical space;
other memory of the host is no part of the model (DESIGN CHOICE: log 19). -/
def writeHost (s : State) (a : Nat) (bs : List Byte) : State :=
  if plainMem a && plainMem (a + bs.length - 1) then perform s a bs else s

/-- The bytes of a record of the error-record ring (the layout is the model's, DESIGN CHOICE: log 34). -/
def errorBytes : ErrRecord → List Byte
  | .trap ctx r =>
    bytesOf 4 1 ++ bytesOf 4 ctx.toNat ++ bytesOf 4 r.cause.toNat ++ bytesOf 4 r.strand.toNat ++ bytesOf 8 r.pc.toNat ++
      bytesOf 8 r.value.toNat ++ bytesOf 4 r.msg.toNat ++ bytesOf 4 r.task.toNat ++ bytesOf 4 (if r.deferred then 1 else 0)
  | .page ctx va lost =>
    bytesOf 4 2 ++ bytesOf 4 ctx.toNat ++ bytesOf 8 va ++ bytesOf 4 lost.length ++ (lost.take 24).flatMap (bytesOf 4)
  | .part line => bytesOf 4 3 ++ bytesOf 4 0 ++ bytesOf 8 (line * 128)
  | .need ctx n => bytesOf 4 4 ++ bytesOf 4 ctx.toNat ++ bytesOf 8 n

/-- A record for the error-record ring, whose entries have 128 bytes, signalled by MSI-X vector 2 of the PF (R258, R405). -/
def errorRecord (s : State) (r : ErrRecord) : State :=
  let g := s.mgmt.errRing
  let i := s.mgmt.errOut.length % 2 ^ (g.toNat % 16)
  let s1 := writeHost s (g.toNat / 4096 * 4096 + i * 128) ((errorBytes r ++ List.replicate 128 0).take 128)
  msix { s1 with mgmt := { s1.mgmt with errOut := s1.mgmt.errOut ++ [r] } } 0 2

/-! ## Loads into registers and lock bits (R183, R187 to R190) -/

/-- Bytes of an access by its size code (R173). -/
def sizeOf (z : BitVec 3) : Nat := match z.toNat with | 0 => 1 | 1 => 1 | 2 => 2 | 3 => 2 | 4 => 4 | 5 => 8 | _ => 16

/-- The register words of a loaded value (R183): bytes and halfwords extended by the size code, pairs and quads in
ascending words. -/
def loadWords (z : BitVec 3) (bs : List Byte) : List Word :=
  let v := natOfBytes bs
  match z.toNat with
  | 0 => [BitVec.ofNat 32 v]
  | 1 => [(BitVec.ofNat 8 v).signExtend 32]
  | 2 => [BitVec.ofNat 32 v]
  | 3 => [(BitVec.ofNat 16 v).signExtend 32]
  | 4 => [BitVec.ofNat 32 v]
  | 5 => wordsOf 2 v
  | _ => wordsOf 4 v

/-- The bytes that a store writes from registers (R184). -/
def storeBytes (s : State) (k : Nat) (d : SReg) (z : BitVec 3) : List Byte :=
  let n := sizeOf z
  bytesOf n (natOfWords (getRegs s k d ((n + 3) / 4)))

/-- A waiting strand gets a lock bit, which the caller has recorded as its: its LLK completes with its load (R188). -/
def grantLock (s : State) (bit k : Nat) : State :=
  match (strandAt s k).wait with
  | .lock _ cl a d z =>
    let s := setRegs s k d (loadWords z (winBytes s cl a (sizeOf z)))
    modStrand s k (fun t => { t with wait := .run, locks := t.locks ++ [bit], pc := t.pc + 4 })
  | _ => s

/-- The strands in the queue of a bank: those that wait for its 64 bits (R188). -/
def bankQueue (s : State) (bank : Nat) : Nat :=
  ((s.locks.filter (fun e => e.1 / 64 == bank)).map (fun e => e.2.queue.length)).sum

/-- A waiting strand joins the queue of its bank, or takes its bit when that has become free (R188). -/
def joinLock (s : State) (k : Nat) : State :=
  match (strandAt s k).wait with
  | .lock bit .. =>
    match AMap.get? s.locks bit with
    | none => grantLock { s with locks := AMap.put s.locks bit ⟨k, []⟩ } bit k
    | some lb => { s with locks := AMap.put s.locks bit { lb with queue := lb.queue ++ [k] } }
  | _ => s

/-- While the queue of a bank has places, the strands that found it full join it in the order of their first attempts
(R188). -/
def joinLate (bank : Nat) : Nat → State → State
  | 0, s => s
  | n + 1, s =>
    match (coreAt s bank).lockLate with
    | [] => s
    | k :: r =>
      if bankQueue s bank < 32 then joinLate bank n (joinLock (modCore s bank (fun c => { c with lockLate := r })) k) else s

/-- A lock bit becomes free and passes to the first strand that waits for it, whose LLK completes with its load (R188,
R189). -/
def releaseLock (s : State) (bit : Nat) : State :=
  match AMap.get? s.locks bit with
  | none => s
  | some lb =>
    match lb.queue with
    | [] => { s with locks := AMap.erase s.locks bit }
    | k :: q => joinLate (bit / 64) 512 (grantLock { s with locks := AMap.put s.locks bit ⟨k, q⟩ } bit k)

/-- The bank that a strand waits at for a lock bit. -/
def lockBank? (t : Strand) : Option Nat :=
  match t.wait with
  | .lock bit .. => some (bit / 64)
  | _ => none

/-- Strands leave the queues that they wait in, all of them before any other strand takes a place that this frees (R190,
R312). -/
def leaveLocks (s : State) (ks : List Nat) : State :=
  let banks := (ks.filterMap (fun k => lockBank? (strandAt s k))).eraseDups
  if banks.isEmpty then s else
    let s1 := { s with
      locks := s.locks.map (fun e => (e.1, { e.2 with queue := e.2.queue.filter (fun x => !ks.contains x) })) }
    banks.foldl (fun s b =>
      joinLate b 512 (modCore s b (fun c => { c with lockLate := c.lockLate.filter (fun x => !ks.contains x) }))) s1

/-- Every lock bit of a strand is freed (R190). -/
def dropLocks (s : State) (k : Nat) : State :=
  let held := (strandAt s k).locks
  held.foldl releaseLock (modStrand s k (fun t => { t with locks := [] }))

/-! ## Barriers (R427) -/

/-- Every unexited strand of a list of strands, given with their indices, has arrived. -/
def arrivedAll (b : Barrier) (uid : Nat) (sts : List (Nat × Strand)) : Bool :=
  sts.all (fun e => e.2.wait == .exited || b.arrived.contains (uid, e.1))

/-- The strands of a task with their strand indices. -/
def indexedStrands (s : State) (t : Task) : List (Nat × Strand) :=
  (strandsOfTask t).map (fun k => ((strandIx s k).toNat, strandAt s k))

/-- The strands of the task with a model number, on a core or coppiced. -/
def memberStrands (s : State) (uid : Nat) : List (Nat × Strand) :=
  match taskByUid? s uid with
  | some (_, t) => indexedStrands s t
  | none => ((s.ctxs.flatMap (fun e => e.2.coppiced)).filter (fun e => e.1 == uid)).flatMap (fun e => e.2.strands)

/-- Whether the generation completes: strands have arrived in it, and every group of every member has arrived or has exited. A
generation in which nobody has arrived stays, though the groups of its members exit (R427, R429; DEDUCED: log 10). -/
def barrierFull (s : State) (b : Barrier) : Bool :=
  !b.arrived.isEmpty && b.members.all (fun uid => arrivedAll b uid (memberStrands s uid))

/-- The next generation. -/
def Barrier.next (b : Barrier) : Barrier := { b with arrived := [], generation := b.generation + 1 }

/-- Whether a strand waits at a barrier for a generation that has passed. -/
def barrierPassed (cl : Bool) (z : BitVec 4) (g : Word) (t : Strand) : Bool :=
  match t.wait with
  | .barrier c z' a => c == cl && z' == z && a != g
  | _ => false

/-- Releases the strands, of those that p holds of, which wait at a barrier whose generation has passed theirs. -/
def barrierRelease (s : State) (cl : Bool) (z : BitVec 4) (g : Word) (p : Nat → Bool) : State :=
  { s with strands := s.strands.map (fun e =>
      if p e.1 && barrierPassed cl z g e.2 then (e.1, { e.2 with wait := .run, pc := e.2.pc + 4 }) else e) }

/-- Whether a strand belongs to a task on a core of the cluster. -/
def onCluster (cluster k : Nat) : Bool := coreOfStrand k / 8 == cluster

/-- Completes a cluster barrier if its generation is full. -/
def checkClusterBar (s : State) (cluster : Nat) (z : BitVec 4) : State :=
  match AMap.get? (clusterAt s cluster).bars z.toNat with
  | none => s
  | some b =>
    if barrierFull s b then
      let s := modCluster s cluster (fun c => { c with bars := AMap.put c.bars z.toNat b.next })
      barrierRelease s true z b.next.generation (onCluster cluster)
    else s

/-- Completes a task barrier if its generation is full. -/
def checkTaskBar (s : State) (tk : Nat) (z : BitVec 4) : State :=
  match AMap.get? s.tasks tk with
  | none => s
  | some t =>
    match AMap.get? t.bars z.toNat with
    | none => s
    | some b =>
      if barrierFull s b then
        let s := modTask s tk (fun t => { t with bars := AMap.put t.bars z.toNat b.next })
        barrierRelease s false z b.next.generation (strandsOfTask t).contains
      else s

/-- Every barrier of a cluster and of a task is looked at again, after strands have exited (DEDUCED: log 10). -/
def checkBars (s : State) (cluster : Nat) (tk : Nat) : State :=
  let s := (((clusterAt s cluster).bars).map (·.1)).foldl (fun s z => checkClusterBar s cluster (BitVec.ofNat 4 z)) s
  match AMap.get? s.tasks tk with
  | none => s
  | some t => (t.bars.map (·.1)).foldl (fun s z => checkTaskBar s tk (BitVec.ofNat 4 z)) s

/-- A barrier without a member and its arrivals. -/
def Barrier.without (b : Barrier) (uid : Nat) : Barrier :=
  { b with members := b.members.filter (fun u => u != uid), arrived := b.arrived.filter (fun a => a.1 != uid) }

/-- A member leaves a cluster barrier: a generation that was waiting only for that member's groups completes (R427). -/
def leaveBar (s : State) (cluster uid : Nat) (z : Nat) : State :=
  match AMap.get? (clusterAt s cluster).bars z with
  | none => s
  | some b =>
    if b.members.contains uid then
      let rest := b.without uid
      let done := !b.arrived.isEmpty && rest.members.all (fun u => arrivedAll b u (memberStrands s u))
      let b' := if done then rest.next else rest
      let s := modCluster s cluster (fun c => { c with bars := AMap.put c.bars z b' })
      barrierRelease s true (BitVec.ofNat 4 z) b'.generation (onCluster cluster)
    else s

/-- A task leaves the barriers of its cluster (R427). -/
def leaveBars (s : State) (cluster uid : Nat) : State :=
  ((clusterAt s cluster).bars.map (·.1)).foldl (fun s z => leaveBar s cluster uid z) s

/-! ## Packets to peers (R377, R383 to R390) -/

/-- CRC-32 of bytes, polynomial 0x04C1_1DB7 (R377), taken bit by bit from the least significant. -/
def crcBit (c : BitVec 32) (b : Bool) : BitVec 32 :=
  if (c.getLsbD 0 != b) then (c >>> 1) ^^^ 0xEDB88320 else c >>> 1

def crcByte (c : BitVec 32) (b : Byte) : BitVec 32 := (List.range 8).foldl (fun c i => crcBit c (b.getLsbD i)) c

def crc32 (bs : List Byte) : BitVec 32 := ~~~(bs.foldl crcByte 0xFFFFFFFF)

/-- The VNET codes of flits (R377). -/
def VNet.code : VNet → Nat
  | .req => 0
  | .bulk => 1
  | .sys => 2
  | .reply => 3

/-- Bytes filled up with zeros to a length, or cut to it. -/
def fit (n : Nat) (bs : List Byte) : List Byte := (bs ++ List.replicate (n - bs.length) 0).take n

/-- A link flit (R377): payload, type, sequence, VNET and the acknowledgement of the reverse direction. -/
def mkFlit (ftype lseq vnet lack : Nat) (payload : List Byte) : List Byte :=
  let b := fit 128 payload ++ bytesOf 2 (ftype * 4096 + lseq) ++ bytesOf 2 (vnet * 8192 + 4096 + lack) ++ bytesOf 8 0
  b ++ bytesOf 4 (crc32 b).toNat

def portAt (s : State) (p : Nat) : Port := AMap.getD s.fab.ports p Port.init

def modPort (s : State) (p : Nat) (f : Port → Port) : State :=
  { s with fab := { s.fab with ports := AMap.put s.fab.ports p (f (portAt s p)) } }

def peerAt (s : State) (p : BitVec 10) : Peer := AMap.getD s.fab.peers p.toNat Peer.init

def modPeer (s : State) (p : BitVec 10) (f : Peer → Peer) : State :=
  { s with fab := { s.fab with peers := AMap.put s.fab.peers p.toNat (f (peerAt s p)) } }

/-- The payload of a flit waiting for a place in the replay buffer is kept with its VNET as a first byte. -/
def chunk128 : Nat → List Byte → List (List Byte)
  | 0, _ => []
  | n + 1, bs => if bs.isEmpty then [] else bs.take 128 :: chunk128 n (bs.drop 128)

/-- Eighths of a nanosecond that a flit takes at a width: 1,152 bits in stripes, at 64 Gb/s a wavelength (R378). -/
def flitTime (width : Nat) : Nat := 144 / width

/-- A new DATA flit is numbered, enters the replay buffer and goes out (R379). -/
def newFlit (rxExpect : Nat) (f : List Byte) (q : List (List Byte)) (d : LinkDir) : LinkDir :=
  { d with
    queue := q, nextSeq := (d.nextSeq + 1) % 4096, times := d.times ++ [d.freeAt], freeAt := d.freeAt + flitTime d.width
    replay := d.replay ++ [(d.nextSeq, mkFlit 1 d.nextSeq ((f.headD 0).toNat) ((rxExpect + 4095) % 4096) f.tail)] }

/-- DATA flits go out, one in each flit time, up to a fabric time: first those that a replay sends again, then new ones while the
replay buffer has places; none while the direction is dark or quiesced for a restripe (R378, R379, R381). -/
def sendFlits (rxExpect stop : Nat) : Nat → LinkDir → LinkDir
  | 0, d => d
  | n + 1, d =>
    if d.width = 0 || d.restripe.isSome || decide (stop < d.freeAt) then d
    else if d.again ≠ 0 then
      sendFlits rxExpect stop n { d with
        again := d.again - 1, times := d.times.set (d.replay.length - d.again) d.freeAt, freeAt := d.freeAt + flitTime d.width }
    else
      match d.queue with
      | [] => d
      | f :: q => if d.replay.length < 512 then sendFlits rxExpect stop n (newFlit rxExpect f q d) else d

/-- The DATA flits that a port sends from one fabric time to another; they carry LACK (R379). -/
def portFlits (start stop fuel : Nat) (x : Port) : Port :=
  let d := { x.tx with freeAt := max x.tx.freeAt start }
  let e := sendFlits x.rx.expect stop fuel d
  if e.freeAt = d.freeAt then x else { x with tx := e, idleAt := e.freeAt - flitTime e.width }

/-- A flit other than DATA goes out: it carries LACK (R377, R379). -/
def sendCtl (ftype now : Nat) (payload : List Byte) (x : Port) : Port :=
  { x with ctl := AMap.put x.ctl ftype (mkFlit ftype 0 0 ((x.rx.expect + 4095) % 4096) payload), idleAt := now }

/-- A port both of whose directions have light (R381). -/
def Port.up (x : Port) : Bool := x.tx.width != 0 && x.rx.width != 0

/-- A port sends an IDLE flit with LACK when it has sent no other flit for 100 ns (R379). -/
def idlePort (now : Nat) (x : Port) : Port :=
  if x.up && x.tx.restripe.isNone && decide (x.idleAt + 800 ≤ now) then sendCtl 0 now [] x else x

/-- Hands the flits of a packet to a port. -/
def portSend (s : State) (p : Nat) (vnet : Nat) (bytes : List Byte) : State :=
  let fl := (chunk128 (bytes.length + 1) bytes).map (fun c => BitVec.ofNat 8 vnet :: fit 128 c)
  modPort s p (fun x => portFlits s.fab.time s.fab.time 1 { x with tx := { x.tx with queue := x.tx.queue ++ fl } })

/-- A peer of the connected group; this part's own number is the local agent (R389, R407). -/
def connected (s : State) (p : BitVec 10) : Bool :=
  featureOn s 4 && (p == s.fab.self || (AMap.getD s.fab.table p.toNat 0).getLsbD 63)

/-- The usable ports toward a peer (R390). -/
def usablePorts (s : State) (p : BitVec 10) : List Nat :=
  let ports := AMap.getD s.fab.table p.toNat 0
  (List.range 32).filter (fun i => ports.getLsbD i && (portAt s i).up)

/-- The port of a packet (R390). -/
def choosePort? (s : State) (p : BitVec 10) (seq : Nat) : Option Nat :=
  let u := usablePorts s p
  if s.determActive then u[seq % u.length]?
  else u.foldl (fun b i =>
    match b with
    | none => some i
    | some j => if (portAt s i).tx.queue.length < (portAt s j).tx.queue.length then some i else some j) none

/-- The VNET of a packet kind (R384); a MSG takes its message's. -/
def pktVnet (kind : BitVec 8) (m : VNet) : Nat :=
  match kind.toNat with
  | 0x01 => m.code
  | 0x02 => 1
  | 0x03 => 0
  | 0x04 => 3
  | 0x05 => 0
  | 0x06 => 3
  | 0x0D => 3
  | _ => 2

/-- A packet: header and body (R383). -/
def mkPacket (seq : BitVec 32) (src dst : BitVec 10) (kind : BitVec 8) (oseq : BitVec 32) (body : List Byte) : List Byte :=
  bytesOf 4 seq.toNat ++ bytesOf 2 src.toNat ++ bytesOf 2 dst.toNat ++ [kind, 0] ++ bytesOf 2 body.length ++
    bytesOf 4 oseq.toNat ++ body

/-- Hands a packet to a port; with no usable port it waits for its retransmission (R390). -/
def route (s : State) (p : BitVec 10) (seq : Nat) (vnet : Nat) (bytes : List Byte) : State :=
  match choosePort? s p seq with
  | none => s
  | some i => portSend s i vnet bytes

/-- The context whose fabric bytes a packet counts among (R331). -/
def useCtx? (s : State) : PktUse → Option CtxId
  | .message m => if m.origin.peer.isSome then none else some m.origin.ctx
  | .copyWrite q _ => (queueAt s q).copies.head?.map (·.ctx)
  | .copyRead q _ => (queueAt s q).copies.head?.map (·.ctx)
  | .xreqCopy q _ => (queueAt s q).copies.head?.map (·.ctx)
  | .rop e _ _ => some e.ctx
  | .ropSt e _ => some e.ctx
  | .xreqRop e _ _ => some e.ctx
  | _ => none

/-- The body of a packet as it is numbered: a MARKER then names M, the SEQ of the newest packet before it (R388). -/
def numberedBody (x : Peer) (kind : BitVec 8) (body : List Byte) : List Byte :=
  if kind = 0x0B then body ++ bytesOf 4 (x.nextSeq - 1).toNat else body

/-- Sends a packet to a peer, on a given port or on one of R390, kept until it is acknowledged; a 4,097th waits
(R385). -/
def sendPacketOn (s : State) (port : Option Nat) (p : BitVec 10) (kind : BitVec 8) (m : VNet) (body : List Byte)
    (use : PktUse) : State :=
  let x := peerAt s p
  if 4096 ≤ x.unacked.length then modPeer s p (fun x => { x with waiting := x.waiting ++ [(kind, body, use, port)] })
  else
    let v := m.code
    let oseq := if kind = 0x01 then x.oseqOut.getD v 0 else 0
    let bytes := mkPacket x.nextSeq s.fab.self p kind oseq (numberedBody x kind body)
    let s := match useCtx? s use with
      | some ctx => addActivity s ctx 81 bytes.length
      | none => s
    let s := modPeer s p (fun x =>
      { x with nextSeq := x.nextSeq + 1,
               oseqOut := if kind = 0x01 then x.oseqOut.set v (oseq + 1) else x.oseqOut,
               unacked := x.unacked ++ [⟨x.nextSeq, kind, bytes, use, s.now, 0⟩] })
    match port with
    | some i => portSend s i (pktVnet kind m) bytes
    | none => route s p x.nextSeq.toNat (pktVnet kind m) bytes

/-- Sends a packet to a peer on a port of R390. -/
def sendPacket (s : State) (p : BitVec 10) (kind : BitVec 8) (m : VNet) (body : List Byte) (use : PktUse) : State :=
  sendPacketOn s none p kind m body use

/-! ## What is received from a peer (R385, R388) -/

/-- A SEQ already received from a peer, or too old. -/
def received (x : Peer) (q : BitVec 32) : Bool :=
  let d := (x.high - q).toNat
  decide (d < 2 ^ 31) && (decide (4096 ≤ d) || x.marks.getLsbD d)

/-- Marks a SEQ as received. -/
def markSeq (x : Peer) (q : BitVec 32) : Peer :=
  let d := (x.high - q).toNat
  if d < 2 ^ 31 then { x with marks := x.marks ||| (1#4096 <<< d) }
  else { x with high := q, marks := (x.marks <<< (2 ^ 32 - d)) ||| 1#4096 }

/-- An acknowledgement of one SEQ; it is kept for nobody. -/
def sendEack (s : State) (p : BitVec 10) (q : BitVec 32) : State :=
  route s p 0 3 (mkPacket 0 s.fab.self p 0x0D 0 (bytesOf 4 q.toNat ++ bytesOf 8 1))

/-- Sends an answer to a packet. -/
def answer (s : State) (p : BitVec 10) (kind : BitVec 8) (q : BitVec 32) (body : List Byte) : State :=
  sendPacket s p kind .sys (bytesOf 4 q.toNat ++ body) .answer

/-- Every packet of a peer with a SEQ up to M has been received, and has performed. -/
def performedTo (x : Peer) (m : BitVec 32) : Bool :=
  let d := (x.high - m).toNat
  decide (d < 2 ^ 31) && (List.range (4096 - d)).all (fun i => x.marks.getLsbD (d + i))

/-- Answers every marker of a peer whose packets have performed. -/
def answerMarkers (s : State) (p : BitVec 10) : State :=
  let x := peerAt s p
  let ready := x.markersIn.filter (fun m => performedTo x m.2.2)
  ready.foldl (fun s m => answer s p 0x0C m.1 (bytesOf 4 m.2.1.toNat))
    (modPeer s p (fun x => { x with markersIn := x.markersIn.filter (fun m => !performedTo x m.2.2) }))

/-- A message from a peer has been delivered or refused: its packet counts as received and is acknowledged (R384, R388). -/
def acked (s : State) (m : Message) : State :=
  match m.ack with
  | none => s
  | some (p, q) => answerMarkers (sendEack (modPeer s p (fun x => markSeq x q)) p q) p

/-- The header of a message in memory and in packets: destination word, origin (for a reply or refusal the origin it
returns to), identifier; then arguments and payload (R230; the layout is the model's, DESIGN CHOICE: log 13). -/
def messageBytes (m : Message) : List Byte :=
  bytesOf 8 m.dw.toNat ++
  bytesOf 4 ((m.origin.peer.getD 0).toNat + m.origin.core.toNat * 2 ^ 10 + m.origin.ctx.toNat * 2 ^ 18 +
    (if m.supv then 2 ^ 30 else 0) + (if m.origin.peer.isSome then 2 ^ 31 else 0)) ++
  bytesOf 4 m.id.toNat ++ bytesOf 8 m.a0.toNat ++ bytesOf 8 m.a1.toNat ++ m.payload.flatMap (fun w => bytesOf 8 w.toNat)

/-- A FABRIC flush: one MARKER for each peer that the core has written since its previous FABRIC release; what
follows waits for their acknowledgements (R270, R388). With no peer written it is done at once. The period of a release ends as its
markers are sent, and not as they are acknowledged: a release of another group meanwhile waits for none of them (DESIGN CHOICE:
log 98). -/
def fabricFlush (s : State) (core : Nat) (done : FabDone) : State × Bool :=
  let ps := (coreAt s core).peersWritten.filter (fun p => connected s p)
  let s := modCore s core (fun x => { x with peersWritten := [] })
  if ps.isEmpty then (s, true)
  else
    let id := s.fab.nextMarker
    let s := { s with fab := { s.fab with nextMarker := id + 1, releases := s.fab.releases ++ [⟨id, core, ps, done⟩] } }
    (ps.foldl (fun s p =>
      let ports := if (usablePorts s p).isEmpty then [none] else (usablePorts s p).map some
      ports.foldl (fun s i => sendPacketOn s i p 0x0B .sys (bytesOf 4 id) (.marker core id)) s) s, false)

/-! ## Refusals, and the ends of work (R41, R123, R236, R244, R355) -/

/-- The refusal of a message: on the REPLY network to the origin core and context, at slot RSLOT, with the arguments
and payload refused and an identifier of the refusal's KIND (R236). -/
def refusal (m : Message) (kind : BitVec 4) : Message :=
  { m with
    peer := m.origin.peer, core := m.origin.core, ctx := m.origin.ctx, slot := m.dw.extractLsb' 8 6, supv := false,
    vnet := .reply, id := withKind m.id kind, trap := none, serial := 0, agent := .core m.core, seat := none, landed := false,
    ack := none }

/-- The body of a MSG packet: a reply names the core and context that it returns to in the place of its origin (DESIGN CHOICE: log 13). -/
def packetBody (m : Message) : List Byte :=
  messageBytes (if m.vnet = .reply then { m with origin := { m.origin with core := m.core, ctx := m.ctx } } else m)

/-- A message as it goes into the mesh: this part's own number is this part (R389). -/
def Message.local (m : Message) (self : BitVec 10) : Message := if m.peer = some self then { m with peer := none } else m

/-- Sends a message on its way: into the mesh, to its receiver, or to the message router for a peer (R371, R389). -/
def sendOut (s : State) (m : Message) : State := inject s (m.local s.fab.self)

/-- Sends a message back to its origin as a refusal; that of a message from a peer is so delivered (R236, R384). -/
def refuseMessage (s : State) (m : Message) (kind : BitVec 4) : State := acked (sendOut s (refusal m kind)) m

/-- A decrement of a predecessor counter; one at zero stays zero (R227). -/
def decCounter (s : State) (i : Option Nat) : State :=
  match i with
  | none => s
  | some i =>
    let v := Sparse.read s.pcs i
    if v = 0 then s else { s with pcs := Sparse.write s.pcs i (v - 1) }

/-- The completion of a launch after its release: the counters, then the token (R244). -/
def launchFinish (s : State) (id : Nat) : State :=
  match AMap.get? s.launches id with
  | none => s
  | some l =>
    let s := { s with launches := AMap.erase s.launches id }
    tokenUpdate (decCounter (decCounter s l.dec0) l.dec1) l.tok false

/-- A copy with a PEER destination that a core had queued up to a cycle has not completed (R244, R270). -/
def peerCopiesOut (s : State) (core before : Nat) : Bool :=
  s.queues.any (fun q => q.2.copies.any (fun c =>
    c.core == core && c.shape.extractLsb' 3 3 == 4 && decide (c.since ≤ before)))

/-- The release that a completing launch performs on its issuing core, and what follows (R244). At FABRIC scope it waits for the
core's PEER copies first (R270). -/
def launchComplete (s : State) (id : Nat) : State :=
  match AMap.get? s.launches id with
  | none => s
  | some l =>
    match l.rel.toNat with
    | 0 => launchFinish s id
    | 1 => launchFinish (publish s l.core) id
    | _ =>
      let at_ := l.doneAt.getD s.now
      if peerCopiesOut s l.core at_ then { s with launches := AMap.put s.launches id { l with doneAt := some at_ } }
      else
        let r := fabricFlush (publish { s with launches := AMap.put s.launches id { l with doneAt := none } } l.core) l.core (.launchEnd id)
        if r.2 then launchFinish r.1 id else r.1

/-- Launches whose release waits for PEER copies go on once those have completed (R244). -/
def launchesGo (s : State) : State :=
  (s.launches.filter (fun e => e.2.doneAt.isSome)).foldl (fun s e => launchComplete s e.1) s

/-- One task of a launch has ended and its own release is done. -/
def launchTaskDone (s : State) (id : Nat) : State :=
  match AMap.get? s.launches id with
  | none => s
  | some l =>
    let s := { s with launches := AMap.put s.launches id { l with left := l.left - 1 } }
    if l.left ≤ 1 then launchComplete s id else s

/-- A task of a launch ends on a core (R244). -/
def launchTaskEnded (s : State) (id core : Nat) : State :=
  match AMap.get? s.launches id with
  | none => s
  | some l =>
    match l.rel.toNat with
    | 0 => launchTaskDone s id
    | 1 => launchTaskDone (publish s core) id
    | _ =>
      let r := fabricFlush (publish s core) core (.launchTask id)
      if r.2 then launchTaskDone r.1 id else r.1

/-- Puts a coppiced task into its cluster's re-admission queue (R316). -/
def queueReadmit (s : State) (cluster : ClusterId) (uid : Nat) : State :=
  modCluster s cluster.toNat (fun c => if c.readmit.contains uid then c else { c with readmit := c.readmit ++ [uid] })

/-- Tasks coppiced under R125 whose counters read zero enter the re-admission queue (R316). -/
def forkReady (s : State) : State :=
  (s.ctxs.flatMap (fun e => e.2.coppiced)).foldl (fun s c =>
    match c.2.fork with
    | some a => if Mem.nat s.cluwin a 4 = 0 && !c.2.frameAbsent then queueReadmit s c.2.cluster c.1 else s
    | none => s) s

/-- Subtracts 1 from a fork counter at its home bank (R123). -/
def forkDecrement (s : State) (addr : Nat) : State :=
  let v := Mem.nat s.cluwin addr 4
  forkReady (winWrite s true addr (bytesOf 4 (v + 2 ^ 32 - 1)))

/-- The counter of an ended forked task: at its home cluster at once, from another by a SYS message (R123). -/
def forkEnded (s : State) (f : ForkImage) (core : Nat) : State :=
  if clusterOfCore core = f.home.toNat then forkDecrement s f.off
  else
    inject s { supvMessage (f.home.toNat * 8) f.ctx f.id 0 0 none 0 with
      kind := .forkDone f.home f.off, supv := false,
      origin := ⟨none, BitVec.ofNat 8 core, f.ctx, none⟩, agent := .core (BitVec.ofNat 8 core) }

/-- Work that is held for a trap's supervisor is discarded (R41). -/
def discardWork (s : State) (core : Nat) (w : Work) : State :=
  match w with
  | .message m => if kindOf m.id = kReq then refuseMessage s m kSoft else s
  | .launch i => launchTaskEnded s i.launch core
  | .fork f => forkEnded s f core
  | .pleach .. => s
  | .service .. => s

/-- The entries of a list of held work, and of all mailboxes and deques, that wait for a trap's supervisor task. -/
def heldBy (serial : Nat) (h : Held) : Bool := h.heldFor == some serial

/-- Takes the work held for a trap out of a map of queues, or lets it start. -/
def freeHeld (serial : Nat) (discard : Bool) (m : AMap (List Held)) : AMap (List Held) :=
  m.map (fun e => (e.1,
    if discard then e.2.filter (fun h => !heldBy serial h)
    else e.2.map (fun h => if heldBy serial h then { h with heldFor := none } else h)))

/-- The supervisor task for a trap has ended: the returned work starts again, or it is discarded (R41, R355). -/
def settleTrap (s : State) (serial : Nat) (discard : Bool) : State :=
  if serial = 0 then s else
    let found := s.cores.flatMap (fun c =>
      (((c.2.mbox ++ c.2.deque).flatMap (·.2)).filter (heldBy serial)).map (fun h => (c.1, h.work)))
    let s := { s with
      cores := s.cores.map (fun c => (c.1, { c.2 with mbox := freeHeld serial discard c.2.mbox,
                                                      deque := freeHeld serial discard c.2.deque })),
      pl := { s.pl with
        entries := s.pl.entries.map (fun e => (e.1,
          if e.2.issued = some (.trapped serial) then
            { e.2 with issued := some (if discard then .trapped 0 else .restart) }
          else e.2)) } }
    if discard then found.foldl (fun s w => discardWork s w.1 w.2) s else s

/-! ## The end of a task's life on a core (R32, R36, R38) -/

/-- Registers of a group and of its strands are gone. -/
def clearGroupRegs (s : State) (g : Nat) : State :=
  { s with rf :=
      { s.rf with
        s := AMap.clear s.rf.s (g * 2048) (g * 2048 + 2048), p := AMap.clear s.rf.p (g * 32) (g * 32 + 32),
        g := AMap.clear s.rf.g (g * 32) (g * 32 + 32), h := AMap.clear s.rf.h (g * 8) (g * 8 + 8),
        j := AMap.clear s.rf.j (g * 8) (g * 8 + 8), k := AMap.clear s.rf.k (g * 16) (g * 16 + 16),
        hold := AMap.clear s.rf.hold (g * 131072) (g * 131072 + 131072) } }

/-- Frees a task's slots and its window run, and everything of it on the core is gone (R32, R36). -/
def removeTask (s : State) (tk : Nat) (t : Task) : State :=
  let s := t.groups.foldl clearGroupRegs s
  { s with
    strands := t.groups.foldl (fun m g => AMap.clear m (g * 32) (g * 32 + 32)) s.strands
    groups := t.groups.foldl (fun m g => AMap.erase m g) s.groups
    tasks := AMap.erase s.tasks tk
    tags := AMap.clear s.tags (tk * 4096) (tk * 4096 + 4096) }

/-- The first deferred fault of each strand of a task that has one is reported (R38). -/
def reportTaskFaults (s : State) (tk : Nat) (t : Task) : State :=
  (indexedStrands s t).foldl (fun s e =>
    match e.2.deferred with
    | [] => s
    | d :: _ => reportDeferred s (tk / 32) t.ctx d (BitVec.ofNat 9 e.1) t.msgId t.taskId) s

/-- Puts work back where it was taken from, to wait for a trap's supervisor task (R41, R124, R355). A fork goes back into the
deque of the core it ran on even when that holds its 32 entries (R119): the spec does not say what a full deque does (DESIGN
CHOICE: log 88). -/
def returnWork (s : State) (core fromCore : Nat) (ctx : CtxId) (w : Work) (serial : Nat) : State :=
  let h : Held := ⟨w, s.now, some serial⟩
  match w with
  | .message _ | .launch _ =>
    modCore s fromCore (fun c => { c with mbox := AMap.put c.mbox ctx.toNat (h :: AMap.getD c.mbox ctx.toNat []) })
  | .fork _ =>
    modCore s core (fun c => { c with deque := AMap.put c.deque ctx.toNat (AMap.getD c.deque ctx.toNat [] ++ [h]) })
  | .pleach e .. =>
    { s with pl := { s.pl with entries := AMap.modify s.pl.entries e.toNat (fun x => { x with issued := some (.trapped serial) }) } }
  | .service .. => s

/-- A trapped supervisor's starting message (R258). -/
def supvTrapped (s : State) (core : Nat) (m : Message) : State :=
  if kindOf m.id = kTrap then settleTrap s m.serial true
  else if kindOf m.id = kPagereq then
    let ctx : CtxId := m.a1.extractLsb' 32 12
    let reason : Reason := match (m.a1.extractLsb' 28 4).toNat with
      | 1 => .unmapped | 2 => .unbacked | 3 => .noframe | _ => .badframe
    let access : Access := match (m.a1.extractLsb' 24 4).toNat with
      | 1 => .read | 2 => .write | 3 => .atomic | 4 => .fetch | 5 => .copy | 6 => .drain | 7 => .privet | _ => .none
    let peer := if m.a1.getLsbD 53 then some (m.a1.extractLsb' 54 10) else none
    modCtx s ctx (fun c => { c with pageQ := ⟨m.a0.toNat, reason, access, ctx, m.ctx, peer⟩ :: c.pageQ,
                                    pageQNot := s.now + 2 ^ 20 })
  else if kindOf m.id = kUnbound then
    modCore s core (fun c => { c with unbound := AMap.put c.unbound (m.ctx.toNat * 64 + (m.a0.toNat % 64)) s.now })
  else s

/-- Copy queues that an error on a token of a task has halted go on: no TSET of a task that has gone can free them (DEDUCED: log 28). -/
def freeHalts (s : State) (uid : Nat) : State :=
  { s with queues := s.queues.map (fun e =>
      (e.1, if (e.2.halted.map (fun r => r.uid == uid)).getD false then { e.2 with halted := none } else e.2)) }

/-- The task of a token still lives, on a core or off it. -/
def tokLives (s : State) (r : TokRef) : Bool :=
  (taskByUid? s r.uid).isSome || s.ctxs.any (fun c => (AMap.get? c.2.coppiced r.uid).isSome)

/-- A task that a pre-emption has saved and that is not yet back on a core (R332). -/
def savedOff (s : State) (uid : Nat) : Bool := s.ctxs.any (fun c => ((AMap.get? c.2.coppiced uid).map (·.saved)).getD false)

/-- Everything of a trapped task but its record and its work: lock bits, parked accesses and held messages are gone,
barriers are left, deferred faults are reported (R36, R38, R302). -/
def abortTask (s : State) (tk : Nat) (t : Task) : State :=
  let core := tk / 32
  let s := reportTaskFaults s tk t
  let s := (strandsOfTask t).foldl dropLocks (leaveLocks s (strandsOfTask t))
  let s := modCore s core (fun c => { c with parked := c.parked.filter (fun e => e.uid != t.uid) })
  let s := freeHalts (removeTask s tk t) t.uid
  leaveBars s (clusterOfCore core) t.uid

/-- Taking a trap (R40, R41, R257, R258): the task with the key tk stops and its state is discarded. A TRAP message
goes to its context's supervisor and the work that started it waits for that supervisor's task; for a supervisor task
or one of the service processor the record goes to the error-record ring instead (DEDUCED: log 36). -/
def takeTrap (s : State) (tk : Nat) (cause : BitVec 8) (value : DWord) (pc : VAddr) (strand : BitVec 9) : State :=
  match AMap.get? s.tasks tk with
  | none => s
  | some t =>
    let core := tk / 32
    let r : TrapRec := ⟨false, cause, pc, value, strand, t.msgId, t.taskId⟩
    let service := match t.work with | .service .. => true | _ => false
    if t.supv || service then
      let s := errorRecord s (.trap t.ctx r)
      let s := abortTask s tk t
      match t.work with
      | .message m => supvTrapped s core m
      | _ => s
    else
      let serial := s.serial
      let s := { s with serial := serial + 1 }
      let s := abortTask s tk t
      let s := returnWork s core t.fromCore t.ctx t.work serial
      sendTrap s core t.ctx r serial

def cILLEGAL : BitVec 8 := 0x01
def cPRIV : BitVec 8 := 0x02
def cALIGN : BitVec 8 := 0x03
def cWINDOW : BitVec 8 := 0x04
def cPROT : BitVec 8 := 0x05
def cREVOKED : BitVec 8 := 0x06
def cSENDQ : BitVec 8 := 0x07
def cLOCKLIM : BitVec 8 := 0x08
def cBUDGET : BitVec 8 := 0x09
def cDATAERR : BitVec 8 := 0x0A
def cCAPFAULT : BitVec 8 := 0x0B
def cSLOTFAULT : BitVec 8 := 0x0C
def cBKPT : BitVec 8 := 0x0D
def cTRAPI : BitVec 8 := 0x0E
def cJOINFAULT : BitVec 8 := 0x0F
def cFABRIC : BitVec 8 := 0x10
def cARITH : BitVec 8 := 0x11

/-- The issuing task traps at the instruction that issues, on account of a strand of it (R40). -/
def raiseTrap (s : State) (cause : BitVec 8) (value : DWord) (k : Nat) : State :=
  match issuer? s with
  | none => s
  | some (tk, _) => takeTrap s tk cause value s.issue.pc (strandIx s k)

/-- As `raiseTrap`, naming the lowest-numbered strand of S (R200, R230). -/
def raiseFirst (s : State) (cause : BitVec 8) (value : DWord) : State := raiseTrap s cause value (firstActive s)

/-- The fault that the strand's next release raises: the earliest deferred one of the lowest-numbered strand of S that
has any (R268, R433). -/
def deferredOf? (s : State) : Option (Nat × Deferred) :=
  (active s).findSome? (fun k => ((strandAt s k).deferred.head?).map (fun d => (k, d)))

/-- A release raises a deferred fault, which clears every deferred fault of the strand (R433). -/
def raiseDeferred (s : State) (k : Nat) (d : Deferred) : State :=
  raiseTrap (modStrand s k (fun t => { t with deferred := [] })) d.cause d.value k

/-- A deferred fault of the strand of a task: kept for its next release, or reported when the task has gone (R433,
R38). -/
def deferFault (s : State) (core : Nat) (e : Entry) (d : Deferred) : State :=
  match (taskByUid? s e.uid).bind (fun t => strandByIx? t.2 e.strand) with
  | some k => modStrand s k (fun t => { t with deferred := t.deferred ++ [d] })
  | none => reportDeferred s core e.ctx d e.strand e.msgId e.taskId

/-! ## Parked groups (R299 to R301) -/

/-- Whether a strand still waits for its parked access, or for places in a table. -/
def faultWaiting (t : Strand) : Bool :=
  match t.wait with
  | .fault => true
  | .cond (.parkRoom ..) _ => true
  | .cond (.fetchRoom ..) _ => true
  | _ => false

/-- A group whose parked accesses have all completed issues again (R301). -/
def unparkGroup (s : State) (g : Nat) : State :=
  if (strandsOfGroup g).any (fun k => faultWaiting (strandAt s k)) then s
  else modGroup s g (fun x => { x with parked := none })

/-- Parks a group at an instruction; its park time starts at its first park (R299). -/
def parkGroup (s : State) (g : Nat) : State :=
  modGroup s g (fun x => { x with parked := some (x.parked.getD s.now) })

/-- Enters an entry as it is, its ORDER included, behind those that the core holds. -/
def putEntry (s : State) (core : Nat) (side : Bool) (e : Entry) : State :=
  modCore s core (fun c =>
    let e := { e with key := c.made }
    if side then { c with sidelog := c.sidelog ++ [e], made := c.made + 1 }
    else { c with parked := c.parked ++ [e], made := c.made + 1 })

/-- Enters a new parked-access entry or side-log entry, with the core's count of entries made as its ORDER (R300). -/
def addEntry (s : State) (core : Nat) (side : Bool) (e : Entry) : State :=
  modCore (putEntry s core side { e with order := (coreAt s core).order }) core (fun c => { c with order := c.order + 1 })

/-- Saved side-log entries that wait for places enter the side log as far as it has room. -/
def admitLate (s : State) (core : Nat) : State :=
  let room := 256 - (coreAt s core).sidelog.length
  ((coreAt s core).sideLate.take room).foldl (fun s e => putEntry s core true e)
    (modCore s core (fun c => { c with sideLate := c.sideLate.drop room }))

/-- The side-log entries of a strand. -/
def sideOf (s : State) (core uid : Nat) (strand : BitVec 9) : List Entry :=
  (coreAt s core).sidelog.filter (fun e => e.uid == uid && e.strand == strand)

/-! ## Accesses outside plain memory (R277) -/

/-- An access to a physical address that is neither plain memory nor the peer table stops: a device register by a
refusal, a reserved address by a fault (DEDUCED: log 69). -/
def paStop? (pa : Nat) : Option (Out State) :=
  if plainMem pa || peerTable pa then none
  else if 0xF0000000000 ≤ pa ∧ pa < 0x100000000000 then some (.refused (.deviceRegister pa))
  else some (.fault (.noSuchAddress pa))

/-- The first stop among some addresses. -/
def paStops? (pas : List Nat) : Option (Out State) := pas.findSome? paStop?

/-- A context just made: nothing bound, nothing placed (R401, R24). -/
def Ctx.fresh (part : Nat) : Ctx :=
  { part := part, binds := [], parkLim := 50000, budget := 0x01000000, budgetCfg := 0, vtBase := 0, vtCycles := 0,
    vtFrozen := false, clusters := [], ovfBase := 0, ovfLog := 10, ovf := [], ovfIndex := 0, routerHeld := [],
    pageQ := [], pageQNot := 0, coppiceList := 0, noframeAt := none, coppiced := [], launchPlace := Placement.init,
    expiries := 0, capBase := 0, imageBase := 0, imageSize := 0, wallOff := 0, logIndex := 0,
    sliceCycles := 0, activity := [], plan := none, allocs := [], stuck := false }

/-! ## Operand memory (R216, R361, R369) -/

/-- Writes bytes of a cluster's operand memory; a word written has no error left (DEDUCED: log 38). -/
def opWrite (s : State) (cluster a : Nat) (bs : List Byte) : State :=
  if bs.isEmpty then s else
    { s with opmem := Mem.setBytes s.opmem (cluster * 2 ^ 22 + a) bs,
             badOps := AMap.clear s.badOps (cluster * 2 ^ 19 + a / 8) (cluster * 2 ^ 19 + (a + bs.length - 1) / 8 + 1) }

/-- Zeroes a range of a cluster's operand memory. -/
def opZero (s : State) (cluster a n : Nat) : State :=
  { s with opmem := AMap.clear s.opmem (cluster * 2 ^ 22 + a) (cluster * 2 ^ 22 + a + n),
           badOps := AMap.clear s.badOps (cluster * 2 ^ 19 + a / 8) (cluster * 2 ^ 19 + (a + n) / 8) }

/-- Reads bytes of a cluster's operand memory, and whether a word of them has an error (R369). -/
def opRead (s : State) (cluster a n : Nat) : List Byte × Bool :=
  (Mem.bytes s.opmem (cluster * 2 ^ 22 + a) n,
    n != 0 && !(AMap.between s.badOps (cluster * 2 ^ 19 + a / 8) (cluster * 2 ^ 19 + (a + n - 1) / 8 + 1)).isEmpty)

end Sys2Proof.Machine
end

