-- ==== Sys2Proof/Machine/Mesh.lean ====
section
/-! DEFINITION. The mesh: its routers and their places, the agents attached to them, the routes of messages, the inputs
that hold them, and what each output passes on in a cycle (R371 to R375). -/

namespace Sys2Proof.Machine

/-! ## Routers, places, agents (R371) -/

/-- The place of a router: of cluster router c, or of I/O router 32 + i, which lies south of the cluster router at (2i, 3). -/
def routerAt (r : Nat) : Nat × Nat :=
  if r < 16 then (r % 4, r / 4) else if r < 32 then (4 + (r - 16) % 4, (r - 16) / 4) else (2 * (r - 32), 4)

/-- The cluster router at a place. -/
def clusterRouter (x y : Nat) : Nat := if x < 4 then y * 4 + x else 16 + y * 4 + (x - 4)

/-- The link between two routers lies on the silicon bridge. -/
def overBridge (a b : Nat) : Bool := decide ((routerAt a).1 < 4) != decide ((routerAt b).1 < 4)

/-- The cluster router of an agent; none for an agent of the I/O die, which is reached through any of the I/O routers. -/
def Agent.cluster? : Agent → Option Nat
  | .core c => some (c.toNat / 8)
  | .matrixEngine e => some (e.toNat / 16)
  | .copyEngine n => some (n.toNat / 3)
  | .cacheSlice ch => some (ch.toNat / 8)
  | .nearMemory u => some u.toNat
  | .opticalPort p => some p.toNat
  | .mappingEngine => none
  | .privetEngine => none
  | .pleachTable => none
  | .serviceProcessor => none
  | .messageRouter => none
  | .pcie => none

/-- The agent that a message is for: the message router where it goes to a peer, a core, the home bank of a fork counter, the
Pleach table, the host, or a near-memory operation unit and the source of its operation (R371, R393; DESIGN CHOICE: log 78). -/
def Message.receiver (m : Message) : Agent :=
  if m.peer.isSome then .messageRouter
  else
    match m.kind with
    | .slotgive .. => .pleachTable
    | .arrive .. => .pleachTable
    | .forkDone c off => .core (BitVec.ofNat 8 (c.toNat * 8 + off / 128 % 8))
    | .ropReq j => .nearMemory j.unit
    | .ropRes j _ =>
      match j.source with
      | .strand _ core => .core (BitVec.ofNat 8 core)
      | .peer _ _ port => .opticalPort (BitVec.ofNat 5 port)
    | .task => if m.vnet = .reply && m.origin.window.isSome then .pcie else .core m.core

/-! ## Routes (R372) -/

/-- The I/O router that a message between a cluster agent and an agent of the I/O die uses: that of the cluster router's
column. -/
def ioRouter (cluster : Nat) : Nat := 32 + (routerAt cluster).1 / 2

/-- The router at which a message enters the mesh. Between two agents of the I/O die it is I/O router 0 (DESIGN CHOICE:
log 78). -/
def Message.entry (m : Message) : Nat :=
  match m.agent.cluster?, m.receiver.cluster? with
  | some c, _ => c
  | none, some d => ioRouter d
  | none, none => 32

/-- The router at which it leaves the mesh. -/
def Message.exit (m : Message) : Nat :=
  match m.agent.cluster?, m.receiver.cluster? with
  | _, some d => d
  | some c, none => ioRouter c
  | none, none => 32

/-- The router after a router on the way to a last router: along x, then along y, then south to an I/O router; from an I/O
router to the cluster router above it. -/
def nextRouter (last r : Nat) : Option Nat :=
  if r = last then none
  else if 32 ≤ r then some (clusterRouter (routerAt r).1 3)
  else
    let (x, y) := routerAt r
    let (tx, ty) := routerAt last
    if x < tx then some (clusterRouter (x + 1) y)
    else if tx < x then some (clusterRouter (x - 1) y)
    else if y < ty then some (if 32 ≤ last && y = 3 then last else clusterRouter x (y + 1))
    else some (clusterRouter x (y - 1))

/-- The side of a router on which a neighbour lies: north 0, east, south, west. -/
def sideOf4 (r other : Nat) : Nat :=
  let (x, y) := routerAt r
  let (ox, oy) := routerAt other
  if oy < y then 0 else if x < ox then 1 else if y < oy then 2 else 3

/-- The routers that a message passes, its first and last included. -/
def routeFrom (last : Nat) : Nat → Nat → List Nat
  | 0, r => [r]
  | n + 1, r =>
    match nextRouter last r with
    | none => [r]
    | some q => r :: routeFrom last n q

def Message.route (m : Message) : List Nat := routeFrom m.exit 16 m.entry

/-! ## Inputs (R373, R374) -/

/-- Flits of 32 bytes of a message. -/
def Message.flits (m : Message) : Nat := ((messageBytes m).length + 31) / 32

/-- A message that stands in an input of a router. -/
def Message.inMesh (m : Message) : Bool := m.seat.isSome && !m.landed

/-- A message stands in the buffer of another: the same input of one router, and the same virtual network. The agents of a router
share its local input. -/
def sameBuffer (m x : Message) : Bool := x.inMesh && m.vnet == x.vnet && m.seat == x.seat

/-- Of some messages, the flits in the buffer in which a message stands. -/
def bufferFlits (l : List Message) (m : Message) : Nat := ((l.filter (sameBuffer m)).map Message.flits).sum

/-- The input at which a message would stand has room for every flit of it, of the 8 that an input holds for a virtual
network. -/
def hasRoom (l : List Message) (m : Message) : Bool := decide (bufferFlits l m + m.flits ≤ 8)

/-- The message with a number in the mesh, if it is the first of its buffer. -/
def headAt? (s : State) (n : Nat) : Option Message :=
  match s.mesh[n]? with
  | none => none
  | some m => if !m.inMesh || (s.mesh.take n).any (sameBuffer m) then none else some m

/-- A message at the local input of its first router. -/
def Message.entered (m : Message) : Message := { m with seat := some ⟨m.entry, none⟩ }

/-- Two messages wait for the same local input and virtual network. -/
def sameWait (m x : Message) : Bool := x.seat.isNone && !x.landed && m.vnet == x.vnet && m.entry == x.entry

/-- Messages that wait at their agents enter their first routers as there is room for every flit of them, those for one input in
their order (R374). -/
def enterAll (done : List Message) : List Message → List Message
  | [] => done
  | m :: r =>
    if m.seat.isNone && !m.landed && !done.any (sameWait m) && hasRoom (done ++ r) m.entered then enterAll (done ++ [m.entered]) r
    else enterAll (done ++ [m]) r

/-! ## Outputs (R375) -/

/-- The input of a router in which a message stands: 0 the local one, then north, east, south, west. -/
def inputOf (m : Message) : Nat :=
  match m.seat with
  | none => 0
  | some p =>
    match p.source with
    | none => 0
    | some q => 1 + sideOf4 p.router q

/-- The least of some numbers. -/
def leastOf (l : List Nat) : Option Nat := l.foldl (fun b x => some (match b with | none => x | some y => min x y)) none

/-- The order of the rotation within an output: the first number of a list after the one served last. -/
def rotate (l : List Nat) (last : Option Nat) : Option Nat :=
  match last with
  | none => leastOf l
  | some n =>
    match leastOf (l.filter (fun x => decide (n < x))) with
    | some x => some x
    | none => leastOf l

/-- Where an output of a router takes a message: to the next router, or from its last one to its receiver. -/
def passed (m : Message) (r : Nat) : Message :=
  match nextRouter m.exit r with
  | some q => { m with seat := some ⟨q, some r⟩ }
  | none => { m with landed := true }

/-- The output of a router that a message takes: the side of the next router, or 4, the local one. -/
def outputOf (m : Message) (r : Nat) : Nat :=
  match nextRouter m.exit r with
  | some q => sideOf4 r q
  | none => 4

/-- The operations that a unit holds, or that have come to it. -/
def unitHolds (s : State) (u : BitVec 5) : List RopJob :=
  AMap.getD s.units u.toNat [] ++ s.mesh.filterMap (fun m =>
    match m.kind with
    | .ropReq j => if m.landed && j.unit == u then some j else none
    | _ => none)

/-- A unit has a place for an operation: one of the 256 of its queue, or one of the four forwarding entries of its index (R393,
R394). -/
def unitRoom (s : State) (j : RopJob) : Bool :=
  decide (((unitHolds s j.unit).filter (fun x => x.index == j.index)).length < (if j.index = 0 then 256 else 4))

/-- The receivers take every message (R373), but a near-memory operation unit only where it has a place (R393); a next router takes
it when its input has room. -/
def takes (s : State) (m : Message) (r : Nat) : Bool :=
  if (passed m r).landed then (match m.kind with | .ropReq j => unitRoom s j | _ => true) else hasRoom s.mesh (passed m r)

/-- The messages that wait for an output of a router, by their numbers in the mesh: heads of their buffers that it can pass on. The
last ones, of a given number, have moved in this cycle. -/
def waitingFor (s : State) (moved r out : Nat) : List (Nat × Message) :=
  (List.range (s.mesh.length - moved)).filterMap (fun n =>
    (headAt? s n).bind (fun m =>
      if (m.seat.map (·.router)) = some r ∧ outputOf m r = out ∧ takes s m r then some (n, m) else none))

def routerOut (s : State) (k : Nat) : RouterOut := AMap.getD s.routers k ⟨none, [], 0⟩

/-- The message that an output takes next: the next input in rotation that has one for it, and the next virtual network of that
input. A local output in deterministic mode takes the one that has come first (R337). -/
def chosenFor (s : State) (o : RouterOut) (out : Nat) (w : List (Nat × Message)) : Option (Nat × Message) :=
  if s.determActive && out == 4 then w.head?
  else
    (rotate (w.map (fun x => inputOf x.2)) o.lastInput).bind (fun i =>
      let here := w.filter (fun x => inputOf x.2 == i)
      (rotate (here.map (fun x => x.2.vnet.code)) (AMap.get? o.lastVnet i)).bind (fun v =>
        here.find? (fun x => x.2.vnet.code == v)))

/-- One output of a router in a cycle: unless it is still passing an earlier message, flit by flit, it takes one that waits; the
message moves whole, to the end of its next buffer or to its receiver (R374, R375). The second number counts the moves of the
cycle. -/
def outputCycle (a : State × Nat) (r out : Nat) : State × Nat :=
  let s := a.1
  let o := routerOut s (r * 8 + out)
  if s.now < o.freeAt then a
  else
    match chosenFor s o out (waitingFor s a.2 r out) with
    | none => a
    | some (n, m) =>
      ({ s with mesh := s.mesh.eraseIdx n ++ [passed m r],
                routers := AMap.put s.routers (r * 8 + out)
                  ⟨some (inputOf m), AMap.put o.lastVnet (inputOf m) m.vnet.code, s.now + m.flits⟩ },
       a.2 + 1)

/-- A message among those that came in one cycle: in the order of the inputs through which they came (R337). -/
def byInput (m : Message) : List Message → List Message
  | [] => [m]
  | x :: r => if inputOf m < inputOf x then m :: x :: r else x :: byInput m r

/-- One cycle of the mesh: messages enter, and every output of every router takes one. -/
def meshCycle (s : State) : State :=
  if s.mesh.all (·.landed) then s
  else
    let a := (List.range 36).foldl (fun a r => (List.range 5).foldl (fun a out => outputCycle a r out) a)
      ({ s with mesh := enterAll [] s.mesh }, 0)
    let n := a.1.mesh.length - a.2
    { a.1 with mesh := a.1.mesh.take n ++ (a.1.mesh.drop n).foldl (fun l m => byInput m l) [] }

/-- The message with a number in the mesh that its receiver may take: it has left its last router, and none that has left one
before it is still to be taken (R372, R373, R337). -/
def meshAt? (s : State) (n : Nat) : Option Message :=
  match s.mesh[n]? with
  | none => none
  | some m => if m.landed && !(s.mesh.take n).any (·.landed) then some m else none

/-- A message leaves the mesh. -/
def takeMesh (s : State) (n : Nat) : State := { s with mesh := s.mesh.eraseIdx n }

end Sys2Proof.Machine
end

