-- ==== Sys2Proof/Machine/Shapes.lean ====
section
/-! DEFINITION. Copy shapes and tile-task records: their fields, what makes them invalid, and the bytes they name
(R201 to R207, R218 to R221). -/

namespace Sys2Proof.Machine

/-! ## Formats (R143, R219) -/

def isKX (f : Nat) : Bool := f == 8 || f == 9 || f == 10

/-- Bytes of an element, or of an operand row for a KX format (R219). -/
def elemBytes (f : Nat) : Nat :=
  match f with
  | 0 => 4
  | 1 => 2
  | 2 => 2
  | 5 => 4
  | 8 => 64
  | 9 => 64
  | 10 => 64
  | _ => 1

/-- Elements in one operand row of a KX format (R143). -/
def kPerRow (f : Nat) : Nat := match f with | 8 => 160 | 9 => 96 | _ => 64

/-- Scale bytes of one operand row of a KX format (R143). -/
def scaleBytes (f : Nat) : Nat := match f with | 8 => 20 | 9 => 12 | 10 => 8 | _ => 0

/-- An allocated engine format code (R219). -/
def fmtOk (f : Nat) : Bool := decide (f ≤ 10)

/-! ## Shapes -/

/-- A field of a shape register (R201). -/
def shf (h : BitVec 256) (lo n : Nat) : Nat := (h.extractLsb' lo n).toNat

/-- A signed field of a shape register. -/
def shi (h : BitVec 256) (lo n : Nat) : Int := (h.extractLsb' lo n).toInt

def shSrc (h : BitVec 256) : Nat := shf h 0 3
def shDst (h : BitVec 256) : Nat := shf h 3 3
def shQueue (h : BitVec 256) : Nat := shf h 6 4
def shXform (h : BitVec 256) : Nat := shf h 10 2
def shSfmt (h : BitVec 256) : Nat := shf h 12 4
def shDfmt (h : BitVec 256) : Nat := shf h 16 4
def shSat (h : BitVec 256) : Bool := h.getLsbD 20
def shPeer (h : BitVec 256) : BitVec 10 := h.extractLsb' 32 10
def shScoff (h : BitVec 256) : Int := shi h 42 22
def shLen (h : BitVec 256) : Nat := shf h 64 32
def shRuns1 (h : BitVec 256) : Nat := shf h 96 16 + 1
def shRuns2 (h : BitVec 256) : Nat := shf h 112 16 + 1
def shSstep1 (h : BitVec 256) : Int := shi h 128 32
def shSstep2 (h : BitVec 256) : Int := shi h 160 32
def shDstep1 (h : BitVec 256) : Int := shi h 192 32
def shDstep2 (h : BitVec 256) : Int := shi h 224 32

/-- Runs of a copy (R206). -/
def shRuns (h : BitVec 256) : Nat := shRuns1 h * shRuns2 h

/-- A CONVERT pair that R206 allows. -/
def convertPair (sf df : Nat) : Bool :=
  if sf ≤ 4 then (df ≤ 4 && df != sf) || df == 6 || df == 7 || isKX df
  else isKX sf && (df == 0 || df == 1 || df == 2)

/-- An invalid shape (R203); a KX format needs its feature (R407). -/
def invalidShape (kxOn : Bool) (h : BitVec 256) : Bool :=
  let sf := shSfmt h
  let df := shDfmt h
  decide (4 < shSrc h) || decide (4 < shDst h) || decide (11 < shQueue h) || shXform h == 3 || shf h 21 11 != 0 ||
  (shSrc h == 4 && shDst h == 4) ||
  (shXform h != 1 && (sf != 0 || df != 0 || shSat h || shScoff h != 0)) ||
  (shXform h == 2 && shLen h % 2 != 0) ||
  (shXform h == 1 &&
    (!convertPair sf df || shLen h % elemBytes sf != 0 ||
     (isKX df && decide (kPerRow df < shLen h / elemBytes sf)) ||
     (isKX sf && shLen h != 64) ||
     (shSat h && decide (4 < df)) ||
     ((isKX sf || isKX df) && !kxOn)))

/-- The alignment unit of a side (R206). -/
def shUnit (h : BitVec 256) (dst : Bool) : Nat :=
  match shXform h with
  | 0 => 1
  | 1 => elemBytes (if dst then shDfmt h else shSfmt h)
  | _ => 2

/-- The first byte of run (i1, i2) on the source side, and on the destination side but for TRANSPOSE (R206). -/
def runAddr (h : BitVec 256) (dst : Bool) (base : DWord) (i1 i2 : Nat) : Int :=
  if dst then (base.toNat : Int) + i1 * shDstep1 h + i2 * shDstep2 h
  else (base.toNat : Int) + i1 * shSstep1 h + i2 * shSstep2 h

/-- Elements of one source run under CONVERT. -/
def runElems (h : BitVec 256) : Nat :=
  if isKX (shSfmt h) then kPerRow (shSfmt h) else shLen h / elemBytes (shSfmt h)

/-- Bytes that one run writes at its destination. -/
def dstRunBytes (h : BitVec 256) : Nat :=
  if shLen h = 0 then 0
  else if shXform h = 1 then
    if isKX (shDfmt h) then 64 else runElems h * elemBytes (shDfmt h)
  else shLen h

/-- Pieces of one run on a side: first byte and length. Under TRANSPOSE the destination pieces are the elements. -/
def runPieces (h : BitVec 256) (dst : Bool) (base : DWord) (i1 i2 : Nat) : List (Int × Nat) :=
  if dst && shXform h == 2 then
    (List.range (shLen h / 2)).map (fun (j : Nat) =>
      ((base.toNat : Int) + j * shDstep1 h + i1 * 2 + i2 * shDstep2 h, 2))
  else [(runAddr h dst base i1 i2, if dst then dstRunBytes h else shLen h)]

/-- The scale vector of run r on a KX side (R207). -/
def runScale (h : BitVec 256) (dst : Bool) (base : DWord) (r : Nat) : List (Int × Nat) :=
  let f := if dst then shDfmt h else shSfmt h
  if shXform h = 1 ∧ isKX f ∧ shLen h ≠ 0 then
    [((base.toNat : Int) + shScoff h * 16 + r * scaleBytes f, scaleBytes f)]
  else []

/-- Every piece that a side of a copy names: runs in loop order and scale vectors (R205). -/
def sidePieces (h : BitVec 256) (dst : Bool) (base : DWord) : List (Int × Nat) :=
  ((List.range (shRuns2 h)).flatMap (fun i2 =>
    (List.range (shRuns1 h)).flatMap (fun i1 =>
      runPieces h dst base i1 i2 ++ runScale h dst base (i2 * shRuns1 h + i1)))).filter (fun p => p.2 != 0)

/-- The pieces lie within bytes 0 to limit − 1. -/
def piecesWithin (limit : Nat) (ps : List (Int × Nat)) : Bool :=
  ps.all (fun p => 0 ≤ p.1 && p.1 + p.2 ≤ limit)

/-- The lowest byte of the pieces that lies in a slot for which the test fails, slots being 8 KiB. -/
def lowestIn (bad : Nat → Bool) : List (Int × Nat) → Option Int
  | [] => none
  | p :: ps =>
    let here : Option Int :=
      if p.1 < 0 then some p.1
      else
        let first := p.1.toNat / 8192
        let last := (p.1.toNat + p.2 - 1) / 8192
        (((List.range (last - first + 1)).map (fun i => first + i)).find? bad).map
          (fun sl => max p.1 ((sl * 8192 : Nat) : Int))
    match here, lowestIn bad ps with
    | none, r => r
    | some a, none => some a
    | some a, some b => some (min a b)

/-- The slots of a context's share of a cluster: first absolute slot and count (R216). -/
def slotShare? (s : State) (cluster : Nat) (ctx : CtxId) : Option (Nat × Nat) :=
  match clusterShare? s cluster ctx with
  | none => none
  | some (_, _, up) =>
    if (clusterAt s cluster).resident then some (if up then 256 else 0, 256) else some (0, 512)

/-- The counters of a context's share: first absolute index and count (R216). -/
def counterShare? (s : State) (cluster : Nat) (ctx : CtxId) : Option (Nat × Nat) :=
  match clusterShare? s cluster ctx with
  | none => none
  | some (_, _, up) =>
    if (clusterAt s cluster).resident then some (if up then 2048 else 0, 2048) else some (0, 4096)

/-- The engines of a context's share: first and count (R216). -/
def engineShare? (s : State) (cluster : Nat) (ctx : CtxId) : Option (Nat × Nat) :=
  match clusterShare? s cluster ctx with
  | none => none
  | some (_, _, up) =>
    if (clusterAt s cluster).resident then some (if up then 8 else 0, 8) else some (0, 16)

/-- A slot of the share, by its relative number, is not claimed by the context (R205). -/
def unclaimed (s : State) (cluster : Nat) (ctx : CtxId) (slot : Nat) : Bool :=
  match slotShare? s cluster ctx with
  | none => true
  | some (first, n) => decide (n ≤ slot) || AMap.get? (clusterAt s cluster).claims (first + slot) != some ctx

/-! ## Records -/

/-- A field of a record: byte offset, low bit, width (R218). -/
def rcf (r : BitVec 512) (off lo n : Nat) : Nat := (r.extractLsb' (off * 8 + lo) n).toNat

def rcKind (r : BitVec 512) : Nat := rcf r 0x00 0 8
def rcEng (r : BitVec 512) : Nat := rcf r 0x00 8 4
def rcAny (r : BitVec 512) : Bool := rcf r 0x00 12 1 == 1
def rcSat (r : BitVec 512) : Bool := rcf r 0x00 13 1 == 1
def rcAcc (r : BitVec 512) : Bool := rcf r 0x00 14 1 == 1
def rcBank (r : BitVec 512) : Nat := rcf r 0x00 15 1
def rcSparse (r : BitVec 512) : Bool := rcf r 0x00 16 1 == 1
def rcDrn (r : BitVec 512) : Bool := rcf r 0x00 17 1 == 1
def rcAfmt (r : BitVec 512) : Nat := rcf r 0x00 24 4
def rcWfmt (r : BitVec 512) : Nat := rcf r 0x00 28 4
def rcD0 (r : BitVec 512) : Option Nat := if rcf r 0x04 15 1 == 1 then some (rcf r 0x04 0 12) else none
def rcD1 (r : BitVec 512) : Option Nat := if rcf r 0x04 31 1 == 1 then some (rcf r 0x04 16 12) else none
def rcAsrc (r : BitVec 512) : Nat := rcf r 0x08 0 32
def rcAstr (r : BitVec 512) : Nat := rcf r 0x0C 0 32
def rcBsrc (r : BitVec 512) : Nat := rcf r 0x10 0 32
def rcBstr (r : BitVec 512) : Nat := rcf r 0x14 0 32
def rcAsc (r : BitVec 512) : Nat := rcf r 0x18 0 32
def rcBsc (r : BitVec 512) : Nat := rcf r 0x1C 0 32
def rcMd (r : BitVec 512) : Nat := rcf r 0x20 0 32
def rcNk (r : BitVec 512) : Nat := rcf r 0x24 16 8
def rcRows (r : BitVec 512) : Nat := rcf r 0x24 8 8
def rcRow0 (r : BitVec 512) : Nat := rcf r 0x24 0 8
def rcDaddr (r : BitVec 512) : DWord := r.extractLsb' (0x28 * 8) 64
def rcDstr (r : BitVec 512) : Nat := rcf r 0x30 0 32
def rcDscoff (r : BitVec 512) : Int := (r.extractLsb' (0x34 * 8) 32).toInt
def rcDfmt (r : BitVec 512) : Nat := rcf r 0x38 4 4
def rcDsp (r : BitVec 512) : Nat := rcf r 0x38 0 2

def isWload (r : BitVec 512) : Bool := rcKind r == 1
def isMstream (r : BitVec 512) : Bool := rcKind r == 3
def isGemm (r : BitVec 512) : Bool := rcKind r == 4
def isDrain (r : BitVec 512) : Bool := rcKind r == 5

/-- The record drains rows (R220). -/
def drains (r : BitVec 512) : Bool := isDrain r || (isGemm r && rcDrn r)

/-- Scale bytes of an operand row or column (R221): twice the dense ones under SPARSE for KX7. -/
def vScale (f : Nat) (sparse : Bool) : Nat := if f == 10 && sparse then 16 else scaleBytes f

/-- Bytes of an A row (R221). -/
def aRow (sparse : Bool) : Nat := if sparse then 128 else 64

/-- Metadata bytes of a column: 16 for 8-bit formats, 8 for 16-bit ones, none without SPARSE (R221). -/
def mdBytes (f : Nat) (sparse : Bool) : Nat := if !sparse then 0 else if elemBytes f == 2 then 8 else 16

/-- Operand-memory pieces that the weights of chunk k name (R221). -/
def bPieces (r : BitVec 512) (k : Nat) : List (Int × Nat) :=
  let st := rcBstr r * k
  let v := vScale (rcWfmt r) (rcSparse r)
  let m := mdBytes (rcWfmt r) (rcSparse r)
  [((rcBsrc r + st : Nat), 256 * 64), ((rcBsc r + st : Nat), 256 * v), ((rcMd r + st : Nat), 256 * m)]

/-- Operand-memory pieces that the rows of chunk k name (R221). -/
def aPieces (r : BitVec 512) (sparse : Bool) (k : Nat) : List (Int × Nat) :=
  let st := rcAstr r * k
  [((rcAsrc r + st : Nat), rcRows r * aRow sparse), ((rcAsc r + st : Nat), rcRows r * vScale (rcAfmt r) sparse)]

/-- Rows of 64 bytes that a KX drain writes for one row of 256 values (R225). -/
def kxRows (f : Nat) : Nat := match f with | 8 => 2 | 9 => 3 | _ => 4

/-- Bytes of a drained row (R225). -/
def drainRow (f : Nat) : Nat := if isKX f then kxRows f * 64 else 256 * elemBytes f

/-- Pieces that row i of a drain writes (R225). -/
def drainPieces (r : BitVec 512) (i : Nat) : List (Int × Nat) :=
  let f := rcDfmt r
  [((((rcDaddr r).toNat + i * rcDstr r : Nat) : Int), drainRow f)] ++
  (if isKX f then
    [(((rcDaddr r).toNat : Int) + rcDscoff r + (i * (kxRows f * scaleBytes f) : Nat), kxRows f * scaleBytes f)] else [])

/-- Every piece of all drained rows. -/
def drainAll (r : BitVec 512) : List (Int × Nat) := (List.range (rcRows r)).flatMap (drainPieces r)

/-- Pieces of operand memory that a record names, by its kind (R220, R222). An MSTREAM has no field for the width of its A
rows, which depends on the plane that is active when it runs: its check takes rows of 64 bytes (DESIGN CHOICE: log 82). -/
def recordPieces (r : BitVec 512) : List (Int × Nat) :=
  ((match rcKind r with
    | 1 => bPieces r 0
    | 3 => aPieces r false 0
    | 4 => (List.range (rcNk r)).flatMap (fun k => aPieces r (rcSparse r) k ++ bPieces r k)
    | _ => []) ++
   (if drains r && rcDsp r == 2 then drainAll r else [])).filter (fun p => p.2 != 0)

/-- A copy names a byte of an absolute operand slot. -/
def copyNames (s : State) (cluster : Nat) (c : Copy) (slot : Nat) : Bool :=
  match slotShare? s cluster c.ctx with
  | none => false
  | some (first, _) =>
    let hits := fun (ps : List (Int × Nat)) =>
      (lowestIn (fun x => first + x == slot) ps).isSome
    (shSrc c.shape == 3 && hits (sidePieces c.shape false c.src)) ||
    (shDst c.shape == 3 && hits (sidePieces c.shape true c.dst))

/-- A record names a byte of an absolute operand slot. -/
def recordNames (s : State) (cluster : Nat) (r : Record) (slot : Nat) : Bool :=
  match slotShare? s cluster r.ctx with
  | none => false
  | some (first, _) => (lowestIn (fun x => first + x == slot) (recordPieces r.words)).isSome

end Sys2Proof.Machine
end

