-- ==== Sys2Proof/Machine/Issue.lean ====
section
/-! DEFINITION. Which group issues next and which of its strands, fetching the word they stand at, and the passing of
time (R21, R82 to R84, R106 to R108). -/

namespace Sys2Proof.Machine

/-! ## Conditions -/

/-- The ROP entry that a packet belongs to, and the key of the strand that issued it. -/
def PktUse.rop? : PktUse → Option Entry
  | .rop e _ _ => some e
  | .ropSt e _ => some e
  | .xreqRop e _ _ => some e
  | _ => none

/-- An entry belongs to one of some strands. -/
def Entry.ofStrands (s : State) (ks : List Nat) (e : Entry) : Bool :=
  ks.any (fun k => ((taskOfGroup? s (k / 32)).map (fun t => t.2.uid == e.uid && strandIx s k == e.strand)).getD false)

/-- The peer that a ROP names; none for this part, under its own number too (R194, R389). -/
def ropPeer? (s : State) (ea : DWord) : Option (BitVec 10) :=
  if ea.getLsbD 63 && ea.extractLsb' 53 10 != s.fab.self then some (ea.extractLsb' 53 10) else none

/-- A ROP that belongs to one of some strands has been sent to a peer and has not performed there. -/
def Peer.ropOut (p : Peer) (mine : Entry → Bool) : Bool :=
  p.unacked.any (fun x => ((PktUse.rop? x.use).map mine).getD false) ||
  p.waiting.any (fun x => ((PktUse.rop? x.2.2.1).map mine).getD false)

/-- The operations of strands that are on their way to or from a near-memory operation unit of this part, or queued there (R393). -/
def unitJobs (s : State) : List RopJob :=
  (s.mesh.filterMap (fun m => match m.kind with | .ropReq j => some j | .ropRes j _ => some j | _ => none) ++
    s.units.flatMap (·.2)).filter (fun j => match j.source with | .strand .. => true | .peer .. => false)

/-- A ROP to this part, among those that some entries are of, has not yet been answered (R195). -/
def unitOut (s : State) (mine : Entry → Bool) : Bool := (unitJobs s).any (fun j => mine j.e)

/-- A ROP of one of some strands is outstanding: it has not performed at its target (R195). -/
def ropsOut (s : State) (ks : List Nat) : Bool :=
  s.fab.peers.any (fun p => p.2.ropOut (Entry.ofStrands s ks)) ||
  s.fab.ropsHeld.any (fun h => Entry.ofStrands s ks h.2.1) || unitOut s (Entry.ofStrands s ks)

/-- Two entries of one strand. -/
def Entry.sameStrand (a b : Entry) : Bool := a.uid == b.uid && a.strand == b.strand

/-- An earlier ROP of an entry's strand to a peer is outstanding: a later one to it waits its turn (R195). -/
def ropsOutTo (s : State) (p : BitVec 10) (e : Entry) : Bool :=
  (peerAt s p).ropOut e.sameStrand || s.fab.ropsHeld.any (fun h => h.1 == p && e.sameStrand h.2.1)

/-- A side-log entry of one of the strands is pending (R181). -/
def sidePending (s : State) (ks : List Nat) : Bool :=
  ks.any (fun k =>
    match taskOfGroup? s (k / 32) with
    | none => false
    | some (_, t) => !(sideOf s (coreOfStrand k) t.uid (strandIx s k)).isEmpty)

/-- The 128-byte line of an entry: a line of a peer is none of this part's (R181, R194). -/
def Entry.line (s : State) (e : Entry) : Nat :=
  if (ropPeer? s e.ea).isNone then e.ea.toNat % 2 ^ 52 / 128 else e.ea.toNat / 128

/-- An atomic or a rop.st of one of the strands stands in the side log: it has not performed, as a store that is made has (R260). -/
def sideUnperformed (s : State) (ks : List Nat) : Bool :=
  ks.any (fun k =>
    match taskOfGroup? s (k / 32) with
    | none => false
    | some (_, t) =>
      (sideOf s (coreOfStrand k) t.uid (strandIx s k)).any (fun e => e.kind == .atomNR || e.kind == .ropSt))

/-- A side-log entry of a strand, or a ROP of it to this part, is pending on a 128-byte line (R181, R273). -/
def sideOnLine (s : State) (k line : Nat) : Bool :=
  match taskOfGroup? s (k / 32) with
  | none => false
  | some (_, t) =>
    (sideOf s (coreOfStrand k) t.uid (strandIx s k)).any (fun e => e.line s == line) ||
    unitOut s (fun e => e.uid == t.uid && e.strand == strandIx s k && e.line s == line)

/-- A rop.st of a strand to a part is pending in the side log (R195). -/
def sideRops (s : State) (k : Nat) (p : Option (BitVec 10)) : List Entry :=
  match taskOfGroup? s (k / 32) with
  | none => []
  | some (_, t) =>
    (sideOf s (coreOfStrand k) t.uid (strandIx s k)).filter (fun e => e.kind == .ropSt && ropPeer? s e.ea == p)

/-- The records that the engines of a cluster hold. -/
def engineRecords (s : State) (c : Nat) : List Record :=
  (s.engines.filter (fun e => e.1 / 16 == c)).flatMap (fun e =>
    e.2.runs.map (·.record) ++ e.2.pending.toList)

/-- Copies of a group that have not completed, in some of the queues of a cluster (R214). -/
def groupCopies (s : State) (uid group : Nat) (p : Nat → Copy → Bool) : Bool :=
  s.queues.any (fun e => e.2.copies.any (fun c => c.tok.uid == uid && c.tok.group == group && p e.1 c))

/-- Messages in a send queue. -/
def sendQ (c : Core) : VNet → List Message
  | .req => c.sendReq
  | .reply => c.sendReply
  | .sys => c.sendSys
  | .bulk => c.sendBulk

/-- The condition of a waiting instruction holds (R106). -/
def condHolds (s : State) : Cond → Bool
  | .tokQuiet t => ((AMap.getD s.rf.k t ⟨0, 0⟩).outstanding == 0)
  | .tokAtLeast t n =>
    let k := AMap.getD s.rf.k t ⟨0, 0⟩
    decide (n ≤ k.count.toNat % 2 ^ 31) || k.count.getLsbD 31 || k.outstanding == 0
  | .counterZero c i => Sparse.read s.pcs (c * 4096 + i) == 0
  | .queuesClear uid g qs b => !groupCopies s uid g (fun q c => qs.contains q && decide (c.since ≤ b))
  | .slotIdle c sl =>
    !((List.range 12).any (fun q => (queueAt s (c * 12 + q)).copies.any (fun x => copyNames s c x sl))) &&
    !((AMap.getD s.posts c [] ++ engineRecords s c).any (fun r => recordNames s c r sl))
  | .postRoom c => decide ((AMap.getD s.posts c []).length < 256)
  | .dequeRoom c x => decide ((AMap.getD (coreAt s c).deque x.toNat []).length < 32)
  | .released ks => !sidePending s ks && !ropsOut s ks
  | .fabricReady ks uid g b =>
    !sidePending s ks && !ropsOut s ks && !groupCopies s uid g (fun _ c => shDst c.shape == 4 && decide (c.since ≤ b))
  | .forkZero _ a => Mem.nat s.cluwin a 4 == 0
  | .sendRoom c v _ => decide ((sendQ (coreAt s c) v).length < (coreAt s c).sqLim)
  | .launchRoom c => decide ((clusterAt s c).launchQ.length < 64)
  | .entryFree e =>
    match (AMap.getD s.pl.entries e PlEntry.init).issued with
    | none => true
    | some (.trapped _) => true
    | some .restart => true
    | _ => false
  | .parkRoom c n _ => decide ((coreAt s c).parked.length + n ≤ 512)
  | .fetchRoom c _ => decide ((coreAt s c).parked.length < 512)
  | .lineFree ks l => !(ks.any (fun k => sideOnLine s k l))
  | .ropsQuiet ks => !ropsOut s ks && !sideUnperformed s ks
  | .ropTurn k p => (sideRops s k p).isEmpty && (p.isSome || !unitOut s (Entry.ofStrands s [k]))

/-! ## Readiness and choice -/

/-- A strand of a group could issue, as far as it and its group are concerned: not while the group is parked (R106, R299). -/
def strandAble (s : State) (g : Group) (k : Nat) : Bool :=
  match (strandAt s k).wait with
  | .run => g.parked.isNone
  | .cond (.parkRoom c n a) _ => condHolds s (.parkRoom c n a)
  | .cond (.fetchRoom c a) _ => condHolds s (.fetchRoom c a)
  | .cond c _ => g.parked.isNone && condHolds s c
  | _ => false

/-- The task of a group lets a strand issue: a coppicing stops all of it, a quiescent save all but the strands that hold lock
bits (R312, R332). -/
def taskIssues (s : State) (g : Group) (k : Nat) : Bool :=
  match AMap.get? s.tasks g.task with
  | none => true
  | some t => !t.stopping && (!t.saving || !(strandAt s k).locks.isEmpty)

/-- A strand of a group is ready (R106). -/
def strandReady (s : State) (g : Group) (k : Nat) : Bool := taskIssues s g k && strandAble s g k

/-- The ready lanes of a group, ascending. -/
def readyLanes (s : State) (gk : Nat) : List Nat :=
  match AMap.get? s.groups gk with
  | none => []
  | some g => (List.range 32).filter (fun l => strandReady s g (gk * 32 + l))

/-- A bank issues (R321). -/
def bankIssues (s : State) (core bank : Nat) : Bool :=
  if core ≥ 256 then bank == 0
  else
    let c := clusterAt s (clusterOfCore core)
    if c.resident then bank == c.bank else bank == 0

/-- The ready slots of an issue quarter, ascending (R107). -/
def readySlots (s : State) (core bank q : Nat) : List Nat :=
  if bankIssues s core bank then
    [q, q + 4, q + 8, q + 12].filter (fun n => !(readyLanes s (gkey core bank n)).isEmpty)
  else []

/-- The first of a rising list after a number, wrapping to its first. -/
def firstAfter (l : List Nat) (last : Option Nat) : Option Nat :=
  match last with
  | none => l.head?
  | some n =>
    match l.find? (fun x => decide (n < x)) with
    | some x => some x
    | none => l.head?

/-- The slot that a quarter chooses (R107), groups that have yielded being passed over while another is ready
(R254). -/
def chooseSlot (s : State) (core bank q : Nat) : Option Nat :=
  let r := readySlots s core bank q
  let fresh := r.filter (fun n => ((groupAt? s (gkey core bank n)).map (·.yielded)).join.isNone)
  firstAfter (if fresh.isEmpty then r else fresh) (AMap.get? (coreAt s core).lastSlot (bank * 4 + q))

/-- A yield record after a choice of the quarter: which slots were ready, which was chosen. -/
def Yielded.after (own : Nat) (ready : List Nat) (chosen : Nat) (y : Yielded) : Option Yielded :=
  let seen := (y.seen ++ ready.filter (fun n => n != own && !y.seen.contains n))
  let ch := if chosen == own then y.chosen else chosen :: y.chosen
  if seen.all ch.contains then none else some ⟨seen, ch⟩

/-- Records a choice in the groups of the quarter that have yielded. -/
def noteChoice (s : State) (core bank q chosen : Nat) : State :=
  let r := readySlots s core bank q
  let s := [q, q + 4, q + 8, q + 12].foldl (fun s n =>
    modGroup s (gkey core bank n) (fun g => { g with yielded := g.yielded.bind (Yielded.after n r chosen) })) s
  modCore s core (fun c => { c with lastSlot := AMap.put c.lastSlot (bank * 4 + q) chosen })

/-- A mask of lanes. -/
def maskOf (ls : List Nat) : Word := ls.foldl (fun m l => m ||| (1#32 <<< l)) 0

/-- What the choice of a slot is about to change. -/
def beforeChoice (s : State) (core bank slot : Nat) : Before :=
  let q := slot % 4
  ⟨[q, q + 4, q + 8, q + 12].filterMap (fun n =>
      (groupAt? s (gkey core bank n)).map (fun g => (gkey core bank n, g.turn, g.yielded))),
    AMap.get? (coreAt s core).lastSlot (bank * 4 + q)⟩

/-- VTIME of a context (R339): five nanoseconds for every four cycles. -/
def vtime (c : Ctx) : DWord := c.vtBase + BitVec.ofNat 64 (c.vtCycles * 5 / 4)

/-- WALLREF, advanced in real time: 5 ns in 4 cycles (R405). -/
def wallNow (s : State) : DWord := s.mgmt.wallRef + BitVec.ofNat 64 ((s.now - s.mgmt.wallAt) * 5 / 4)

/-- The wall-clock offset is set at each restore and resume (R413), and as a frozen VTIME runs on, so that VTIME and the offset
together give wall time (R339, R251). -/
def setWall (s : State) (ctx : CtxId) : State := modCtx s ctx (fun c => { c with wallOff := wallNow s - vtime c })

/-- A frozen VTIME runs on with the first issue after a restore or a resume (R339). -/
def thawVt (s : State) (ctx : CtxId) : State :=
  if ((ctxAt? s ctx).map (·.vtFrozen)).getD false then setWall (modCtx s ctx (fun c => { c with vtFrozen := false })) ctx else s

/-- Issue of a group: the chosen lane's PC, every ready strand there, the turn pointer after the chosen lane (R108). The
task's budget counts from its first issue (R329), and a frozen VTIME runs on (R339). -/
def beginIssue (s : State) (core bank slot : Nat) : State :=
  let g := gkey core bank slot
  let r := readyLanes s g
  match AMap.get? s.groups g with
  | none => s
  | some gr =>
    let lane := ((r.find? (fun l => decide (gr.turn.toNat ≤ l))).getD (r.headD 0))
    let pc := (strandAt s (g * 32 + lane)).pc
    let m := maskOf (r.filter (fun l => (strandAt s (g * 32 + l)).pc == pc))
    let before := beforeChoice s core bank slot
    let s := noteChoice s core bank (slot % 4) slot
    let s := modGroup s g (fun x => { x with turn := BitVec.ofNat 5 (lane + 1) })
    let s := modTask s gr.task (fun t => { t with budgetOn := true })
    let s := match AMap.get? s.tasks gr.task with
      | some t => thawVt s t.ctx
      | none => s
    { s with issue := ⟨core, bank, slot, m, pc, 0, before⟩ }

/-! ## Fetch -/

/-- What a fetch gives (R21, R84). -/
inductive Fetched where
  /-- The word, with the state after the access. -/
  | word (s : State) (w : Word)
  /-- The group is parked, or its task has trapped. -/
  | stop (s : State)

/-- The access kind of a parked fetch, as an entry (R301). -/
def fetchEntry (s : State) (t : Task) (a : Absent) : Entry :=
  { kind := .fetch, ea := s.issue.pc.setWidth 64, data := [], size := 2, aop := 0, fl := 0, d := 0, sign := false,
    strand := strandIx s (firstActive s), order := 0, away := a, ctx := t.ctx, uid := t.uid, taskId := t.taskId,
    msgId := t.msgId, discarded := false, sent := false }

/-- The strands of S that waited for a place in the table for their fetch wait no longer. -/
def endFetchWait (s : State) : State :=
  modStrands s (active s) (fun t =>
    match t.wait with
    | .cond (.fetchRoom ..) _ => { t with wait := .run }
    | _ => t)

/-- Parks the group on a fetch whose page is not present: one FETCH entry for the group, in the name of the lowest-numbered
strand of S (R301); with the table full the strands of S wait for a place (R179). -/
def parkFetch (s : State) (t : Task) (a : Absent) : State :=
  let core := s.issue.core
  let s := parkGroup (requestPage s t.ctx a .fetch) (gk s)
  if (coreAt s core).parked.length < 512 then
    let s := endFetchWait (addEntry s core false (fetchEntry s t a))
    modStrand s (firstActive s) (fun x => { x with wait := .fault })
  else holdFor s (active s) (.fetchRoom core a)

/-- The fetch finds its page after a wait for a place in the table: the group issues again, and the word issues for every
strand of S. -/
def fetchFound (s : State) : State :=
  if (active s).any (fun k => match (strandAt s k).wait with | .cond (.fetchRoom ..) _ => true | _ => false) then
    unparkGroup (endFetchWait s) (gk s)
  else s

/-- The word of a line of the instruction cache. -/
def lineWord (line : BitVec 1024) (a : Nat) : Word := line.extractLsb' (a % 128 * 8) 32

/-- Fetches the word at the issuing PC through the context's translation with the X right (R21, R84). -/
def fetch (s : State) : Fetched :=
  match issuer? s with
  | none => .stop s
  | some (_, t) =>
    let core := s.issue.core
    let pc := s.issue.pc.toNat
    let r := translate s (coreCaches core) t.ctx pc false
    match r.2 with
    | .absent a => .stop (parkFetch r.1 t a)
    | .revoked => .stop (raiseFirst r.1 cREVOKED (s.issue.pc.setWidth 64))
    | .page e =>
      if !e.rights.getLsbD 2 then .stop (raiseFirst r.1 cPROT (s.issue.pc.setWidth 64))
      else
        let s := fetchFound r.1
        let pa := e.pa + (pc - e.va)
        let key := t.ctx.toNat * 2 ^ 45 + pc / 128
        match AMap.get? (coreAt s core).icache key with
        | some line => .word s (lineWord line pc)
        | none =>
          let r := eccCheck s (pa / 128)
          if r.2 then .stop (raiseFirst r.1 cDATAERR (s.issue.pc.setWidth 64))
          else
            let line := lineBits (memBytes r.1 (pa / 128 * 128) 128)
            .word (modCore r.1 core (fun c => { c with icache := putLine c.icache 64 r.1.now key line })) (lineWord line pc)

/-- The instruction of a fetched word; PLEACH and SLOTCALL words need their features (R82, R407). -/
def issuedInstr (s : State) (w : Word) : Option Instr :=
  let major := fld w 26 6
  if (major == 0x36#6 && !featureOn s 1) || (major == 0x34#6 && !featureOn s 6) then none
  else
    match decodeWord w with
    | .ok i => some i
    | .error _ => none

/-- Whether an iteration that contains the instruction may still end in a spin park (R128): majors 0x01 to 0x17, LD,
PHASE of kind ACQ, BRA and JMP. -/
def spinClean (w : Word) : Bool :=
  let m := (fld w 26 6).toNat
  (decide (1 ≤ m) && decide (m ≤ 0x19)) || m == 0x20 || (m == 0x28 && fld w 8 2 == 2#2)

/-- The word issues: the strands note whether it may stand in a repeating iteration. -/
def noteWord (s : State) (w : Word) : State :=
  let s := { s with issue := { s.issue with word := w } }
  if spinClean w then s
  else modStrands s (active s) (fun t => { t with spin := { t.spin with clean := false } })

/-! ## Time (R329, R331, R339) -/

/-- A group has no strand that could issue, and one waits at FJOIN; or all its strands have exited. -/
def groupAtJoin (s : State) (g : Nat) : Bool :=
  let ks := strandsOfGroup g
  ks.all (fun k => (strandAt s k).wait == .exited) ||
  (((groupAt? s g).map (fun x => ks.all (fun k => !strandAble s x k))).getD true &&
    ks.any (fun k => match (strandAt s k).wait with | .cond (.forkZero ..) _ => true | _ => false))

/-- A task waits on forked work that cannot start (R125), but for the time that this lasts. -/
def forkStuck (s : State) (tk : Nat) : Bool :=
  decide (16 ≤ ((s.tasks.filter (fun e => e.1 / 16 == tk / 16)).length)) &&
  (match AMap.get? s.tasks tk with
   | none => false
   | some t => !(AMap.getD (coreAt s (tk / 32)).deque t.ctx.toNat []).isEmpty && t.groups.all (groupAtJoin s))

/-- A monitor-parked strand wakes at the 65,536th cycle: it issues again, and its core drops its snapshot (R127, R269). -/
def wakeByTime (s : State) (k : Nat) : State :=
  match (strandAt s k).wait with
  | .monitor .. =>
    acquire (modStrand s k (fun t => { t with wait := .run })) (coreOfStrand k)
  | _ => s

/-- The strands whose monitors have lasted 65,536 cycles (R131). -/
def overdue (s : State) : List Nat :=
  (s.strands.filter (fun e => match e.2.wait with | .monitor _ since => decide (since + 65536 ≤ s.now) | _ => false)).map (·.1)

/-- A context issues: it is placed, and in RESIDENT mode its bank issues on one of its clusters (R321). -/
def ctxIssues (s : State) (ctx : CtxId) (c : Ctx) : Bool :=
  c.clusters.any (fun x =>
    let k := clusterAt s x.toNat
    !k.resident || (if k.bank = 0 then k.lower else k.upper) == some ctx)

/-- The last task of a context that is to be saved has stopped issuing (R332, R333, R339). -/
def stopsIssuing (s : State) (ctx : CtxId) (c : Ctx) : Bool :=
  c.plan.isSome && c.clusters.all (fun x => (clusterAt s x.toNat).preempt.contains ctx) &&
    s.tasks.all (fun e => e.2.ctx != ctx || (e.2.saving && (strandsOfTask e.2).all (fun k => (strandAt s k).locks.isEmpty)))

/-- Cycles of a context: its virtual time runs while it is resident, until it freezes for a save; its slice while it issues
(R331, R339). -/
def countCtx (s : State) (ctx : CtxId) (n : Nat) (c : Ctx) : Ctx :=
  if c.clusters.isEmpty then c
  else
    let frozen := c.vtFrozen || stopsIssuing s ctx c
    let c1 := { c with vtFrozen := frozen, vtCycles := if frozen then c.vtCycles else c.vtCycles + n }
    if ctxIssues s ctx c then
      { c1 with sliceCycles := c.sliceCycles + n }
    else c1

/-- The counters that cycles advance: the virtual time and the slices of contexts, and the budget of every
task that has issued and whose bank issues (DESIGN CHOICE: log 74). -/
def countCycles (s : State) (n : Nat) : State :=
  { s with
    now := s.now + n
    groups := s.groups.map (fun e =>
      (e.1, { e.2 with fjoinSince := if forkStuck s e.2.task then some (e.2.fjoinSince.getD s.now) else none }))
    ctxs := s.ctxs.map (fun e => (e.1, countCtx s (BitVec.ofNat 12 e.1) n e.2))
    tasks := s.tasks.map (fun e =>
      if e.2.budgetOn && bankIssues s (e.1 / 32) (e.1 % 32 / 16) then (e.1, { e.2 with budgetLeft := e.2.budgetLeft - n })
      else e)
    fab := { s.fab with
      time := s.fab.time + 10 * n
      ports := s.fab.ports.map (fun e =>
        (e.1, idlePort (s.fab.time + 10 * n) (portFlits s.fab.time (s.fab.time + 10 * n) (2 * n + 2) e.2))) } }

/-- Cycles pass: the counters and the fabric's time base advance, ports send flits, the mesh moves its messages, monitors end that
have lasted their time, and coppiced tasks whose fork counters read zero enter their re-admission queues (R125, R131, R375, R378,
R379). -/
def elapse (s : State) (n : Nat) : State :=
  let s1 := meshCycle (countCycles s n)
  forkReady ((overdue s1).foldl wakeByTime s1)

/-! ## The next issue -/

/-- The issue quarters that have a ready group, as core × 8 + bank × 4 + quarter. -/
def readyQuarters (s : State) : List Nat :=
  (s.groups.filter (fun e => bankIssues s (e.1 / 32) (e.1 % 32 / 16) && !(readyLanes s e.1).isEmpty)).map
    (fun e => e.1 / 16 * 4 + e.1 % 4)

/-- The least number of a list above a bound. -/
def leastFrom (bound : Nat) (l : List Nat) : Option Nat :=
  l.foldl (fun b x => if bound ≤ x then some (match b with | none => x | some y => min x y) else b) none

/-- The quarter that issues next: each in turn. All quarters issue in every cycle; the model lets one after the other
(DESIGN CHOICE: log 2). -/
def pickQuarter? (s : State) : Option Nat :=
  let r := readyQuarters s
  match leastFrom s.nextQuarter r with
  | some q => some q
  | none => leastFrom 0 r

/-- What the part's issue does next. -/
inductive Issued where
  /-- No group is ready. -/
  | idle
  /-- The fetch parked the group or trapped, or the word is not an instruction. -/
  | stop (s : State)
  /-- An instruction issues. -/
  | run (i : Instr) (s : State)

/-- An issue is counted for its context, by the word's OP (R331). -/
def countIssue (s : State) (w : Word) : State :=
  match issuer? s with
  | some (_, t) => addActivity s t.ctx (w.toNat / 2 ^ 26) 1
  | none => s

/-- The chosen group's word is fetched and decoded; a word that is not an instruction raises ILLEGAL with no other
effect (R82). -/
def fetchIssue (s : State) : Issued :=
  match fetch s with
  | .stop s => .stop s
  | .word s w =>
    let s := noteWord s w
    match issuedInstr s w with
    | some i => .run i (countIssue s w)
    | none => .stop (raiseFirst s cILLEGAL (w.setWidth 64))

/-- The next issue of the part. Issue is gated while power or temperature is above its limit (R412). -/
def nextIssue (s : State) : Issued :=
  if s.mgmt.gated then .idle
  else
    match pickQuarter? s with
    | none => .idle
    | some q =>
      match chooseSlot s (q / 8) (q / 4 % 2) (q % 4) with
      | none => .idle
      | some slot => fetchIssue (beginIssue { s with nextQuarter := q + 1 } (q / 8) (q / 4 % 2) slot)

/-! ## Placing an instruction where the next step fetches it -/

/-- The task that runs a placed instruction. -/
def placedTask : Task :=
  { uid := 0, taskId := 0, ctx := 1, supv := false,
    work := .message { kind := .task, dw := 0, peer := none, core := 0, ctx := 1, slot := 0, supv := false,
                       vnet := .req, origin := ⟨none, 0, 1, none⟩, id := 0, a0 := 0, a1 := 0, payload := [],
                       trap := none, serial := 0 }
    fromCore := 0, groups := [0], winBase := 0, winUnits := 32, domain := 0, msgId := 0, spinCount := 0, trap := none,
    held := [], refused := false, discardWork := false, budget := 0, budgetLeft := 0, budgetTrap := false, budgetOn := false,
    expired := false, bars := [], saving := false, stopping := false }

/-- A strand of a placed task. -/
def placedStrand : Strand := { Strand.init with priv := 2, wait := .run }

/-- A leaf that maps the first page of context 1 to the first page of HBM. -/
def placedLeaf : Leaf := ⟨false, true, false, 0xF, 0, 0, none, 0⟩

/-- Puts one strand of a task of context 1 on core 0, at address 0 of a page that is mapped to the first page of HBM;
the task's other strands have exited. Its group is the next to issue, and the features that gate instructions are
active. -/
def placeStrand (s : State) : State :=
  { s with
    strands := (List.range 32).foldl
      (fun m l => AMap.put m l (if l = 0 then placedStrand else Strand.init)) s.strands
    groups := AMap.put s.groups 0 ⟨0, 0, 0, none, none, none⟩
    tasks := AMap.put s.tasks 0 { placedTask with uid := s.uid }
    uid := s.uid + 1
    ctxs := AMap.put s.ctxs 1 { Ctx.fresh 0 with clusters := [0] }
    parts := AMap.erase s.parts 0
    clusters := AMap.put s.clusters 0 { clusterAt s 0 with lower := some 1, upper := none, resident := false }
    cores := AMap.put s.cores 0 { coreAt s 0 with icache := [], lastSlot := [] }
    tlbs := AMap.put (AMap.put s.tlbs 0 []) 256 []
    map := { s.map with leaf3 := AMap.put s.map.leaf3 (2 ^ 33) placedLeaf,
                        leaf2 := AMap.erase s.map.leaf2 (2 ^ 22), migrations := [], tables := [], stopped := false }
    badLines := AMap.erase s.badLines 0
    mgmt := { s.mgmt with actFeat := 0xFF, stopped := false, gated := false }
    agenda := [], favor := false, nextQuarter := 2 ^ 32 }

end Sys2Proof.Machine
end

