-- ==== Sys2Proof/Machine/Operands.lean ====
section
/-! DEFINITION. Operand forms: results written in every strand of S or once for the group, comparison conditions,
immediates, effective addresses, and the checks that instructions share (R34, R71, R86, R87, R94, R173). -/

namespace Sys2Proof.Machine

/-! ## Results in registers (R86) -/

/-- Writes s[d] in every strand of S; f gives each strand's value from the state before the instruction. -/
def writeS (s : State) (d : SReg) (f : Nat → Word) : State := (active s).foldl (fun x k => setS x k d (f k)) s

/-- Writes p[d] in every strand of S. -/
def writeP (s : State) (d : Reg3) (f : Nat → Bool) : State := (active s).foldl (fun x k => setP x k d (f k)) s

/-- Writes the pair of an even register in every strand of S. -/
def writePair (s : State) (d : BitVec 5) (f : Nat → DWord) : State :=
  (active s).foldl (fun x k => setPair x k (evenReg d) (f k)) s

/-- A register instruction of one scalar result: every strand of S gets its value and continues. -/
def resS (s : State) (d : SReg) (f : Nat → Word) : Out State := .next (advance (writeS s d f))

/-- A register instruction of one predicate result. -/
def resP (s : State) (d : Reg3) (f : Nat → Bool) : Out State := .next (advance (writeP s d f))

/-- A register instruction of one pair result. -/
def resPair (s : State) (d : BitVec 5) (f : Nat → DWord) : Out State := .next (advance (writePair s d f))

/-- A register instruction of one uniform result, written once (R18). -/
def resG (s : State) (d : GReg) (v : DWord) : Out State := .next (advance (setG s (gk s) d v))

/-- A scalar operation on s[A] and s[B]. -/
def op2 (s : State) (d a b : SReg) (f : Word → Word → Word) : Out State :=
  resS s d (fun k => f (getS s k a) (getS s k b))

/-- A scalar operation on s[A]. -/
def op1 (s : State) (d a : SReg) (f : Word → Word) : Out State := resS s d (fun k => f (getS s k a))

/-- A predicate operation on p[A] and p[B]. -/
def pop2 (s : State) (d a b : Reg3) (f : Bool → Bool → Bool) : Out State :=
  resP s d (fun k => f (getP s k a) (getP s k b))

/-- A uniform operation on g[A] and g[B]. -/
def gop2 (s : State) (d a b : GReg) (f : DWord → DWord → DWord) : Out State :=
  resG s d (f (getG s (gk s) a) (getG s (gk s) b))

/-- A pair operation on the pairs A and B. -/
def wop2 (s : State) (d a b : BitVec 5) (f : DWord → DWord → DWord) : Out State :=
  resPair s d (fun k => f (getPair s k (evenReg a)) (getPair s k (evenReg b)))

/-! ## Shifts (R90, R97, R100) -/

/-- A shift left by a count read as unsigned; 0 from the width on. -/
def shiftLeft {n : Nat} (a : BitVec n) (c : Nat) : BitVec n := if c < n then a <<< c else 0

/-- A shift right with zeros; 0 from the width on. -/
def shiftRight {n : Nat} (a : BitVec n) (c : Nat) : BitVec n := if c < n then a >>> c else 0

/-- A shift right with copies of the sign; all copies from the width on. -/
def shiftArith {n : Nat} (a : BitVec n) (c : Nat) : BitVec n := a.sshiftRight (min c n)

/-! ## Comparison (R71, R94) -/

/-- The integer condition of a code; the codes 0xA to 0xF are not encodings. -/
def intCond (c : BitVec 4) (a b : Word) : Bool :=
  match c.toNat with
  | 0 => a == b
  | 1 => a != b
  | 2 => a.slt b
  | 3 => a.sle b
  | 4 => b.slt a
  | 5 => b.sle a
  | 6 => a.ult b
  | 7 => a.ule b
  | 8 => b.ult a
  | _ => b.ule a

/-- What the destination receives from a comparison result: COMB, CNEG and CPRED of the CMB field (R71). -/
def combine (s : State) (k : Nat) (m : BitVec 6) (c : Bool) : Bool :=
  let q := getP s k (m.extractLsb' 0 3) != m.getLsbD 3
  match (m.extractLsb' 4 2).toNat with
  | 1 => c && q
  | 2 => c || q
  | _ => c

/-! ## Effective addresses (R173) -/

/-- The effective address of an M-format access of n bytes: g[G] + sext(s[X], 64) + n × sext(IMM4, 64), mod 2^64. -/
def ea (s : State) (k : Nat) (g : GReg) (x : SReg) (n : Nat) (i : BitVec 4) : DWord :=
  getG s (gk s) g + (getS s k x).signExtend 64 + BitVec.ofNat 64 n * i.signExtend 64

/-- The effective address of an A-format access: g[G] + sext(s[X], 64), mod 2^64. -/
def eaA (s : State) (k : Nat) (g : GReg) (x : SReg) : DWord := getG s (gk s) g + (getS s k x).signExtend 64

/-- The first strand of S for which a test finds something. -/
def firstOf {β : Type} (s : State) (f : Nat → Option β) : Option (Nat × β) :=
  (active s).findSome? (fun k => (f k).map (fun b => (k, b)))

/-! ## Checks that instructions share -/

/-- The lowest-numbered strand of S below a privilege level. -/
def below? (s : State) (p : BitVec 2) : Option Nat := (active s).find? (fun k => (privOf s k).ult p)

/-- An instruction for a privilege level and above: below it PRIV, with a value, and no other effect (R34, R257). -/
def needPrivAt (s : State) (p : BitVec 2) (value : DWord) (go : Out State) : Out State :=
  match below? s p with
  | some k => .next (raiseTrap s cPRIV value k)
  | none => go

/-- As `needPrivAt`, for the majors that act once for their group: the record names the lowest-numbered strand of S
(R230). -/
def needPrivFirst (s : State) (p : BitVec 2) (value : DWord) (go : Out State) : Out State :=
  match below? s p with
  | some _ => .next (raiseFirst s cPRIV value)
  | none => go

/-- As `needPrivAt`, with the instruction word as the value. -/
def needPriv (s : State) (p : BitVec 2) (go : Out State) : Out State :=
  needPrivAt s p (s.issue.word.setWidth 64) go

end Sys2Proof.Machine
end

