-- ==== Sys2Proof/Machine/Control.lean ====
section
/-! DEFINITION. Control flow: branches, jumps, calls, join masks, EXIT, FORK and FJOIN, and the parking of a strand whose
iterations repeat (R110 to R118, R120 to R123, R128). -/

namespace Sys2Proof.Machine

/-! ## Repeating iterations (R128) -/

/-- The registers of a strand that R128 compares, and that a fork copies (R121). -/
def laneRegs (s : State) (k : Nat) : LaneRegs :=
  { s := getRegs s k 0 64, p := Sparse.read s.rf.p k, ff := (strandAt s k).ff, priv := (strandAt s k).priv }

/-- g0 to g31 of a group. -/
def groupRegs (s : State) (g : Nat) : List DWord := (List.range 32).map (fun n => getG s g (BitVec.ofNat 5 n))

/-- Two lines of one space. -/
def MonLine.sameSpace : MonLine → MonLine → Bool
  | .global _, .global _ => true
  | .core _, .core _ => true
  | .cluster _, .cluster _ => true
  | _, _ => false

/-- Two last loads of the same address, in one space, and value. -/
def sameLoad : Option LastLd → Option LastLd → Bool
  | some a, some b => a.line.sameSpace b.line && a.addr == b.addr && a.value == b.value
  | _, _ => false

/-- The iteration that ends here repeats the previous one (R128). -/
def repeats (now : SpinEnd) (r : SpinRec) : Bool :=
  match r.prev with
  | none => false
  | some p =>
    r.clean && p.pc == now.pc && p.target == now.target && p.regs == now.regs && p.g == now.g && sameLoad p.ld now.ld

/-- Parks a strand on a monitor of a line and counts it in SPINCOUNT (R126). -/
def parkMonitor (s : State) (k : Nat) (line : MonLine) : State :=
  let s := modStrand s k (fun t => { t with wait := .monitor line s.now })
  match AMap.get? s.groups (k / 32) with
  | none => s
  | some g => modTask s g.task (fun t => { t with spinCount := t.spinCount + 1 })

/-- The end of an iteration of a strand at a backward branch: the strand parks when the iteration repeats, unless a wake
event for the line has occurred since its load (R126, R128). -/
def endIteration (s : State) (k : Nat) (pc target : VAddr) : State :=
  let r := (strandAt s k).spin
  let now : SpinEnd := ⟨pc, target, laneRegs s k, groupRegs s (k / 32), r.ld⟩
  let s' := modStrand s k (fun t => { t with spin := ⟨true, none, some now⟩ })
  if repeats now r then
    match r.ld with
    | some d => if d.woken then s' else parkMonitor s' k d.line
    | none => s'
  else s'

/-- A strand takes a branch; one to its own address or below ends an iteration (R128). -/
def takeBranch (s : State) (pc target : VAddr) (k : Nat) : State :=
  let s := modStrand s k (fun t => { t with pc := target, wait := .run })
  if target.toNat ≤ pc.toNat then endIteration s k pc target else s

/-! ## Branches, jumps and calls (R110 to R113) -/

/-- The target at a signed word offset from the instruction. -/
def offsetFrom {n : Nat} (s : State) (o : BitVec n) : VAddr := s.issue.pc + o.signExtend 52 * 4

/-- Branches the strands whose guard is true (R110). -/
def execBra (n : BitVec 1) (p : Reg3) (o : BitVec 22) (s : State) : Out State :=
  .next (forActive s (fun x k =>
    if getP s k p != (n == 1) then takeBranch x s.issue.pc (offsetFrom s o) k
    else modStrand x k (fun t => { t with pc := nextPc s, wait := .run })))

/-- Jumps PC-relative (R111). -/
def execJmp (o : BitVec 26) (s : State) : Out State :=
  .next (forActive s (fun x k => takeBranch x s.issue.pc (offsetFrom s o) k))

/-- Every strand of S continues at its own target. -/
def goTo (s : State) (target : Nat → VAddr) : State :=
  (active s).foldl (fun x k => modStrand x k (fun t => { t with pc := target k, wait := .run })) s

/-- The link: the low 32 bits of the return address. -/
def link (s : State) : Word := (nextPc s).setWidth 32

/-- Writes the link to s63 and jumps PC-relative (R111). -/
def execJal (o : BitVec 26) (s : State) : Out State :=
  .next (goTo (writeS s 63 (fun _ => link s)) (fun _ => offsetFrom s o))

/-- The target in s[A], in the 4 GiB region of the instruction (R112). -/
def scalarTarget (s : State) (a : SReg) (k : Nat) : VAddr := s.issue.pc.extractLsb' 32 20 ++ getS s k a

/-- A jump to scalar targets, after the check of their alignment. -/
def jumpScalar (s : State) (a : SReg) (go : State) : Out State :=
  match (active s).find? (fun k => (scalarTarget s a k).extractLsb' 0 2 != 0) with
  | some k => .next (raiseTrap s cALIGN ((scalarTarget s a k).setWidth 64) k)
  | none => .next go

/-- Jumps to a scalar target (R112). -/
def execJr (a : SReg) (s : State) : Out State := jumpScalar s a (goTo s (scalarTarget s a))

/-- Links and jumps to a scalar target read before the link is written (R112). -/
def execJalr (d a : SReg) (s : State) : Out State :=
  jumpScalar s a (goTo (writeS s d (fun _ => link s)) (scalarTarget s a))

/-- A jump to a uniform target, after its checks (R112). -/
def jumpUniform (s : State) (a : GReg) (go : State) : Out State :=
  let v := getG s (gk s) a
  if v.extractLsb' 0 2 != 0 then .next (raiseFirst s cALIGN ((v.setWidth 52).setWidth 64))
  else if v.extractLsb' 52 12 != 0 then .next (raiseFirst s cPROT v)
  else .next go

/-- The target in g[A]. -/
def uniformTarget (s : State) (a : GReg) : VAddr := (getG s (gk s) a).setWidth 52

/-- Jumps to a uniform-register target (R112). -/
def execJrG (a : GReg) (s : State) : Out State := jumpUniform s a (goTo s (fun _ => uniformTarget s a))

/-- Links and jumps to a uniform-register target (R112). -/
def execJalrG (d : SReg) (a : GReg) (s : State) : Out State :=
  jumpUniform s a (goTo (writeS s d (fun _ => link s)) (fun _ => uniformTarget s a))

/-! ## Join masks (R114 to R118) -/

/-- The key of the issuing group's join mask. -/
def joinOf (s : State) (j : Reg3) : JoinMask := getJ s (gk s) j.toNat

/-- Arms a join mask with S and a join PC; JOINFAULT when strands wait at it (R114) (DEDUCED: log 76). -/
def execJarm (j : Reg3) (i : BitVec 20) (s : State) : Out State :=
  let m := joinOf s j
  if m.waiting ≠ 0 then .next (raiseFirst s cJOINFAULT (m.waiting.setWidth 64))
  else .next (advance (setJ s (gk s) j.toNat ⟨s.issue.mask, offsetFrom s i, 0⟩))

/-- The lanes of a group that have not exited. -/
def livingLanes (s : State) (g : Nat) : Word :=
  maskOf ((List.range 32).filter (fun l => (strandAt s (g * 32 + l)).wait != .exited))

/-- Sets the lane mask from s[A] of the lowest-numbered strand, without exited lanes; the join PC stays (R115). -/
def execJset (j : Reg3) (a : SReg) (s : State) : Out State :=
  let m := joinOf s j
  if m.waiting ≠ 0 then .next (raiseFirst s cJOINFAULT (m.waiting.setWidth 64))
  else
    let v := getS s (firstActive s) a &&& livingLanes s (gk s)
    .next (advance (setJ s (gk s) j.toNat { m with mask := v }))

/-- Reads the lane mask of a join mask (R115). -/
def execJget (j : Reg3) (d : SReg) (s : State) : Out State :=
  let v := (joinOf s j).mask
  resS s d (fun _ => v)

/-- A join mask all of whose lanes wait releases them and empties; its join PC is kept (R116). -/
def releaseJoin (s : State) (g : Nat) (n : Nat) : State :=
  let m := getJ s g n
  if m.waiting = m.mask then
    let ks := (lanesOf m.waiting).map (fun l => g * 32 + l)
    setJ (modStrands s ks (fun t => { t with pc := t.pc + 4, wait := .run })) g n { m with mask := 0, waiting := 0 }
  else s

/-- Holds the strands of the mask until all have arrived; others pass (R116). -/
def execJoin (j : Reg3) (s : State) : Out State :=
  let m := joinOf s j
  if s.issue.pc ≠ m.pc then .next (raiseFirst s cJOINFAULT (m.pc.setWidth 64))
  else
    let pass := (lanes s).filter (fun l => !m.mask.getLsbD l)
    let arrive := (lanes s).filter (fun l => m.mask.getLsbD l)
    let s1 := modStrands s (pass.map (skey s)) (fun t => { t with pc := t.pc + 4, wait := .run })
    let s2 := modStrands s1 (arrive.map (skey s)) (fun t => { t with wait := .join j.toNat })
    let s3 := setJ s2 (gk s) j.toNat { m with waiting := m.waiting ||| (s.issue.mask &&& m.mask) }
    .next (releaseJoin s3 (gk s) j.toNat)

/-! ## EXIT (R117) -/

/-- Clears lanes in the lane mask of one join mask, and releases it when the waiting strands are then all of it. -/
def leaveJoin (ls : Word) (g : Nat) (s : State) (n : Nat) : State :=
  let m := getJ s g n
  let m' : JoinMask := { m with mask := m.mask &&& ~~~ls }
  let s := if m.mask &&& ls = 0 then s else setJ s g n m'
  if m'.waiting ≠ 0 then releaseJoin s g n else s

/-- Releases locks, clears the lanes from the join masks, releases joins and barriers that this completes, and ends the
strands (R117, R427). -/
def execExit (s : State) : Out State :=
  let s1 := forActive s dropLocks
  let s2 := (List.range 8).foldl (leaveJoin s.issue.mask (gk s)) s1
  let s3 := modStrands s2 (active s) (fun t => { t with wait := .exited, spin := Strand.init.spin })
  match AMap.get? s.groups (gk s) with
  | none => .next s3
  | some g => .next (checkBars s3 (clusterOfCore s.issue.core) g.task)

/-! ## Releases and the fork counter (R120, R123) -/

/-- Waits until nothing of the strands of S is outstanding that a release waits for, raises a deferred fault if one of
them holds it, and otherwise goes on (R181, R195, R433). -/
def releasing (s : State) (go : Out State) : Out State :=
  if condHolds s (.released (active s)) then
    match deferredOf? s with
    | some (k, d) => .next (raiseDeferred s k d)
    | none => go
  else .next (waitFor s (active s) (.released (active s)))

/-- The checks of a fork counter at s[A] of the lowest-numbered strand of S: its address in the cluster window, or the
trap (R120). -/
def withCounter (s : State) (a : SReg) (go : Nat → Task → Out State) : Out State :=
  match issuer? s with
  | none => .next s
  | some (_, t) =>
    let off := getS s (firstActive s) a
    let cl := clusterOfCore s.issue.core
    if off.extractLsb' 0 2 != 0 then .next (raiseFirst s cALIGN (off.setWidth 64))
    else if cluLimit s cl < off.toNat + 4 then .next (raiseFirst s cWINDOW (off.setWidth 64))
    else
      match clusterShare? s cl t.ctx with
      | none => .next (raiseFirst s cPROT (off.setWidth 64))
      | some (base, _, _) => go (cl * 2 ^ 23 + base + off.toNat) t

/-- The start image of a forked task (R121). -/
def forkImage (s : State) (t : Task) (target : VAddr) (addr : Nat) : ForkImage :=
  { ctx := t.ctx, lanes := (lanes s).map (fun l => (l, laneRegs s (skey s l))), g := groupRegs s (gk s),
    h := (List.range 8).map (fun n => getH s (gk s) (BitVec.ofNat 3 n)), pc := target, id := t.msgId,
    domain := t.domain, home := BitVec.ofNat 5 (clusterOfCore s.issue.core), off := addr, core := s.issue.core }

/-- Releases, increments the fork counter and pushes a one-group task onto the deque (R120). -/
def execFork (a : SReg) (o : BitVec 19) (s : State) : Out State :=
  withCounter s a (fun addr t =>
    if condHolds s (.dequeRoom s.issue.core t.ctx) then
      releasing s (
        let image := forkImage s t (offsetFrom s o) addr
        let s1 := publish s s.issue.core
        let s2 := winWrite s1 true addr (bytesOf 4 (Mem.nat s1.cluwin addr 4 + 1))
        let s3 := modCore s2 s.issue.core (fun c =>
          { c with deque := AMap.put c.deque t.ctx.toNat
                      (AMap.getD c.deque t.ctx.toNat [] ++ [⟨.fork image, s.now, none⟩]) })
        .next (advance s3))
    else .next (waitFor s (active s) (.dequeRoom s.issue.core t.ctx)))

/-- Waits for the fork counter to read zero, then acquires (R123). -/
def execFjoin (a : SReg) (s : State) : Out State :=
  withCounter s a (fun addr _ =>
    let c : Cond := .forkZero (clusterOfCore s.issue.core) addr
    if condHolds s c then .next (advance (acquire s s.issue.core))
    else .next (waitFor s (active s) c))

end Sys2Proof.Machine
end

