-- ==== Sys2Proof/Machine/Float.lean ====
section
/-! DEFINITION. Number formats and exact arithmetic: the values of bit patterns, rounding and conversion, the KX block
formats (R133 to R148), and the correctly rounded functions of R165. -/

namespace Sys2Proof.Machine

/-! ## Values -/

/-- An exact value: a NaN, an infinity, or (−1)^neg × m × 2^e. -/
inductive Fp where
  | nan (signalling : Bool)
  | inf (neg : Bool)
  | fin (neg : Bool) (m : Nat) (e : Int)
  deriving DecidableEq, Repr

/-- A binary floating format: exponent and fraction widths, and whether it is E4M3, which has no infinity (R136). -/
structure FpFmt where
  eb : Nat
  fb : Nat
  e4m3 : Bool
  deriving DecidableEq, Repr

def f32 : FpFmt := ⟨8, 23, false⟩
def f16 : FpFmt := ⟨5, 10, false⟩
def bf16 : FpFmt := ⟨8, 7, false⟩
def e4m3 : FpFmt := ⟨4, 3, true⟩
def e5m2 : FpFmt := ⟨5, 2, false⟩

/-- The exponent bias (R133, R136, R137). -/
def FpFmt.bias (f : FpFmt) : Nat := 2 ^ (f.eb - 1) - 1

/-- The sign bit's place. -/
def FpFmt.sign (f : FpFmt) : Nat := f.eb + f.fb

/-- The magnitude pattern of infinity. -/
def FpFmt.infBits (f : FpFmt) : Nat := (2 ^ f.eb - 1) * 2 ^ f.fb

/-- The magnitude pattern of the largest finite value. -/
def FpFmt.maxBits (f : FpFmt) : Nat := if f.e4m3 then 0x7E else f.infBits - 1

/-- The canonical NaN (R135). -/
def FpFmt.nanBits (f : FpFmt) : Nat := if f.e4m3 then 0x7F else f.infBits + 2 ^ (f.fb - 1)

/-- The pattern with a sign. -/
def FpFmt.signed (f : FpFmt) (neg : Bool) (mag : Nat) : Nat := if neg then mag + 2 ^ f.sign else mag

/-- The value of a pattern (R133, R136, R137). -/
def FpFmt.value (f : FpFmt) (bits : Nat) : Fp :=
  let neg := bits / 2 ^ f.sign % 2 == 1
  let mag := bits % 2 ^ f.sign
  let ex := mag / 2 ^ f.fb
  let fr := mag % 2 ^ f.fb
  if mag > f.maxBits then
    if !f.e4m3 && fr == 0 then .inf neg else .nan (decide (fr < 2 ^ (f.fb - 1)))
  else if ex = 0 then .fin neg fr (1 - (f.bias : Int) - f.fb)
  else .fin neg (2 ^ f.fb + fr) ((ex : Int) - f.bias - f.fb)

/-! ## Flags of a result: NX 0, UF 1, OF 2, DZ 3, NV 4 (R161) -/

/-- A set of flags. -/
abbrev FFlags := BitVec 5

def fNX : FFlags := 1
def fUF : FFlags := 2
def fOF : FFlags := 4
def fDZ : FFlags := 8
def fNV : FFlags := 16

/-! ## Rounding (R139) -/

/-- A rounding mode. -/
inductive Rm where
  | rne
  | rtz
  | rup
  | rdn
  deriving DecidableEq, Repr

/-- The mode of a two-bit code (R74, R75). -/
def rmOf (m : BitVec 2) : Rm := match m.toNat with | 0 => .rne | 1 => .rtz | 2 => .rup | _ => .rdn

/-- Bits of a number. -/
def bitLen (m : Nat) : Nat := if m = 0 then 0 else Nat.log2 m + 1

/-- The quotient of a magnitude by 2^k rounded to an integer, and whether it is inexact. -/
def roundShift (rm : Rm) (neg : Bool) (m k : Nat) : Nat × Bool :=
  let q := m / 2 ^ k
  let r := m % 2 ^ k
  let up :=
    match rm with
    | .rne => decide (2 ^ k < 2 * r) || (decide (2 ^ k = 2 * r) && q % 2 == 1)
    | .rtz => false
    | .rup => !neg && r != 0
    | .rdn => neg && r != 0
  (if up then q + 1 else q, r != 0)

/-- The magnitude pattern of m × 2^e rounded to a format's precision and subnormal spacing with an unbounded exponent
range, and whether it is inexact (R140). -/
def FpFmt.roundMag (f : FpFmt) (rm : Rm) (neg : Bool) (m : Nat) (e : Int) : Nat × Bool :=
  let top : Int := (bitLen m : Int) - 1 + e
  let u : Int := max top (1 - (f.bias : Int)) - f.fb
  let r := if u ≤ e then (m * 2 ^ (e - u).toNat, false) else roundShift rm neg m (u - e).toNat
  let u' : Int := if 2 ^ (f.fb + 1) ≤ r.1 then u + 1 else u
  let n := if 2 ^ (f.fb + 1) ≤ r.1 then r.1 / 2 else r.1
  (if n < 2 ^ f.fb then n else ((u' + f.fb + f.bias).toNat) * 2 ^ f.fb + (n - 2 ^ f.fb), r.2)

/-- The result of an overflow by sign and mode. -/
def FpFmt.overflow (f : FpFmt) (rm : Rm) (neg : Bool) : Nat :=
  let big := match rm with
    | .rne => true
    | .rtz => false
    | .rup => !neg
    | .rdn => neg
  f.signed neg (if big then f.infBits else f.maxBits)

/-- The conversion of a value to a floating format (R140). -/
def FpFmt.convert (f : FpFmt) (rm : Rm) (sat : Bool) : Fp → Nat × FFlags
  | .nan sg => (f.nanBits, if sg then fNV else 0)
  | .inf neg =>
    if sat then (f.signed neg f.maxBits, 0)
    else if f.e4m3 then (f.nanBits, fNV)
    else (f.signed neg f.infBits, 0)
  | .fin neg m e =>
    if m = 0 then (f.signed neg 0, 0)
    else
      let r := f.roundMag rm neg m e
      if f.maxBits < r.1 then
        (if sat then f.signed neg f.maxBits else if f.e4m3 then f.nanBits else f.overflow rm neg, fOF ||| fNX)
      else
        (f.signed neg r.1, (if r.2 then fNX else 0) ||| (if r.2 && decide (r.1 < 2 ^ f.fb) then fUF else 0))

/-- A value rounded to an integer (R139). -/
def roundInt (rm : Rm) (neg : Bool) (m : Nat) (e : Int) : Int × Bool :=
  let r := if 0 ≤ e then (m * 2 ^ e.toNat, false) else roundShift rm neg m (-e).toNat
  (if neg then -(r.1 : Int) else r.1, r.2)

/-- The conversion of a value to INT32 or UINT32 (R140). -/
def convertInt (signed : Bool) (rm : Rm) (x : Fp) : Nat × FFlags :=
  let lo : Int := if signed then -2147483648 else 0
  let hi : Int := if signed then 2147483647 else 4294967295
  let bits := fun (v : Int) => (BitVec.ofInt 32 v).toNat
  match x with
  | .nan _ => (0, fNV)
  | .inf neg => (bits (if neg then lo else hi), fNV)
  | .fin neg m e =>
    let r := roundInt rm neg m e
    if r.1 < lo then (bits lo, fNV)
    else if hi < r.1 then (bits hi, fNV)
    else (bits r.1, if r.2 then fNX else 0)

/-- The saturating conversion of an engine to INT8 or UINT8, in RNE; a NaN gives 0 (R142). -/
def convertByte (signed : Bool) (x : Fp) : Nat :=
  let lo : Int := if signed then -128 else 0
  let hi : Int := if signed then 127 else 255
  let clamp := fun (v : Int) => (BitVec.ofInt 8 (max lo (min hi v))).toNat
  match x with
  | .nan _ => 0
  | .inf neg => clamp (if neg then lo else hi)
  | .fin neg m e => clamp (roundInt .rne neg m e).1

/-- The format of a floating code of R74 and R219. -/
def fmtOf (code : Nat) : FpFmt :=
  match code with
  | 0 => f32
  | 1 => f16
  | 2 => bf16
  | 3 => e4m3
  | _ => e5m2

/-- An integer as a value. -/
def fpOfInt (v : Int) : Fp := .fin (decide (v < 0)) v.natAbs 0

/-- The value of a register or an element in a format of R74 or R219: codes 0 to 4 floating, 5 INT32, 6 and 7 as the
caller's own byte or word forms. -/
def valueOf (code bits : Nat) : Fp :=
  if code = 5 then fpOfInt (BitVec.ofNat 32 bits).toInt else (fmtOf code).value bits

/-! ## Exact arithmetic -/

def Fp.isNan : Fp → Bool
  | .nan _ => true
  | _ => false

def Fp.isSnan : Fp → Bool
  | .nan s => s
  | _ => false

/-- NV when an operand is a signalling NaN (R162). -/
def snanFlag (xs : List Fp) : FFlags := if xs.any Fp.isSnan then fNV else 0

/-- A signed magnitude scaled up to an exponent below its own. -/
def scaled (neg : Bool) (m : Nat) (e base : Int) : Int :=
  let v : Int := (m * 2 ^ (e - base).toNat : Nat)
  if neg then -v else v

/-- The exact product of two values, a NaN when one is; none for 0 × ∞. -/
def mulExact : Fp → Fp → Option Fp
  | .inf n, .inf k => some (.inf (n != k))
  | .inf n, .fin k m _ => if m = 0 then none else some (.inf (n != k))
  | .fin n m _, .inf k => if m = 0 then none else some (.inf (n != k))
  | .fin n m e, .fin k m' e' => some (.fin (n != k) (m * m') (e + e'))
  | .nan q, _ => some (.nan q)
  | _, .nan q => some (.nan q)

/-- The exact sum of two values that are no NaNs; none for ∞ − ∞. An exact zero is negative when both are negative
zeros, or in RDN when the signs differ or the operands cancel (R163, R166). -/
def addExact (rm : Rm) : Fp → Fp → Option Fp
  | .inf n, .inf k => if n = k then some (.inf n) else none
  | .inf n, _ => some (.inf n)
  | _, .inf k => some (.inf k)
  | .fin n m e, .fin k m' e' =>
    let base := min e e'
    let v := scaled n m e base + scaled k m' e' base
    if v = 0 then
      some (.fin (if m = 0 ∧ m' = 0 ∧ n = k then n else decide (rm = .rdn)) 0 0)
    else some (.fin (decide (v < 0)) v.natAbs base)
  | a, _ => some a

/-- An operation's result: a NaN operand or an invalid operation gives the canonical NaN (R162). -/
def finish (f : FpFmt) (rm : Rm) (args : List Fp) (r : Option Fp) : Nat × FFlags :=
  if args.any Fp.isNan then (f.nanBits, snanFlag args)
  else
    match r with
    | none => (f.nanBits, fNV)
    | some v => f.convert rm false v

/-- The negative of a value. -/
def Fp.neg : Fp → Fp
  | .nan s => .nan s
  | .inf n => .inf (!n)
  | .fin n m e => .fin (!n) m e

def fpAdd (f : FpFmt) (a b : Nat) : Nat × FFlags :=
  let x := f.value a
  let y := f.value b
  finish f .rne [x, y] (addExact .rne x y)

def fpSub (f : FpFmt) (a b : Nat) : Nat × FFlags :=
  let x := f.value a
  let y := f.value b
  finish f .rne [x, y] (addExact .rne x y.neg)

def fpMul (f : FpFmt) (a b : Nat) : Nat × FFlags :=
  let x := f.value a
  let y := f.value b
  finish f .rne [x, y] (mulExact x y)

/-- The fused multiply-add (R166): 0 × ∞ is invalid even when c is a quiet NaN. -/
def fpFma (f : FpFmt) (rm : Rm) (a b c : Nat) : Nat × FFlags :=
  let x := f.value a
  let y := f.value b
  let z := f.value c
  if x.isNan || y.isNan then (f.nanBits, snanFlag [x, y, z])
  else
    match mulExact x y with
    | none => (f.nanBits, fNV)
    | some p => finish f rm [z] (addExact rm p z)

/-- A pattern as an integer that orders numbers; −0 below +0 when asked. -/
def FpFmt.order (f : FpFmt) (split : Bool) (bits : Nat) : Int :=
  let mag : Int := (bits % 2 ^ f.sign : Nat)
  if bits / 2 ^ f.sign % 2 = 1 then (if split then -mag - 1 else -mag) else mag

/-- Minimum and maximum (R164). -/
def fpMinMax (f : FpFmt) (isMax : Bool) (a b : Nat) : Nat × FFlags :=
  let x := f.value a
  let y := f.value b
  let fl := snanFlag [x, y]
  if x.isNan && y.isNan then (f.nanBits, fl)
  else if x.isNan then (b, fl)
  else if y.isNan then (a, fl)
  else
    let less := decide (f.order true b < f.order true a)
    (if less != isMax then b else a, 0)

/-- The comparison of R167: the condition and its flags. -/
def fpCompare (c : BitVec 4) (a b : Nat) : Bool × FFlags :=
  let x := f32.value a
  let y := f32.value b
  let i := f32.order false a
  let j := f32.order false b
  let un := x.isNan || y.isNan
  let quiet := snanFlag [x, y]
  let loud := if un then fNV else 0
  match c.toNat with
  | 0 => (!un && decide (i = j), quiet)
  | 1 => (un || decide (i ≠ j), quiet)
  | 2 => (!un && decide (i < j), loud)
  | 3 => (!un && decide (i ≤ j), loud)
  | 4 => (!un && decide (j < i), loud)
  | 5 => (!un && decide (j ≤ i), loud)
  | 6 => (un, quiet)
  | _ => (!un, quiet)

/-! ## Roots and reciprocals (R165)

A value that is no binary fraction is given by the number of a fine grid just below it, plus half a step: no boundary of
rounding lies strictly between two grid numbers, so the rounding is that of the exact value. -/

/-- A grid number, or the half step above it when the value is not on the grid. -/
def sticky (neg : Bool) (m : Nat) (e : Int) (exact : Bool) : Fp :=
  if exact then .fin neg m e else .fin neg (2 * m + 1) (e - 1)

/-- The integer square root, bit by bit from the top. -/
def isqrtFrom : Nat → Nat → Nat → Nat
  | 0, _, r => r
  | i + 1, n, r => isqrtFrom i n (if (r + 2 ^ i) * (r + 2 ^ i) ≤ n then r + 2 ^ i else r)

def isqrt (bits n : Nat) : Nat := isqrtFrom bits n 0

/-- The reciprocal of m × 2^e, m not zero. -/
def rcpExact (neg : Bool) (m : Nat) (e : Int) : Fp :=
  let q := 2 ^ 220 / m
  sticky neg q (-220 - e) (decide (q * m = 2 ^ 220))

/-- A magnitude with an even exponent. -/
def evenExp (m : Nat) (e : Int) : Nat × Int := if e % 2 = 0 then (m, e) else (2 * m, e - 1)

/-- The square root of m × 2^e. -/
def sqrtExact (m : Nat) (e : Int) : Fp :=
  let p := evenExp m e
  let n := p.1 * 2 ^ 160
  let r := isqrt 96 n
  sticky false r (p.2 / 2 - 80) (decide (r * r = n))

/-- The reciprocal of the square root of m × 2^e, m not zero. -/
def rsqExact (m : Nat) (e : Int) : Fp :=
  let p := evenExp m e
  let r := isqrt 104 (2 ^ 200 / p.1)
  sticky false r (-100 - p.2 / 2) (decide (r * r * p.1 = 2 ^ 200))

def fpRcp (a : Nat) : Nat × FFlags :=
  match f32.value a with
  | .nan s => (f32.nanBits, if s then fNV else 0)
  | .inf n => (f32.signed n 0, 0)
  | .fin n m e => if m = 0 then (f32.signed n f32.infBits, fDZ) else f32.convert .rne false (rcpExact n m e)

def fpRsq (a : Nat) : Nat × FFlags :=
  match f32.value a with
  | .nan s => (f32.nanBits, if s then fNV else 0)
  | .inf n => if n then (f32.nanBits, fNV) else (0, 0)
  | .fin n m e =>
    if m = 0 then (f32.signed n f32.infBits, fDZ)
    else if n then (f32.nanBits, fNV)
    else f32.convert .rne false (rsqExact m e)

def fpSqrt (a : Nat) : Nat × FFlags :=
  match f32.value a with
  | .nan s => (f32.nanBits, if s then fNV else 0)
  | .inf n => if n then (f32.nanBits, fNV) else (f32.infBits, 0)
  | .fin n m e =>
    if m = 0 then (f32.signed n 0, 0)
    else if n then (f32.nanBits, fNV)
    else f32.convert .rne false (sqrtExact m e)

/-! ## Powers of two and logarithms (R165)

Fixed-point numbers of p fractional bits. Each sum below is short of its exact value by less than 2^16 units of its last
place, so that the exact value's number on the grid of 2^24 units is known when both ends of that interval have the same
one; a finer p is taken until they have. The exact values here are irrational, so none lies on the grid. -/

/-- Σ 1 / ((2k + 1) 3^(2k + 1)), from term k on, n terms: half of ln 2. -/
def ln2Sum (p : Nat) : Nat → Nat → Nat → Nat
  | 0, _, _ => 0
  | n + 1, k, pow => pow / (2 * k + 1) + ln2Sum p n (k + 1) (pow / 9)

/-- ln 2 in units of 2^−p, rounded down. -/
def ln2Fix (p : Nat) : Nat := 2 * ln2Sum p (p / 3 + 4) 0 (2 ^ p / 3)

/-- Σ y^k / k!, from the term with number k on, n terms. -/
def expSum (p y : Nat) : Nat → Nat → Nat → Nat
  | 0, _, _ => 0
  | n + 1, k, t => t + expSum p y n (k + 1) (t * y / (2 ^ p * (k + 1)))

/-- 2^(f / 2^p) in units of 2^−p, from below. -/
def exp2Fix (p f : Nat) : Nat := expSum p (f * ln2Fix p / 2 ^ p) (p / 3 + 8) 0 (2 ^ p)

/-- Σ z^(2k + 1) / (2k + 1), from term k on, n terms: the inverse hyperbolic tangent. -/
def atanhSum (p zz : Nat) : Nat → Nat → Nat → Nat
  | 0, _, _ => 0
  | n + 1, k, pow => pow / (2 * k + 1) + atanhSum p zz n (k + 1) (pow * zz / 2 ^ p)

/-- log2 of x = m / 2^l, 1 < x < 2, in units of 2^−p, within 2^16 units. -/
def log2Fix (p m l : Nat) : Nat :=
  let z := (m - 2 ^ l) * 2 ^ p / (m + 2 ^ l)
  let lnx := 2 * atanhSum p (z * z / 2 ^ p) (p / 3 + 4) 0 z
  lnx * 2 ^ p / ln2Fix p

/-- The precisions tried in turn. -/
def precisions : List Nat := [256, 384, 640]

/-- The grid number that both ends of an interval share, at the first precision that decides it (DEDUCED: log 73). -/
def settle (lo hi : Nat → Nat) : List Nat → Nat × Nat
  | [] => (0, 24)
  | [p] => (lo p / 2 ^ 24, p)
  | p :: ps => if lo p / 2 ^ 24 = hi p / 2 ^ 24 then (lo p / 2 ^ 24, p) else settle lo hi ps

/-- 2^x for x = ±m × 2^e, not zero. -/
def exp2Exact (neg : Bool) (m : Nat) (e : Int) : Fp :=
  let big := decide (12 ≤ (bitLen m : Int) + e)
  if big then (if neg then .fin false 1 (-2000) else .fin false 1 2000)
  else if 0 ≤ e then .fin false 1 (if neg then -((m * 2 ^ e.toNat : Nat) : Int) else ((m * 2 ^ e.toNat : Nat) : Int))
  else
    let d := (-e).toNat
    let v : Int := if neg then -(m : Int) else m
    let n : Int := v / 2 ^ d
    let fr := (v % 2 ^ d).toNat
    if fr = 0 then .fin false 1 n
    else
      let fix := fun (p : Nat) => fr * 2 ^ (p - d)
      let r := settle (fun p => exp2Fix p (fix p)) (fun p => exp2Fix p (fix p) + 2 ^ 16) precisions
      sticky false r.1 (n + 24 - r.2) false

/-- log2 of m × 2^e, m not zero. -/
def log2Exact (m : Nat) (e : Int) : Fp :=
  let l := bitLen m - 1
  let n : Int := e + l
  if m = 2 ^ l then fpOfInt n
  else
    let v := fun (p : Nat) => n * 2 ^ p + (log2Fix p m l : Int)
    let r := settle (fun p => (v p).natAbs - 2 ^ 16) (fun p => (v p).natAbs + 2 ^ 16) precisions
    sticky (decide (n < 0)) r.1 (24 - (r.2 : Int)) false

def fpExp2 (a : Nat) : Nat × FFlags :=
  match f32.value a with
  | .nan s => (f32.nanBits, if s then fNV else 0)
  | .inf n => (if n then 0 else f32.infBits, 0)
  | .fin n m e => if m = 0 then (0x3F800000, 0) else f32.convert .rne false (exp2Exact n m e)

def fpLog2 (a : Nat) : Nat × FFlags :=
  match f32.value a with
  | .nan s => (f32.nanBits, if s then fNV else 0)
  | .inf n => if n then (f32.nanBits, fNV) else (f32.infBits, 0)
  | .fin n m e =>
    if m = 0 then (f32.signed true f32.infBits, fDZ)
    else if n then (f32.nanBits, fNV)
    else f32.convert .rne false (log2Exact m e)

/-- Absolute value and negation change the sign of a number alone; a NaN becomes canonical (R165). -/
def fpSign (a : Nat) (f : Nat → Nat) : Nat × FFlags :=
  match f32.value a with
  | .nan s => (f32.nanBits, if s then fNV else 0)
  | _ => (f a, 0)

/-! ## KX blocks (R143 to R148) -/

/-- The magnitude width n of a KX format code. -/
def kxN (code : Nat) : Nat := match code with | 8 => 2 | 9 => 4 | _ => 7

/-- The value of an element code under a shared exponent and a quad exponent (R146). -/
def kxValue (code ex delta el : Nat) : Fp :=
  let n := kxN code
  if ex = 0xFF then .nan false
  else .fin (el / 2 ^ n % 2 == 1) (el % 2 ^ n) ((ex : Int) - 127 - delta - (n - 1))

/-- Floor of log2 of a magnitude, an infinity as 2^128; none for zero. -/
def fpLog : Fp → Option Int
  | .nan _ => none
  | .inf _ => some 128
  | .fin _ m e => if m = 0 then none else some ((bitLen m : Int) - 1 + e)

/-- The larger of two such logarithms. -/
def maxLog : List Fp → Option Int
  | [] => none
  | x :: xs =>
    match fpLog x, maxLog xs with
    | none, r => r
    | some a, none => some a
    | some a, some b => some (max a b)

/-- The code of an element under a scale (R148). -/
def kxCode (n : Nat) (scale : Int) : Fp → Nat
  | .nan _ => 0
  | .inf neg => (2 ^ n - 1) + (if neg then 2 ^ n else 0)
  | .fin neg m e =>
    let k : Int := e + (n - 1) - scale
    let q := if 0 ≤ k then m * 2 ^ k.toNat else (roundShift .rne false m (-k).toNat).1
    let c := min q (2 ^ n - 1)
    if c = 0 then 0 else c + (if neg then 2 ^ n else 0)

/-- An encoded block: shared exponent, the quad exponents' byte, the element codes. -/
structure KxBlock where
  ex : Nat
  quads : Nat
  codes : List Nat
  deriving DecidableEq, Repr

def clampInt (lo hi v : Int) : Int := max lo (min hi v)

/-- The encoding of sixteen values (R148). -/
def toKx (code : Nat) (xs : List Fp) : KxBlock :=
  let n := kxN code
  if xs.any Fp.isNan then ⟨0xFF, 0, List.replicate 16 0⟩
  else
    match maxLog xs with
    | none => ⟨0, 0, List.replicate 16 0⟩
    | some a =>
      let ex := (clampInt 0 254 (a + 127)).toNat
      let quad := fun (g : Nat) => (xs.drop (4 * g)).take 4
      let delta := fun (g : Nat) =>
        match maxLog (quad g) with
        | none => 0
        | some b => (clampInt 0 3 ((ex : Int) - 127 - b)).toNat
      ⟨ex, delta 0 + 4 * delta 1 + 16 * delta 2 + 64 * delta 3,
        (List.range 4).flatMap (fun g => (quad g).map (kxCode n ((ex : Int) - 127 - delta g)))⟩

/-- The number that packed codes of w bits make, the first lowest (R145). -/
def packCodes (w : Nat) : List Nat → Nat
  | [] => 0
  | c :: cs => c + 2 ^ w * packCodes w cs

end Sys2Proof.Machine
end

