-- ==== Sys2Proof/Machine/Access.lean ====
section
/-! DEFINITION. Accesses of strands to memory: the checks in their order, the parking of absent lanes, and what a load, a
store, an atomic or a remote operation of one lane does, at its issue or at its replay (R173 to R199, R262, R318). -/

namespace Sys2Proof.Machine

/-! ## Checks (R174 to R177) -/

/-- What the checks of one lane's access give. -/
inductive Found where
  | trap (cause : BitVec 8) (value : DWord)
  /-- A present page: the physical address. -/
  | page (pa : Nat)
  | absent (a : Absent)
  /-- A window byte: its place in the window store. -/
  | window (a : Nat)
  deriving DecidableEq, Repr

/-- The rights of a leaf: R, W, X, ATOM. -/
def rR : Nat := 0
def rW : Nat := 1
def rAtom : Nat := 3

/-- Steps 2 and 4 to 6 of the checks for a GLOBAL address, through given caches (R175). -/
def checkPage (s : State) (caches : List Nat) (ctx : CtxId) (ea : DWord) (right : Nat) (write : Bool) :
    State × Found :=
  if ea.extractLsb' 52 12 ≠ 0 then (s, .trap cPROT ea)
  else
    let r := translate s caches ctx ea.toNat write
    match r.2 with
    | .revoked => (r.1, .trap cREVOKED ea)
    | .absent a => (r.1, .absent a)
    | .page e =>
      if e.rights.getLsbD right then (r.1, .page (e.pa + (ea.toNat - e.va))) else (r.1, .trap cPROT ea)

/-- The checks of a GLOBAL access of n bytes by a core (R175). -/
def checkGlobal (s : State) (core : Nat) (ctx : CtxId) (ea : DWord) (n right : Nat) (write : Bool) : State × Found :=
  if ea.toNat % n ≠ 0 then (s, .trap cALIGN ea) else checkPage s (coreCaches core) ctx ea right write

/-- The checks of a window access of n bytes (R175, R29 to R31). -/
def checkWindow (s : State) (core : Nat) (t : Task) (cl : Bool) (ea : DWord) (n : Nat) : Found :=
  if ea.toNat % n ≠ 0 then .trap cALIGN ea
  else if cl then
    if cluLimit s (clusterOfCore core) < ea.toNat + n then .trap cWINDOW ea
    else
      match clusterShare? s (clusterOfCore core) t.ctx with
      | none => .trap cPROT ea
      | some (base, _, _) => .window (clusterOfCore core * 2 ^ 23 + base + ea.toNat)
  else if t.winUnits * 16384 < ea.toNat + n then .trap cWINDOW ea
  else .window (core * 2 ^ 19 + t.winBase * 16384 + ea.toNat)

/-- What some lanes find, in ascending order. -/
def findIn (s : State) (ks : List Nat) (f : State → Nat → State × Found) : State × List (Nat × Found) :=
  ks.foldl (fun a k => let r := f a.1 k; (r.1, a.2 ++ [(k, r.2)])) (s, [])

/-- What every lane of S finds, in ascending order. -/
def findAll (s : State) (f : State → Nat → State × Found) : State × List (Nat × Found) := findIn s (active s) f

/-- The lowest-numbered lane that fails. -/
def firstTrap : List (Nat × Found) → Option (Nat × BitVec 8 × DWord)
  | [] => none
  | (k, .trap c v) :: _ => some (k, c, v)
  | _ :: r => firstTrap r

/-- Lanes whose pages are present, and lanes whose pages are absent. -/
def presentOf (fs : List (Nat × Found)) : List (Nat × Nat) :=
  fs.filterMap (fun f => match f.2 with | .page a => some (f.1, a) | .window a => some (f.1, a) | _ => none)

def absentOf (fs : List (Nat × Found)) : List (Nat × Absent) :=
  fs.filterMap (fun f => match f.2 with | .absent a => some (f.1, a) | _ => none)

/-- A failing lane's trap, before any effect in any strand (R177); a device register or a reserved address stops. -/
def checked (r : State × List (Nat × Found)) (go : State → List (Nat × Found) → Out State) : Out State :=
  match firstTrap r.2 with
  | some (k, c, v) => .next (raiseTrap r.1 c v k)
  | none =>
    match paStops? (r.2.filterMap (fun f => match f.2 with | .page a => some a | _ => none)) with
    | some o => o
    | none => go r.1 r.2

/-! ## Absent pages (R178 to R180, R304) -/

/-- The pages of some lanes, each once, in the order of the first lane of each. -/
def firstPages (ls : List (Nat × Absent)) : List Absent :=
  ls.foldl (fun r l => if r.any (fun a => a.same l.2) then r else r ++ [l.2]) []

/-- Page requests for the pages of some lanes, one for each page, the lowest lane's first (R304). -/
def requestAll (s : State) (ctx : CtxId) (access : Access) (ls : List (Nat × Absent)) : State :=
  (firstPages ls).foldl (fun s a => requestPage s ctx a access) s

/-- A parked group none of whose lanes waits any more issues again. -/
def resumeGroup (s : State) (g : Nat) : State :=
  match (groupAt? s g).bind (·.parked) with
  | none => s
  | some _ => unparkGroup s g

/-- Parks the faulted lanes of the issuing group at the instruction: one entry for each lane, or, with too few places in
the table, a wait for places (R178, R179). -/
def parkLanes (s : State) (ls : List (Nat × Absent)) (mk : Nat → Absent → Entry) : State :=
  if ls.isEmpty then resumeGroup s (gk s)
  else
    let core := s.issue.core
    let s := parkGroup s (gk s)
    if (coreAt s core).parked.length + ls.length ≤ 512 then
      ls.foldl (fun s l =>
        modStrand (addEntry s core false (mk l.1 l.2)) l.1 (fun t => { t with wait := .fault })) s
    else ls.foldl (fun s l => holdFor s [l.1] (.parkRoom core ls.length l.2)) s

/-- Retires faulted lanes into the side log, after which they continue; with too few places they park as a load's do
(R180). The log has 256 places (R303). -/
def sideLanes (s : State) (ls : List (Nat × Absent)) (mk : Nat → Absent → Entry) : State :=
  let core := s.issue.core
  if (coreAt s core).sidelog.length + ls.length ≤ 256 then
    resumeGroup (ls.foldl (fun s l =>
      modStrand (addEntry s core true (mk l.1 l.2)) l.1 (fun t => { t with wait := .run, pc := t.pc + 4 })) s) (gk s)
  else parkLanes s ls mk

/-- Lanes of a store or an atomic without return: those whose page migrates park as a load's do (R296), the others
retire into the side log. -/
def sideOrPark (s : State) (ls : List (Nat × Absent)) (mk : Nat → Absent → Entry) : State :=
  let moving := ls.filter (fun l => !l.2.ask)
  let s1 := sideLanes s (ls.filter (fun l => l.2.ask)) mk
  if moving.isEmpty then s1 else parkLanes s1 moving mk

/-- An entry of a lane's access (R300). -/
def laneEntry (s : State) (t : Task) (kind : EntryKind) (ea : DWord) (n : Nat) (k : Nat) (a : Absent) : Entry :=
  { kind := kind, ea := ea, data := [], size := Nat.log2 n, aop := 0, fl := 0, d := 0, sign := false,
    strand := strandIx s k, order := 0, away := a, ctx := t.ctx, uid := t.uid, taskId := t.taskId, msgId := t.msgId,
    discarded := false, sent := false }

/-- The 128-byte line of an address of this part (R181). -/
def lineOf (ea : DWord) : Nat := ea.toNat % 2 ^ 52 / 128

/-- The page that a strand's latest side-log entry for a line waits for: a later store to the line enters behind it
(R181). -/
def behind? (s : State) (k : Nat) (line : Nat) : Option Absent :=
  match taskOfGroup? s (k / 32) with
  | none => none
  | some (_, t) =>
    (((sideOf s (coreOfStrand k) t.uid (strandIx s k)).filter (fun e => e.line s == line)).getLast?).map (·.away)

/-- The lanes of a store that must enter the side log: those whose page is absent, and those behind an earlier entry
for their line. -/
def storeSide (s : State) (ea : Nat → DWord) (fs : List (Nat × Found)) : List (Nat × Absent) :=
  fs.filterMap (fun f =>
    match f.2, behind? s f.1 (lineOf (ea f.1)) with
    | .absent a, _ => some (f.1, a)
    | .page _, some a => some (f.1, a)
    | _, _ => none)

/-- The lanes of a store that perform at once. -/
def storeNow (s : State) (ea : Nat → DWord) (fs : List (Nat × Found)) : List (Nat × Nat) :=
  (presentOf fs).filter (fun f => (behind? s f.1 (lineOf (ea f.1))).isNone)

/-! ## One lane's access -/

/-- A trap of a strand at the instruction where it stands: at its issue or at a replay (R182, R309). -/
def trapStrand (s : State) (k : Nat) (cause : BitVec 8) (value : DWord) : State :=
  match taskOfGroup? s (k / 32) with
  | none => s
  | some (tk, _) => takeTrap s tk cause value (strandAt s k).pc (strandIx s k)

/-- The strand continues after its instruction. -/
def Strand.past (t : Strand) : Strand := { t with wait := .run, pc := t.pc + 4 }

/-- A value-returning GLOBAL access of a strand has performed at an address: on a physical line, and on a line of its
context (R126). -/
def Strand.sawLine (line va : Nat) (t : Strand) : Strand :=
  { t with lastLine := some line, lastVa := some va, woken := false }

/-- The last LD of the strand's iteration (R128). -/
def Strand.sawLoad (line : MonLine) (addr value : Nat) (t : Strand) : Strand :=
  { t with spin := { t.spin with ld := some ⟨line, addr, value, false⟩ } }

/-- A line that a GLOBAL read of n bytes must fetch has a lasting error (R262, R318). -/
def readFails (s : State) (core pa n : Nat) : State × Bool :=
  let c := coreAt s core
  if (AMap.get? c.snap (pa / 128)).isSome || buffered c.wbuf pa n then (s, false) else eccCheck s (pa / 128)

/-- A GLOBAL load of a lane: the value enters its registers and the strand continues (R183). -/
def loadLane (s : State) (core k : Nat) (d : SReg) (z : BitVec 3) (ea : DWord) (pa : Nat) : State :=
  let r := loadGlobal s core pa (sizeOf z)
  modStrand (setRegs r.1 k d (loadWords z r.2)) k (fun t =>
    ((t.sawLine (pa / 128) (ea.toNat / 128)).sawLoad (.global (pa / 128)) ea.toNat (natOfBytes r.2)).past)

/-- A window load of a lane (R183). -/
def loadWinLane (s : State) (cl : Bool) (k : Nat) (d : SReg) (z : BitVec 3) (ea : DWord) (a : Nat) : State :=
  let bs := winBytes s cl a (sizeOf z)
  modStrand (setRegs s k d (loadWords z bs)) k (fun t =>
    (t.sawLoad ((if cl then MonLine.cluster else MonLine.core) (a / 128)) ea.toNat (natOfBytes bs)).past)

/-- Lanes of a load in ascending order; the first that meets a lasting error ends in DATAERR (R318). -/
def loadLanes (core : Nat) (d : SReg) (z : BitVec 3) (ea : Nat → DWord) : State → List (Nat × Nat) → Sum State State
  | s, [] => .inl s
  | s, (k, pa) :: r =>
    let e := readFails s core pa (sizeOf z)
    if e.2 then .inr (trapStrand e.1 k cDATAERR (ea k))
    else loadLanes core d z ea (loadLane e.1 core k d z (ea k) pa) r

/-! ## Atomics (R191, R192) -/

/-- The new value of an atomic of w bits on the old value and the operand registers as a number; none when nothing is
written (R191). -/
def atomValue (aop : Nat) (w o v : Nat) : Option Nat :=
  let a := BitVec.ofNat w o
  let b := BitVec.ofNat w v
  match aop with
  | 0x00 => some (a + b).toNat
  | 0x01 => some (if b.slt a then b else a).toNat
  | 0x02 => some (if a.slt b then b else a).toNat
  | 0x03 => some (if b.ult a then b else a).toNat
  | 0x04 => some (if a.ult b then b else a).toNat
  | 0x05 => some (a &&& b).toNat
  | 0x06 => some (a ||| b).toNat
  | 0x07 => some (a ^^^ b).toNat
  | 0x08 => some b.toNat
  | 0x09 => if o = v % 2 ^ w then some (v / 2 ^ w % 2 ^ w) else none
  | _ => some (fpAdd f32 o (v % 2 ^ 32)).1

/-- An atomic on n bytes at the coherence point for a core: the core publishes its own stores to the line first and
drops the line after; the operation is a wake event even when it writes nothing. The old value (R127, R192). -/
def atomAt (s : State) (core pa n aop v : Nat) : State × Nat :=
  let line := pa / 128
  let s1 := publishSome s core (fun b => b.pa / 128 == line)
  let o := natOfBytes (memBytes s1 pa n)
  let s2 := match atomValue aop (8 * n) o v with
    | some x => perform s1 pa (bytesOf n x)
    | none => wakeLine s1 (.global line) .all
  (modCore s2 core (fun c => { c with snap := AMap.erase c.snap line }), o)

/-- Bytes of an atomic, and whether it returns the old value. -/
def atomSize (f : BitVec 3) : Nat := if f.getLsbD 2 then 8 else 4
def atomNr (f : BitVec 3) : Bool := f.getLsbD 0
def atomRel (f : BitVec 3) : Bool := f.getLsbD 1

/-- Registers of an atomic's operand: twice as many for CAS. -/
def atomRegs (aop n : Nat) : Nat := if aop = 0x09 then n / 2 else n / 4

/-- The atomic of one lane with its operand words; a lasting error gives true and nothing performs (R318). -/
def atomLane (s : State) (core k : Nat) (nr : Bool) (d : SReg) (aop n : Nat) (data : List Word) (ea : DWord) (pa : Nat) :
    State × Bool :=
  let e := eccCheck s (pa / 128)
  if e.2 then (e.1, true)
  else
    let r := atomAt e.1 core pa n aop (natOfWords data)
    if nr then (r.1, false)
    else (modStrand (setRegs r.1 k d (wordsOf (n / 4) r.2)) k (fun t => t.sawLine (pa / 128) (ea.toNat / 128)), false)

/-! ## Remote operations (R194 to R196) -/

/-- The row of a ROP: its alignment size, its right (R194). -/
def ropSize (aop fl : Nat) : Nat :=
  match aop with
  | 0 => 4 * 2 ^ fl
  | 1 => 4 * 2 ^ fl
  | 2 => 4 * 2 ^ fl
  | _ => 8

def ropRight (aop : Nat) : Nat := match aop with | 0 => rR | 5 => rR | 1 => rW | _ => rAtom

/-- Operand registers that a ROP takes from D. -/
def ropRegs (aop fl : Nat) : Nat :=
  match aop with
  | 0 => 0
  | 1 => 2 ^ fl
  | 2 => 2 ^ fl
  | 3 => 4
  | 4 => 2
  | _ => 0

/-- A read of n bytes at the coherence point, with its ECC outcome (R318). -/
def readAt (s : State) (pa n : Nat) : State × Bool × Nat :=
  let e := eccCheck s (pa / 128)
  (e.1, e.2, natOfBytes (memBytes e.1 pa n))

/-- One hop of a chase, with as many as are left (R194, R195): it is checked for the right R and for alignment, and is a remote
operation that performs on its line (R127). Its outcome where the chase ends with it, or the address of the next hop. A chase that
starts at address 0 reads the word there: only a word that is 0 stops it early (DESIGN CHOICE: log 93). -/
def hop (s : State) (caches : List Nat) (ctx : CtxId) (top a : DWord) (left : Nat) : State × Sum RopOut DWord :=
  if a.toNat % 8 ≠ 0 then (s, .inl (.trap cALIGN a))
  else
    let r := checkPage s caches ctx a rR false
    match r.2 with
    | .trap c _ => (r.1, .inl (.trap c top))
    | .absent x => (r.1, .inl (.absent x))
    | .window _ => (r.1, .inl (.done []))
    | .page pa =>
      if (paStop? pa).isSome then (r.1, .inl (.stop pa))
      else
        let v := readAt r.1 pa 8
        if v.2.1 then (v.1, .inl (.trap cDATAERR top))
        else
          (wakeLine v.1 (.global (pa / 128)) .all,
            if v.2.2 = 0 ∨ left ≤ 1 then .inl (.done (wordsOf 2 v.2.2)) else .inr (BitVec.ofNat 64 v.2.2))

/-- A write of a ROP at the coherence point, which is a wake event (R127). -/
def ropWrite (s : State) (pa n v : Nat) : State := perform s pa (bytesOf n v)

/-- The enqueue: the tail is swapped, then the old node, if any, is linked (R194, R394). Where the old node's address is
misaligned, absent, revoked or without the right ATOM the spec does not say whether the tail is swapped: it is not, the ROP
raises ALIGN with the old node's address, or PROT or REVOKED with its own, and an absent node's page makes it be sent again
whole (DESIGN CHOICE: log 79). -/
def enqueue (s : State) (caches : List Nat) (ctx : CtxId) (pa : Nat) (node : Nat) : State × RopOut :=
  let o := readAt s pa 8
  if o.2.1 then (o.1, .trap cDATAERR 0)
  else if o.2.2 = 0 then (ropWrite o.1 pa 8 node, .done (wordsOf 2 0))
  else
    let old : DWord := BitVec.ofNat 64 o.2.2
    if old.toNat % 8 ≠ 0 then (o.1, .trap cALIGN old)
    else
      let r := checkPage o.1 caches ctx old rAtom true
      match r.2 with
      | .trap c v => (r.1, .trap c v)
      | .absent x => (r.1, .absent x)
      | .window _ => (r.1, .done [])
      | .page p2 =>
        if (paStop? p2).isSome then (r.1, .stop p2)
        else (ropWrite (ropWrite r.1 pa 8 node) p2 8 node, .done (wordsOf 2 o.2.2))

/-- The GLOBAL address that a ROP names in its context. -/
def ropVa (ea : DWord) : DWord := (ea.setWidth 52).setWidth 64

/-- The checks of R175 that a ROP meets at its own address on this part, through given caches (R194). -/
def ropPage (s : State) (caches : List Nat) (ctx : CtxId) (ea : DWord) (aop : Nat) : State × Found :=
  let r := checkPage s caches ctx (ropVa ea) (ropRight aop) (aop != 0 && aop != 5)
  (r.1, match r.2 with | .trap c _ => .trap c ea | f => f)

/-- A ROP other than a chase performed at this part on a context's address, through given caches (R194). -/
def ropPerform (s : State) (caches : List Nat) (ctx : CtxId) (ea : DWord) (aop fl : Nat) (data : List Word) :
    State × RopOut :=
  let n := ropSize aop fl
  let r := ropPage s caches ctx ea aop
  match r.2 with
  | .trap c v => (r.1, .trap c v)
  | .absent a => (r.1, .absent a)
  | .window _ => (r.1, .done [])
  | .page pa =>
    if (paStop? pa).isSome then (r.1, .stop pa)
    else
      let s := r.1
      match aop with
      | 0 =>
        let v := readAt s pa n
        if v.2.1 then (v.1, .trap cDATAERR ea) else (wakeLine v.1 (.global (pa / 128)) .all, .done (wordsOf (n / 4) v.2.2))
      | 1 => (ropWrite s pa n (natOfWords data), .done [])
      | 2 =>
        let v := readAt s pa n
        if v.2.1 then (v.1, .trap cDATAERR ea)
        else (ropWrite v.1 pa n (v.2.2 + natOfWords data), .done (wordsOf (n / 4) v.2.2))
      | 3 =>
        let v := readAt s pa 8
        if v.2.1 then (v.1, .trap cDATAERR ea)
        else if v.2.2 = natOfWords (data.take 2) then
          (ropWrite v.1 pa 8 (natOfWords (data.drop 2)), .done (wordsOf 2 v.2.2))
        else (wakeLine v.1 (.global (pa / 128)) .all, .done (wordsOf 2 v.2.2))
      | _ =>
        let q := enqueue s caches ctx pa (natOfWords data)
        match q.2 with
        | .trap c v => (q.1, .trap c (if c = cALIGN then v else ea))
        | o => (q.1, o)

/-- The physical place of a GLOBAL address, if its page is present. -/
def placeOf? (s : State) (caches : List Nat) (ctx : CtxId) (va : Nat) : Option Nat :=
  match (translate s caches ctx va false).2 with
  | .page e => some (e.pa + (va - e.va))
  | _ => none

/-- A message that brings an operation to a unit, or its result back (R393). -/
def ropMessage (k : MsgKind) (net : VNet) (from_ : Agent) (ctx : CtxId) : Message :=
  { kind := k, dw := 0, peer := none, core := 0, ctx := ctx, slot := 0, supv := false, vnet := net, origin := ⟨none, 0, ctx, none⟩,
    id := 0, a0 := 0, a1 := 0, payload := [], trap := none, serial := 0, agent := from_ }

/-- A ROP goes to the unit of this part that owns its line, as a message of one flit on the REQ network (R393). -/
def unitSend (s : State) (caches : List Nat) (e : Entry) (source : RopFrom) (from_ : Agent) : State :=
  let pa := (placeOf? s caches e.ctx (ropVa e.ea).toNat).getD 0
  inject s (ropMessage (.ropReq ⟨e, source, nearUnit pa, pa, ropVa e.ea, e.fl.toNat + 1, 0⟩) .req from_ e.ctx)

/-- A ROP of a strand to this part. -/
def ropHere (s : State) (e : Entry) (k core : Nat) : State :=
  unitSend s (coreCaches core) e (.strand k core) (.core (BitVec.ofNat 8 core))

/-- The checks of a ROP at its source: reserved bits, the connected group, alignment (R194). -/
def ropCheck (s : State) (ea : DWord) (n : Nat) : Option (BitVec 8 × DWord) :=
  if ea.toNat % n ≠ 0 then some (cALIGN, ea)
  else if ea.getLsbD 63 then
    if ea.getLsbD 52 then some (cPROT, ea)
    else if connected s (ea.extractLsb' 53 10) then none
    else some (cFABRIC, ea)
  else if ea.extractLsb' 52 11 ≠ 0 then some (cPROT, ea)
  else none

/-- The translation of a peer's page that the port caches hold (R391). -/
def remoteFind? (s : State) (p : BitVec 10) (ctx : CtxId) (va : Nat) : Option RemoteTr :=
  s.fab.remote.find? (fun r => r.peer == p && r.ctx == ctx && r.va ≤ va && va < r.va + pageBytes r.psize)

/-- The body of a ROP packet: ea with the context in its upper bits, operation and flags, operands, node handle (R384;
the layout is the model's, DESIGN CHOICE: log 13). -/
def ropBody (ctx : CtxId) (e : Entry) (handle : Word) : List Byte :=
  bytesOf 8 (e.ea.toNat % 2 ^ 52 + ctx.toNat * 2 ^ 52) ++ bytesOf 2 (e.aop.toNat + e.fl.toNat * 256) ++
    bytesOf 16 (natOfWords e.data) ++ bytesOf 4 handle.toNat

/-- The body of an XREQ packet: context, address, access kind (R384; DESIGN CHOICE: log 13). -/
def xreqBody (ctx : CtxId) (va kind : Nat) : List Byte := bytesOf 2 ctx.toNat ++ bytesOf 8 va ++ [BitVec.ofNat 8 kind]

/-- The core has written a peer since its last FABRIC release (R270). -/
def peerWritten (s : State) (core : Nat) (p : BitVec 10) : State :=
  modCore s core (fun c =>
    if c.peersWritten.contains p then c else { c with peersWritten := c.peersWritten ++ [p] })

/-- Sends a ROP to a peer, or first the request for the translation of its page (R391). -/
def ropSendNow (s : State) (p : BitVec 10) (e : Entry) (k core : Nat) : State :=
  match remoteFind? s p e.ctx (e.ea.toNat % 2 ^ 52) with
  | some r =>
    let s := if e.kind = .ropR then s else peerWritten s core p
    sendPacket s p 0x05 .req (ropBody e.ctx e r.handle) (if e.kind = .ropR then .rop e k core else .ropSt e core)
  | none => sendPacket s p 0x07 .sys (xreqBody e.ctx (e.ea.toNat % 2 ^ 52) (ropRight e.aop.toNat)) (.xreqRop e k core)

/-- A ROP to a peer goes out; while an earlier one of its strand to that peer is outstanding it waits its turn, so that they
perform in issue order (R195; DEDUCED: log 80). One that a replay sends again is the earliest of its strand. -/
def ropSend (s : State) (p : BitVec 10) (e : Entry) (k core : Nat) : State :=
  if e.sent then
    if (peerAt s p).ropOut e.sameStrand then { s with fab := { s.fab with ropsHeld := (p, e, k, core) :: s.fab.ropsHeld } }
    else ropSendNow s p e k core
  else if ropsOutTo s p e then { s with fab := { s.fab with ropsHeld := s.fab.ropsHeld ++ [(p, e, k, core)] } }
  else ropSendNow s p e k core

/-- A rop.st of an entry's strand to a peer waits in the core's side log (R195, R196). -/
def sideHeld (s : State) (core : Nat) (p : BitVec 10) (e : Entry) : Bool :=
  (coreAt s core).sidelog.any (fun x => x.sameStrand e && x.kind == .ropSt && ropPeer? s x.ea == some p)

/-- The ROPs that waited behind one of their strand to a peer go out when that one has performed, and none of the strand stands in
the side log (R195). -/
def ropsNext (s : State) (p : BitVec 10) : State :=
  s.fab.ropsHeld.foldl (fun s h =>
    if h.1 == p && !(peerAt s p).ropOut h.2.1.sameStrand && (h.2.1.sent || !sideHeld s h.2.2.2 p h.2.1) &&
        (s.fab.ropsHeld.find? (fun x => x.1 == p && h.2.1.sameStrand x.2.1)) == some h then
      ropSendNow { s with fab := { s.fab with ropsHeld := s.fab.ropsHeld.erase h } } p h.2.1 h.2.2.1 h.2.2.2
    else s) s

/-- The access kind of a ROP in a page request (R306). -/
def ropAccess (aop : Nat) : Access := match aop with | 0 => .read | 5 => .read | 1 => .write | _ => .atomic

/-! ## Blocks that an instruction reads (R222, R244, R247, R250) -/

/-- Bytes of a GLOBAL extent as a core loads them, page by page of at most one line, from the physical address of each
128-byte line. -/
def loadLines (core : Nat) : State → List (Nat × Nat) → State × List Byte
  | s, [] => (s, [])
  | s, (pa, n) :: r =>
    let a := loadGlobal s core pa n
    let b := loadLines core a.1 r
    (b.1, a.2 ++ b.2)

/-- The pieces of an extent that lie in one 128-byte line each. -/
def linePieces (a n : Nat) : Nat → List (Nat × Nat)
  | 0 => []
  | fuel + 1 =>
    if n = 0 then [] else
      let here := min n (128 - a % 128)
      (a, here) :: linePieces (a + here) (n - here) fuel

/-- What the checks of an extent's pieces give: their physical places, or the first that is not a page. -/
def checkPieces (core : Nat) (ctx : CtxId) (right : Nat) : State → List (Nat × Nat) → State × Sum Found (List (Nat × Nat))
  | s, [] => (s, .inr [])
  | s, (a, n) :: r =>
    let f := checkPage s (coreCaches core) ctx (BitVec.ofNat 64 a) right false
    match f.2 with
    | .page pa =>
      let q := checkPieces core ctx right f.1 r
      match q.2 with
      | .inr l => (q.1, .inr ((pa, n) :: l))
      | .inl x => (q.1, .inl x)
    | x => (f.1, .inl x)

/-- The entry of an instruction that reads a block: a load that only makes its instruction issue again (DEDUCED: log 15). Its
size, of more than 16 bytes, tells it from a register load. -/
def blockSize : Nat := 6

/-- Reads a block as a load of the lowest-numbered strand of S (R222): its traps, the parking of the group on an absent
page with one entry, DATAERR, and the wait for a pending side-log entry of the strand. -/
def readBlock (s : State) (t : Task) (a : DWord) (n : Nat) (go : State → List Byte → Out State) : Out State :=
  let core := s.issue.core
  let k := firstActive s
  let ps := linePieces a.toNat n (n + 1)
  match ps.find? (fun p => sideOnLine s k (p.1 % 2 ^ 52 / 128)) with
  | some p => .next (waitFor s (active s) (.lineFree [k] (p.1 % 2 ^ 52 / 128)))
  | none =>
    let r := checkPieces core t.ctx rR s ps
    match r.2 with
    | .inl (.trap c v) => .next (raiseFirst r.1 c v)
    | .inl (.absent x) =>
      let s1 := requestPage r.1 t.ctx x .read
      .next (parkLanes s1 [(k, x)] (fun k x => { laneEntry s1 t .load a 1 k x with size := blockSize }))
    | .inl _ => .next r.1
    | .inr places =>
      match paStops? (places.map (·.1)) with
      | some o => o
      | none =>
        let e := places.foldl (fun (x : State × Bool) p => let q := readFails x.1 core p.1 p.2; (q.1, x.2 || q.2)) (r.1, false)
        if e.2 then .next (raiseFirst e.1 cDATAERR a)
        else
          let l := loadLines core e.1 places
          go (resumeGroup l.1 (gk s)) l.2

end Sys2Proof.Machine
end

