-- ==== Sys2Proof/Machine/Memory.lean ====
section
/-! DEFINITION. Loads and stores, window locks, atomics, the tag table, remote operations and MONW (R126, R183 to
R199). -/

namespace Sys2Proof.Machine

/-- Goes on with the issuing task; without one nothing issues (R19). -/
def withTask (s : State) (go : Nat → Task → Out State) : Out State :=
  match issuer? s with
  | none => .next s
  | some (tk, t) => go tk t

/-- Lanes that must wait for their strand's side-log entry on the line (R181). -/
def lineWaiters (s : State) (ea : Nat → DWord) : List Nat :=
  (active s).filter (fun k => sideOnLine s k (lineOf (ea k)))

/-- Lanes of S turn out not to be ready: they wait, each for its own condition, and the issue takes no turn and has no effect; the
lanes that are ready issue without them (R106, R108; DESIGN CHOICE: log 2). -/
def waitLanes (s : State) (ks : List Nat) (c : Nat → Cond) : State :=
  giveTurnBack (ks.foldl (fun s k => holdFor s [k] (c k)) s)

/-- Goes on once no lane must wait for a side-log entry of its strand on its line (R181). -/
def afterLines (s : State) (ea : Nat → DWord) (go : Out State) : Out State :=
  match lineWaiters s ea with
  | [] => go
  | ks => .next (waitLanes s ks (fun k => .lineFree [k] (lineOf (ea k))))

/-! ## LD and ST (R183, R184) -/

/-- A load of GLOBAL memory. -/
def loadGlobalAll (s : State) (t : Task) (d : SReg) (z : BitVec 3) (ea : Nat → DWord) : Out State :=
  let core := s.issue.core
  afterLines s ea (checked (findAll s (fun x k => checkGlobal x core t.ctx (ea k) (sizeOf z) rR false)) (fun s1 fs =>
    match loadLanes core d z ea s1 (presentOf fs) with
    | .inr s => .next s
    | .inl s2 =>
      let s := requestAll s2 t.ctx .read (absentOf fs)
      .next (parkLanes s (absentOf fs) (fun k a =>
        { laneEntry s t .load (ea k) (sizeOf z) k a with d := d, sign := z == 1 || z == 3 }))))

/-- A load of a window. -/
def loadWindowAll (s : State) (t : Task) (cl : Bool) (d : SReg) (z : BitVec 3) (ea : Nat → DWord) : Out State :=
  checked (findAll s (fun x k => (x, checkWindow x s.issue.core t cl (ea k) (sizeOf z)))) (fun s1 fs =>
    .next ((presentOf fs).foldl (fun x f => loadWinLane x cl f.1 d z (ea f.1) f.2) s1))

/-- Loads from GLOBAL memory or a window, parking faulted lanes (R183). -/
def execLd (d : SReg) (g : GReg) (x : SReg) (sp : BitVec 2) (z : BitVec 3) (i : BitVec 4) (s : State) : Out State :=
  withTask s (fun _ t =>
    let addr := fun (k : Nat) => ea s k g x (sizeOf z) i
    if sp = 0 then loadGlobalAll s t d z addr else loadWindowAll s t (sp = 2) d z addr)

/-- A store of GLOBAL memory: present lanes store in ascending order, the others retire into the side log (R180,
R185). -/
def storeGlobalAll (s : State) (t : Task) (d : SReg) (z : BitVec 3) (ea : Nat → DWord) : Out State :=
  let core := s.issue.core
  checked (findAll s (fun x k => checkGlobal x core t.ctx (ea k) (sizeOf z) rW true)) (fun s1 fs =>
    let side := storeSide s1 ea fs
    let s2 := requestAll s1 t.ctx .write (absentOf fs)
    let s3 := (storeNow s1 ea fs).foldl
      (fun x f => modStrand (makeStore x core t.ctx f.2 (storeBytes s f.1 d z)) f.1 Strand.past) s2
    .next (sideOrPark s3 side (fun k a =>
      { laneEntry s t .store (ea k) (sizeOf z) k a with
        data := wordsOf ((sizeOf z + 3) / 4) (natOfBytes (storeBytes s k d z)) })))

/-- A store of a window, at once and in ascending lane order (R185, R186). -/
def storeWindowAll (s : State) (t : Task) (cl : Bool) (d : SReg) (z : BitVec 3) (ea : Nat → DWord) : Out State :=
  checked (findAll s (fun x k => (x, checkWindow x s.issue.core t cl (ea k) (sizeOf z)))) (fun s1 fs =>
    .next ((presentOf fs).foldl
      (fun x f => modStrand (winWrite x cl f.2 (storeBytes s f.1 d z)) f.1 Strand.past) s1))

/-- Stores to GLOBAL memory or a window (R184). -/
def execSt (d : SReg) (g : GReg) (x : SReg) (sp : BitVec 2) (z : BitVec 3) (i : BitVec 4) (s : State) : Out State :=
  withTask s (fun _ t =>
    let addr := fun (k : Nat) => ea s k g x (sizeOf z) i
    if sp = 0 then storeGlobalAll s t d z addr else storeWindowAll s t (sp = 2) d z addr)

/-! ## Window locks (R187 to R189) -/

/-- The lock bit of a window byte, as its bank's core × 64 + its number. -/
def lockBit (core : Nat) (cl : Bool) (ea : DWord) (a : Nat) : Nat :=
  let bank := if cl then clusterOfCore core * 8 + ea.toNat / 128 % 8 else core
  let l := if cl then a % 2 ^ 23 / 1024 else a % 2 ^ 19 / 128
  bank * 64 + ((l % 64) ^^^ (l / 64 % 64) ^^^ (l / 4096 % 2))

/-- A lane that holds two bits already and asks for a third. -/
def overLimit (s : State) (cl : Bool) (ea : Nat → DWord) : List (Nat × Nat) → Option Nat
  | [] => none
  | (k, a) :: r =>
    let held := (strandAt s k).locks
    if !held.contains (lockBit s.issue.core cl (ea k) a) && decide (2 ≤ held.length) then some k
    else overLimit s cl ea r

/-- The LLK of one lane: it loads when it holds or gets the bit, and else joins the bank's queue of 32 strands, or waits for a
place in it behind those that do so already (R188). A free bit goes to the lane at once, even while a strand that found the queue
full waits for it (DESIGN CHOICE: log 94). While its task is being saved it takes no new bit (R332). -/
def lockLane (s : State) (saving cl : Bool) (k : Nat) (d : SReg) (z : BitVec 3) (bit a : Nat) : State :=
  let load := fun (x : State) =>
    modStrand (setRegs x k d (loadWords z (winBytes x cl a (sizeOf z)))) k Strand.past
  if (strandAt s k).locks.contains bit then load s
  else if saving then s
  else
    match AMap.get? s.locks bit with
    | none =>
      load (modStrand { s with locks := AMap.put s.locks bit ⟨k, []⟩ } k (fun t => { t with locks := t.locks ++ [bit] }))
    | some lb =>
      let s := modStrand s k (fun t => { t with wait := .lock bit cl a d z })
      if bankQueue s (bit / 64) < 32 then { s with locks := AMap.put s.locks bit { lb with queue := lb.queue ++ [k] } }
      else modCore s (bit / 64) (fun c => { c with lockLate := c.lockLate ++ [k] })

/-- Takes a window lock bit, waiting in first-in, first-out order, and loads (R188). -/
def execLlk (d : SReg) (g : GReg) (x : SReg) (sp : BitVec 2) (z : BitVec 3) (i : BitVec 4) (s : State) : Out State :=
  withTask s (fun _ t =>
    let addr := fun (k : Nat) => ea s k g x (sizeOf z) i
    let cl := decide (sp = 2)
    checked (findAll s (fun x k => (x, checkWindow x s.issue.core t cl (addr k) (sizeOf z)))) (fun s1 fs =>
      match overLimit s1 cl addr (presentOf fs) with
      | some k => .next (raiseTrap s1 cLOCKLIM (addr k) k)
      | none =>
        .next ((presentOf fs).foldl
          (fun x f => lockLane x t.saving cl f.1 d z (lockBit s.issue.core cl (addr f.1) f.2) f.2) s1)))

/-- A lane that does not hold its bit. -/
def notHolding (s : State) (cl : Bool) (ea : Nat → DWord) : List (Nat × Nat) → Option Nat
  | [] => none
  | (k, a) :: r =>
    if (strandAt s k).locks.contains (lockBit s.issue.core cl (ea k) a) then notHolding s cl ea r else some k

/-- Stores to a window and frees the held lock bit to the next waiter (R189). -/
def execSul (d : SReg) (g : GReg) (x : SReg) (sp : BitVec 2) (z : BitVec 3) (i : BitVec 4) (s : State) : Out State :=
  withTask s (fun _ t =>
    let addr := fun (k : Nat) => ea s k g x (sizeOf z) i
    let cl := decide (sp = 2)
    checked (findAll s (fun x k => (x, checkWindow x s.issue.core t cl (addr k) (sizeOf z)))) (fun s1 fs =>
      match notHolding s1 cl addr (presentOf fs) with
      | some k => .next (raiseTrap s1 cLOCKLIM (addr k ||| 0x8000000000000000) k)
      | none =>
        .next ((presentOf fs).foldl (fun x f =>
          let bit := lockBit s.issue.core cl (addr f.1) f.2
          let x1 := winWrite x cl f.2 (storeBytes s f.1 d z)
          let x2 := modStrand x1 f.1 (fun t => { t.past with locks := t.locks.filter (fun b => b != bit) })
          releaseLock x2 bit) s1)))

/-! ## Atomics (R191 to R193) -/

/-- Lanes of an atomic in ascending order. One with return that meets a lasting error ends the issue in DATAERR; one
without becomes a deferred fault of its strand (R318). -/
def atomLanes (core : Nat) (nr : Bool) (d : SReg) (aop n : Nat) (data : Nat → List Word) (ea : Nat → DWord) :
    State → List (Nat × Nat) → Sum State State
  | s, [] => .inl s
  | s, (k, pa) :: r =>
    let q := atomLane s core k nr d aop n (data k) (ea k) pa
    if q.2 then
      if nr then
        atomLanes core nr d aop n data ea
          (modStrand q.1 k (fun t => { t.past with deferred := t.deferred ++ [⟨cDATAERR, ea k⟩] })) r
      else .inr (trapStrand q.1 k cDATAERR (ea k))
    else atomLanes core nr d aop n data ea (modStrand q.1 k Strand.past) r

/-- The atomics of an issue after its release (R191 to R193). -/
def atomGo (s : State) (t : Task) (aop : Nat) (d : SReg) (f : BitVec 3) (data : Nat → List Word) (ea : Nat → DWord)
    (fs : List (Nat × Found)) : Out State :=
  let core := s.issue.core
  let n := atomSize f
  let entry := fun (kind : EntryKind) (s : State) (k : Nat) (a : Absent) =>
    { laneEntry s t kind (ea k) n k a with
      data := data k, aop := BitVec.ofNat 5 aop, fl := f.setWidth 4, d := d }
  if atomNr f then
    let side := storeSide s ea fs
    match atomLanes core true d aop n data ea s (storeNow s ea fs) with
    | .inr s => .next s
    | .inl s1 =>
      let s2 := requestAll s1 t.ctx .atomic (absentOf fs)
      .next (sideOrPark s2 side (entry .atomNR s2))
  else
    match atomLanes core false d aop n data ea s (presentOf fs) with
    | .inr s => .next s
    | .inl s1 =>
      let s2 := requestAll s1 t.ctx .atomic (absentOf fs)
      .next (parkLanes s2 (absentOf fs) (entry .atomR s2))

/-- An atomic at the coherence point, with a release at CHIP scope first when REL is set (R191 to R193). -/
def atomic (s : State) (aop : Nat) (d : SReg) (g : GReg) (x : SReg) (f : BitVec 3) : Out State :=
  withTask s (fun _ t =>
    let core := s.issue.core
    let n := atomSize f
    let addr := fun (k : Nat) => eaA s k g x
    let data := fun (k : Nat) => getRegs s k d (atomRegs aop n)
    let go := checked (findAll s (fun x k => checkGlobal x core t.ctx (addr k) n rAtom true)) (fun s1 fs =>
      if atomRel f then releasing s1 (atomGo (publish s1 core) t aop d f data addr fs)
      else atomGo s1 t aop d f data addr fs)
    if atomNr f then go else afterLines s addr go)

/-- Atomic add (R191). -/
def execAtomAdd (d : SReg) (g : GReg) (x : SReg) (f : BitVec 3) (s : State) : Out State := atomic s 0x00 d g x f

/-- Atomic signed minimum (R191). -/
def execAtomMin (d : SReg) (g : GReg) (x : SReg) (f : BitVec 3) (s : State) : Out State := atomic s 0x01 d g x f

/-- Atomic signed maximum (R191). -/
def execAtomMax (d : SReg) (g : GReg) (x : SReg) (f : BitVec 3) (s : State) : Out State := atomic s 0x02 d g x f

/-- Atomic unsigned minimum (R191). -/
def execAtomMinu (d : SReg) (g : GReg) (x : SReg) (f : BitVec 3) (s : State) : Out State := atomic s 0x03 d g x f

/-- Atomic unsigned maximum (R191). -/
def execAtomMaxu (d : SReg) (g : GReg) (x : SReg) (f : BitVec 3) (s : State) : Out State := atomic s 0x04 d g x f

/-- Atomic AND (R191). -/
def execAtomAnd (d : SReg) (g : GReg) (x : SReg) (f : BitVec 3) (s : State) : Out State := atomic s 0x05 d g x f

/-- Atomic OR (R191). -/
def execAtomOr (d : SReg) (g : GReg) (x : SReg) (f : BitVec 3) (s : State) : Out State := atomic s 0x06 d g x f

/-- Atomic XOR (R191). -/
def execAtomXor (d : SReg) (g : GReg) (x : SReg) (f : BitVec 3) (s : State) : Out State := atomic s 0x07 d g x f

/-- Atomic exchange (R191). -/
def execAtomXchg (d : SReg) (g : GReg) (x : SReg) (f : BitVec 3) (s : State) : Out State := atomic s 0x08 d g x f

/-- Atomic compare-and-swap (R191). -/
def execAtomCas (d : SReg) (g : GReg) (x : SReg) (f : BitVec 3) (s : State) : Out State := atomic s 0x09 d g x f

/-- Atomic FP32 add (R191). -/
def execAtomFadd (d : SReg) (g : GReg) (x : SReg) (f : BitVec 3) (s : State) : Out State := atomic s 0x0A d g x f

/-! ## The tag table (R197 to R199) -/

/-- The key of a tag: task slot and slot of the table. -/
def tagKey (tk slot : Nat) : Nat := tk * 4096 + slot

/-- The set of a key in a task's table (R197). -/
def tagSet (t : Task) (key : Word) : Nat := (key.extractLsb' 7 10).toNat % (t.winUnits * 32)

/-- A valid tag: bit 25, then the tag. -/
def validTag (key : Word) : BitVec 26 := 1#1 ++ key.extractLsb' 7 25

/-- The way of a set that holds a key. -/
def tagWay? (s : State) (tk e : Nat) (key : Word) : Option Nat :=
  (List.range 4).find? (fun w => Sparse.read s.tags (tagKey tk (e * 4 + w)) == validTag key)

/-- A TAG instruction of a task with an allocation; without one WINDOW (R197). -/
def withTags (s : State) (go : Nat → Task → State) : Out State :=
  withTask s (fun tk t => if t.winUnits = 0 then .next (raiseFirst s cWINDOW 0) else .next (advance (go tk t)))

/-- Looks a key up (R198). -/
def execTlook (d a : SReg) (s : State) : Out State :=
  withTags s (fun tk t =>
    writeS s d (fun k =>
      let key := getS s k a
      let e := tagSet t key
      match tagWay? s tk e key with
      | some w => BitVec.ofNat 32 (e * 4 + w)
      | none => 0xFFFFFFFF))

/-- Installs a tag in one lane's way: other ways holding it are cleared, and the old tag is returned. -/
def installTag (s : State) (tk : Nat) (t : Task) (d : SReg) (k : Nat) (key way : Word) : State :=
  let e := tagSet t key
  let w := way.toNat % 4
  let old := Sparse.read s.tags (tagKey tk (e * 4 + w))
  let cleared := ((List.range 4).filter (fun v => v != w)).foldl (fun (m : Sparse 26) v =>
    if Sparse.read m (tagKey tk (e * 4 + v)) = validTag key then Sparse.write m (tagKey tk (e * 4 + v)) 0 else m) s.tags
  let s := { s with tags := Sparse.write cleared (tagKey tk (e * 4 + w)) (validTag key) }
  setS s k d (if old.getLsbD 25 then old.extractLsb' 0 25 ++ 1#7 else 0)

/-- Installs tags in ascending lane order (R198). -/
def execTins (d a b : SReg) (s : State) : Out State :=
  withTags s (fun tk t => forActive s (fun x k => installTag x tk t d k (getS s k a) (getS s k b)))

/-- Invalidates the tag of one lane's key. -/
def deleteTag (s : State) (tk : Nat) (t : Task) (d : SReg) (k : Nat) (key : Word) : State :=
  let e := tagSet t key
  match tagWay? s tk e key with
  | some w =>
    setS { s with tags := Sparse.write s.tags (tagKey tk (e * 4 + w)) 0 } k d (BitVec.ofNat 32 (e * 4 + w))
  | none => setS s k d 0xFFFFFFFF

/-- Invalidates the tags of keys in ascending lane order (R198). -/
def execTdel (d a : SReg) (s : State) : Out State :=
  withTags s (fun tk t => forActive s (fun x k => deleteTag x tk t d k (getS s k a)))

/-- Invalidates every tag of the task (R198). -/
def execTclr (s : State) : Out State :=
  withTags s (fun tk _ => { s with tags := AMap.clear s.tags (tagKey tk 0) (tagKey tk 4096) })

/-! ## Remote operations (R194 to R196) -/

/-- The first lane whose source checks fail. -/
def ropBad (s : State) (ea : Nat → DWord) (n : Nat) : List Nat → Option (Nat × BitVec 8 × DWord)
  | [] => none
  | k :: r =>
    match ropCheck s (ea k) n with
    | some (c, v) => some (k, c, v)
    | none => ropBad s ea n r

/-- Entry kind of a ROP: only rop.st returns nothing. -/
def ropKind (aop : Nat) : EntryKind := if aop = 1 then .ropSt else .ropR

/-- The result of a ROP with a return enters its registers, and the strand continues. The access counts as
value-returning when its target is this part: on a physical line, and on a line of its context; for a chase these are the lines of
its own address, whatever its hops (R126, R194; DESIGN CHOICE: log 92). -/
def ropReturn (s : State) (k : Nat) (d : SReg) (data : List Word) (line : Option (Nat × Nat)) : State :=
  modStrand (setRegs s k d data) k (fun t =>
    (match line with | some l => t.sawLine l.1 l.2 | none => t).past)

/-- What an issue of ROPs has come to: the state and the lanes whose pages are absent, or a stop, or a trap taken. -/
inductive RopRun where
  | go (s : State) (absent : List (Nat × Absent))
  | ended (o : Out State)

/-- A strand has sent a ROP: it waits for the reply, or goes on after a posted one (R195). -/
def Strand.sentRop (posted : Bool) (t : Strand) : Strand := if posted then t.past else { t with wait := .rop }

/-- ROPs of the lanes in ascending order: each goes to its unit on this part, or to its peer (R195, R393). -/
def ropLanes (core : Nat) (t : Task) (aop : Nat) (ea : Nat → DWord) (entry : Nat → Absent → Entry) : State → List (Nat × Absent) → List Nat → RopRun
  | s, ab, [] => .go s ab
  | s, ab, k :: r =>
    match ropPeer? s (ea k) with
    | some p =>
      let s1 := ropSend s p (entry k ⟨0, .unmapped, t.ctx, none, some p, true⟩) k core
      ropLanes core t aop ea entry (modStrand s1 k (Strand.sentRop (aop == 1))) ab r
    | none =>
      let q := ropPage s (coreCaches core) t.ctx (ea k) aop
      match q.2 with
      | .trap c v =>
        if aop = 1 then
          ropLanes core t aop ea entry (modStrand q.1 k (fun x => { x.past with deferred := x.deferred ++ [⟨c, v⟩] })) ab r
        else .ended (.next (trapStrand q.1 k c v))
      | .absent a => ropLanes core t aop ea entry q.1 (ab ++ [(k, a)]) r
      | .window _ => ropLanes core t aop ea entry q.1 ab r
      | .page pa =>
        match paStop? pa with
        | some o => .ended o
        | none =>
          ropLanes core t aop ea entry
            (modStrand (ropHere q.1 (entry k ⟨0, .unmapped, t.ctx, none, none, true⟩) k core) k (Strand.sentRop (aop == 1))) ab r

/-- A ROP of a strand to a peer waits for its turn to go out (R195). -/
def ropHeld (s : State) (k : Nat) (ea : DWord) : Bool :=
  s.fab.ropsHeld.any (fun h => ropPeer? s ea == some h.1 && Entry.ofStrands s [k] h.2.1)

/-- The page that a strand's latest pending rop.st to the target of an address waits for: a later one enters the side log behind
it, unless ROPs between the two already wait for their turn, behind which it then waits (R195). -/
def ropBehind? (s : State) (k : Nat) (ea : DWord) : Option Absent :=
  if ropHeld s k ea then none else ((sideRops s k (ropPeer? s ea)).getLast?).map (·.away)

/-- The page at a peer that a strand's ROP has been told is absent, while the parked-access table had no place for its entry: the
entry is made when there is one (R179, R196). -/
def roomWait? (s : State) (k : Nat) : Option Absent :=
  match (strandAt s k).wait with
  | .cond (.parkRoom _ _ a) _ => if a.peer.isSome then some a else none
  | _ => none

/-- What the ROPs of lanes to this part find at their own addresses: a failing check ends the issue before any performs (R40, R177,
R194). -/
def ropFound (s : State) (t : Task) (aop : Nat) (ea : Nat → DWord) (ks : List Nat) : State × List (Nat × Found) :=
  findIn s (ks.filter (fun k => (ropPeer? s (ea k)).isNone)) (fun x k => ropPage x (coreCaches s.issue.core) t.ctx (ea k) aop)

/-- The lanes of a ROP that wait for their turn, so that the ROPs of a strand to one part perform in issue order (R195): while a
rop.st of the strand to the same part is pending in the side log, one with a return waits (another rop.st enters the side log behind
it); while one to this part is outstanding, every other to this part waits. -/
def ropTurns (s : State) (aop : Nat) (ea : Nat → DWord) (ks : List Nat) : List Nat :=
  ks.filter (fun k =>
    if (ropBehind? s k (ea k)).isSome then aop != 1 else (ropPeer? s (ea k)).isNone && unitOut s (Entry.ofStrands s [k]))

/-- A remote operation: source checks, then each lane; an absent page parks the lane, or retires rop.st into the side
log (R194 to R196). -/
def remote (s : State) (aop fl : Nat) (d : SReg) (g : GReg) (x : SReg) : Out State :=
  withTask s (fun _ t =>
    let core := s.issue.core
    let addr := fun (k : Nat) => eaA s k g x
    let data := fun (k : Nat) => getRegs s k d (ropRegs aop fl)
    let late := (active s).filterMap (fun k => (roomWait? s k).map (fun a => (k, a)))
    let fresh := (active s).filter (fun k => (roomWait? s k).isNone)
    let behind := fresh.filterMap (fun k => (ropBehind? s k (addr k)).map (fun a => (k, a)))
    let free := fresh.filter (fun k => (ropBehind? s k (addr k)).isNone)
    if ropTurns s aop addr fresh ≠ [] then
      .next (waitLanes s (ropTurns s aop addr fresh) (fun k => .ropTurn k (ropPeer? s (addr k))))
    else
    match ropBad s addr (ropSize aop fl) (active s) with
    | some (k, c, v) => .next (raiseTrap s c v k)
    | none =>
      let entry := fun (k : Nat) (a : Absent) =>
        { laneEntry s t (ropKind aop) (addr k) (ropSize aop fl) k a with
          data := data k, aop := BitVec.ofNat 5 aop, fl := BitVec.ofNat 4 fl, d := d }
      checked (if aop = 1 then (s, []) else ropFound s t aop addr free) (fun s0 _ =>
        match ropLanes core t aop addr entry s0 late free with
        | .ended o => o
        | .go s1 ab =>
          let s2 := requestAll s1 t.ctx (ropAccess aop) ab
          if aop = 1 then .next (sideLanes s2 (ab ++ behind) entry) else .next (parkLanes s2 ab entry)))

/-- Remote load (R194). -/
def execRopLd (d : SReg) (g : GReg) (x : SReg) (z : BitVec 2) (s : State) : Out State := remote s 0 z.toNat d g x

/-- Posted remote store (R194). -/
def execRopSt (d : SReg) (g : GReg) (x : SReg) (z : BitVec 2) (s : State) : Out State := remote s 1 z.toNat d g x

/-- Remote add that returns the old value (R194). -/
def execRopAdd (d : SReg) (g : GReg) (x : SReg) (z : BitVec 1) (s : State) : Out State := remote s 2 z.toNat d g x

/-- Remote compare-and-swap of two words (R194). -/
def execRopCas2 (d : BitVec 4) (g : GReg) (x : SReg) (s : State) : Out State := remote s 3 0 (d ++ 0#2) g x

/-- Remote enqueue onto a tail word (R194). -/
def execRopEnq (d : BitVec 5) (g : GReg) (x : SReg) (s : State) : Out State := remote s 4 0 (evenReg d) g x

/-- Remote pointer chase (R194). -/
def execRopChase (d : BitVec 5) (g : GReg) (x : SReg) (h : BitVec 3) (s : State) : Out State :=
  remote s 5 h.toNat (evenReg d) g x

/-! ## MONW (R126) -/

/-- The strand's last value-returning GLOBAL access was to the line of an address, and a wake event has occurred for it since:
the line in the context's space, wherever its page lies now, or the physical line (R126). -/
def Strand.sawWake (t : Strand) (pa va : Nat) : Bool :=
  t.woken && (t.lastLine == some (pa / 128) || t.lastVa == some (va / 128))

/-- The MONW of one lane whose page is present: it continues, its core dropping the line from the snapshot (R275), or parks on
the line (R126). -/
def monwLane (s : State) (core k pa va : Nat) : State :=
  let s1 := modStrand s k Strand.past
  if (strandAt s k).sawWake pa va then modCore s1 core (fun c => { c with snap := AMap.erase c.snap (pa / 128) })
  else parkMonitor s1 k (.global (pa / 128))

/-- Lanes of a MONW; the first that meets a lasting error ends in DATAERR (R318). -/
def monwLanes (core : Nat) (ea : Nat → DWord) : State → List (Nat × Nat) → Sum State State
  | s, [] => .inl s
  | s, (k, pa) :: r =>
    let e := readFails s core pa 4
    if e.2 then .inr (trapStrand e.1 k cDATAERR (ea k)) else monwLanes core ea (monwLane e.1 core k pa (ea k).toNat) r

/-- Parks the strand on a monitor of a line unless a wake event has already occurred (R126). -/
def execMonw (g : GReg) (x : SReg) (i : BitVec 4) (s : State) : Out State :=
  withTask s (fun _ t =>
    let core := s.issue.core
    let addr := fun (k : Nat) => ea s k g x 4 i
    afterLines s addr (checked (findAll s (fun x k => checkGlobal x core t.ctx (addr k) 4 rR false)) (fun s1 fs =>
      match monwLanes core addr s1 (presentOf fs) with
      | .inr s => .next s
      | .inl s2 =>
        let s := requestAll s2 t.ctx .read (absentOf fs)
        .next (parkLanes s (absentOf fs) (fun k a => laneEntry s t .monw (addr k) 4 k a)))))

end Sys2Proof.Machine
end

