-- ==== Sys2Proof/Machine/Copy.lean ====
section
/-! DEFINITION. Shape registers, copies, tokens, QFENCE, operand slots, tile-task records and predecessor counters as
their instructions act on them (R200 to R229). -/

namespace Sys2Proof.Machine

/-! ## HSET and CPY (R204, R205) -/

/-- A shape with one 64-bit word replaced. -/
def setWord (h : BitVec 256) (w : Nat) (v : DWord) : BitVec 256 :=
  (h &&& ~~~((0xFFFFFFFFFFFFFFFF#256) <<< (64 * w))) ||| (v.setWidth 256 <<< (64 * w))

/-- Writes one word of a shape register (R204). -/
def execHset (h : Reg3) (a : GReg) (w : BitVec 2) (s : State) : Out State :=
  .next (advance (setH s (gk s) h (setWord (getH s (gk s) h) w.toNat (getG s (gk s) a))))

/-- A side's base or steps are not multiples of its alignment unit (R205, R206). -/
def sideMisaligned (h : BitVec 256) (dst : Bool) (base : DWord) : Bool :=
  let u : Int := shUnit h dst
  let s1 := if dst then shDstep1 h else shSstep1 h
  let s2 := if dst then shDstep2 h else shSstep2 h
  (base.toNat : Int) % u != 0 || s1 % u != 0 || s2 % u != 0

/-- The checks of one side's extent: a trap's cause and value (R205). -/
def sideFault (s : State) (t : Task) (h : BitVec 256) (dst : Bool) (base : DWord) : Option (BitVec 8 × DWord) :=
  let cl := clusterOfCore s.issue.core
  let ps := sidePieces h dst base
  match (if dst then shDst h else shSrc h) with
  | 1 => if piecesWithin (t.winUnits * 16384) ps then none else some (cWINDOW, base)
  | 2 =>
    if !piecesWithin (cluLimit s cl) ps then some (cWINDOW, base)
    else if !ps.isEmpty && (clusterShare? s cl t.ctx).isNone then some (cPROT, base)
    else none
  | 3 => (lowestIn (unclaimed s cl t.ctx) ps).map (fun a => (cSLOTFAULT, BitVec.ofInt 64 a))
  | _ => if piecesWithin (2 ^ 52) ps then none else some (cPROT, base)

/-- The checks of a CPY in their order (R205). -/
def copyFault (s : State) (t : Task) (h : BitVec 256) (src dst : DWord) : Option (BitVec 8 × DWord) :=
  if invalidShape (featureOn s 2) h then some (cILLEGAL, s.issue.word.setWidth 64)
  else if sideMisaligned h false src then some (cALIGN, src)
  else if sideMisaligned h true dst then some (cALIGN, dst)
  else if (shSrc h == 4 || shDst h == 4) && !connected s (shPeer h) then some (cFABRIC, (shPeer h).setWidth 64)
  else
    match sideFault s t h false src with
    | some f => some f
    | none => sideFault s t h true dst

/-- One more operation is outstanding on a token (R205, R222). -/
def tokenStart (s : State) (k : KReg) : State :=
  let t := getK s (gk s) k
  setK s (gk s) k { t with outstanding := t.outstanding + 1 }

/-- Checks a shape and queues a copy (R205). -/
def execCpy (h : Reg3) (a b : GReg) (k : KReg) (s : State) : Out State :=
  withTask s (fun tk t =>
    let sh := getH s (gk s) h
    let src := getG s (gk s) a
    let dst := getG s (gk s) b
    match copyFault s t sh src dst with
    | some (c, v) => .next (raiseFirst s c v)
    | none =>
      let c : Copy :=
        { shape := sh, src := src, dst := dst, tok := tokRef s k, ctx := t.ctx, task := tk, core := s.issue.core,
          group := gk s, winBase := t.winBase, since := s.now, run := 0, stopped := none, retry := false, done := false, error := false,
          peerOut := 0, peerSent := 0, peerData := none }
      let q := clusterOfCore s.issue.core * 12 + shQueue sh
      .next (advance (modQueue (tokenStart s k) q (fun x => { x with copies := x.copies ++ [c] }))))

/-! ## Tokens (R210 to R213) -/

/-- The key of a token of the issuing group. -/
def tokKey (s : State) (k : KReg) : Nat := gk s * 16 + k.toNat

/-- The strands of S wait until a condition holds; then something happens (R106). -/
def whenHolds (s : State) (c : Cond) (go : Out State) : Out State :=
  if condHolds s c then go else .next (waitFor s (active s) c)

/-- Waits for a token threshold, an error or no outstanding work, then acquires (R211). -/
def execTwait (a : GReg) (k : KReg) (s : State) : Out State :=
  whenHolds s (.tokAtLeast (tokKey s k) ((getG s (gk s) a).toNat % 2 ^ 31)) (.next (advance (acquire s s.issue.core)))

/-- Waits for no outstanding work, reads the count, then acquires (R210). -/
def execTread (d : GReg) (k : KReg) (s : State) : Out State :=
  whenHolds s (.tokQuiet (tokKey s k))
    (resG (acquire s s.issue.core) d ((getK s (gk s) k).count.setWidth 64))

/-- The queues that an error on a token has halted start again (R212). -/
def restartQueues (s : State) (r : TokRef) : State :=
  { s with queues := s.queues.map (fun e => (e.1, if e.2.halted = some r then { e.2 with halted := none } else e.2)) }

/-- Sets a token count; with bit 31 clear the queues halted on the token start again (R212). -/
def execTset (a : GReg) (k : KReg) (s : State) : Out State :=
  let v : Word := (getG s (gk s) a).setWidth 32
  let s1 := setK s (gk s) k { getK s (gk s) k with count := v }
  .next (advance (if v.getLsbD 31 then s1 else restartQueues s1 (tokRef s k)))

/-- Adds to a token count, leaving bit 31 (R210, R212). -/
def execTadd (a : GReg) (k : KReg) (s : State) : Out State :=
  let t := getK s (gk s) k
  let v : Word := (getG s (gk s) a).setWidth 32
  let n : Word := t.count.extractLsb' 31 1 ++ (t.count.extractLsb' 0 31 + v.extractLsb' 0 31)
  .next (advance (setK s (gk s) k { t with count := n }))

/-- The cycle up to which copies are earlier than the QFENCE that issues: its first issue for the strands of S, or now when
one of them has just come to it (R214). -/
def fenceTime (s : State) : Nat :=
  (active s).foldl (fun b k => match (strandAt s k).wait with | .cond (.queuesClear _ _ _ b') _ => max b b' | _ => max b s.now) 0

/-- Waits for the group's earlier copies in the queues of the mask (R214). -/
def execQfence (a : GReg) (s : State) : Out State :=
  withTask s (fun _ t =>
    let m := getG s (gk s) a
    let cl := clusterOfCore s.issue.core
    let qs := ((List.range 12).filter (fun q => m.getLsbD q)).map (fun q => cl * 12 + q)
    whenHolds s (.queuesClear t.uid (((groupAt? s (gk s)).map (·.index)).getD 0) qs (fenceTime s)) (.next (advance s)))

/-! ## Operand slots (R216, R217) -/

/-- An MTX operation of a task whose context owns a share of its cluster; else PROT with g[GA] (R216). -/
def withShare (s : State) (a : GReg) (go : Nat → Task → Out State) : Out State :=
  withTask s (fun tk t =>
    match clusterShare? s (clusterOfCore s.issue.core) t.ctx with
    | none => .next (raiseFirst s cPROT (getG s (gk s) a))
    | some _ => go tk t)

/-- The lowest-numbered free slot of a context's share, by its number in the share. -/
def freeSlot? (s : State) (cl : Nat) (ctx : CtxId) : Option Nat :=
  match slotShare? s cl ctx with
  | none => none
  | some (first, n) => (List.range n).find? (fun i => (AMap.get? (clusterAt s cl).claims (first + i)).isNone)

/-- Claims and zeroes the lowest free slot (R217). -/
def execMclaim (d : GReg) (s : State) : Out State :=
  withShare s 0 (fun _ t =>
    let cl := clusterOfCore s.issue.core
    let first := ((slotShare? s cl t.ctx).map (·.1)).getD 0
    match freeSlot? s cl t.ctx with
    | none => resG s d 0xFFFF
    | some i =>
      let s1 := modCluster s cl (fun c => { c with claims := AMap.put c.claims (first + i) t.ctx })
      resG (opZero s1 cl ((first + i) * 8192) 8192) d (BitVec.ofNat 64 i))

/-- Frees a slot once no queued work names it (R217). -/
def execMrelease (a : GReg) (s : State) : Out State :=
  withShare s a (fun _ t =>
    let cl := clusterOfCore s.issue.core
    let v := getG s (gk s) a
    let first := ((slotShare? s cl t.ctx).map (·.1)).getD 0
    if v.extractLsb' 9 55 ≠ 0 ∨ unclaimed s cl t.ctx v.toNat then .next (raiseFirst s cSLOTFAULT v)
    else
      whenHolds s (.slotIdle cl (first + v.toNat))
        (.next (advance (modCluster s cl (fun c => { c with claims := AMap.erase c.claims (first + v.toNat) })))))

/-! ## Records (R218 to R222) -/

/-- A mask of bits of a record: byte offset, low bit, width. -/
def recMask (fs : List (Nat × Nat × Nat)) : BitVec 512 :=
  fs.foldl (fun m f => m ||| (BitVec.ofNat 512 (2 ^ f.2.2 - 1) <<< (f.1 * 8 + f.2.1))) 0

/-- The bits that a record of its kind may have set (R218, R220). -/
def recAllowed (r : BitVec 512) : BitVec 512 :=
  let base := [(0x00, 0, 8), (0x00, 8, 4), (0x00, 12, 1), (0x04, 0, 12), (0x04, 15, 1), (0x04, 16, 12), (0x04, 31, 1)]
  let drain := [(0x00, 13, 1), (0x28, 0, 64), (0x30, 0, 32), (0x34, 0, 32), (0x38, 4, 4), (0x38, 0, 2)]
  recMask (base ++
    match rcKind r with
    | 1 => [(0x00, 28, 4), (0x00, 16, 1), (0x10, 0, 32), (0x1C, 0, 32), (0x20, 0, 32)]
    | 3 => [(0x00, 24, 4), (0x00, 14, 2), (0x08, 0, 32), (0x18, 0, 32), (0x24, 0, 16)]
    | 4 => [(0x00, 14, 4), (0x00, 24, 8), (0x08, 0, 256 - 32), (0x24, 0, 24)] ++ (if rcDrn r then drain else [])
    | 5 => [(0x00, 15, 1), (0x24, 0, 16)] ++ drain
    | _ => [])

/-- A format of some pairing of R153. -/
def pairable (f : Nat) : Bool := f ≤ 10 && f != 0 && f != 5

/-- The pairings of R153. -/
def pairs (a w : Nat) : Bool :=
  let eight := fun (f : Nat) => f == 3 || f == 4 || f == 10
  let int := fun (f : Nat) => f == 6 || f == 7
  (eight a && eight w) || (int a && int w) || (a == w && (a == 1 || a == 2 || a == 8 || a == 9))

/-- The format codes that a record's kind uses. -/
def recFormats (r : BitVec 512) : List Nat :=
  (match rcKind r with
   | 1 => [rcWfmt r]
   | 3 => [rcAfmt r]
   | 4 => [rcAfmt r, rcWfmt r]
   | _ => []) ++ (if drains r then [rcDfmt r] else [])

/-- KIND, and every format code that its kind uses, are allocated (R222). -/
def decodable (r : BitVec 512) : Bool := 1 ≤ rcKind r && rcKind r ≤ 5 && (recFormats r).all fmtOk

/-- A record is refused (R222). A counter index is checked where the record enables it, and an ENG outside the context's share
refuses the record: R222 names neither case (DESIGN CHOICE: log 83). -/
def refused (s : State) (cl : Nat) (ctx : CtxId) (r : BitVec 512) (dep : DWord) : Bool :=
  let counters := ((counterShare? s cl ctx).map (·.2)).getD 0
  let engines := ((engineShare? s cl ctx).map (·.2)).getD 0
  let k := rcKind r
  let out := fun (o : Option Nat) => match o with | none => false | some i => decide (counters ≤ i)
  let usesW := k == 1 || k == 4
  let usesA := k == 3 || k == 4
  !decodable r || (r &&& ~~~(recAllowed r)) != 0 || dep.extractLsb' 13 51 != 0 ||
  (rcAny r && !(k == 4 && !rcAcc r && rcDrn r && rcEng r == 0)) || decide (engines ≤ rcEng r) ||
  out (rcD0 r) || out (rcD1 r) || (dep.getLsbD 12 && decide (counters ≤ dep.toNat % 4096)) ||
  decide (128 < rcRow0 r + rcRows r) ||
  rcAsrc r % 64 != 0 || rcAstr r % 64 != 0 || rcBsrc r % 64 != 0 || rcBstr r % 64 != 0 ||
  rcAsc r % 4 != 0 || rcBsc r % 4 != 0 || rcMd r % 8 != 0 ||
  (usesW && !pairable (rcWfmt r)) || (usesA && !pairable (rcAfmt r)) ||
  (k == 4 && !pairs (rcAfmt r) (rcWfmt r)) ||
  (rcSparse r && (rcWfmt r == 8 || rcWfmt r == 9 || !featureOn s 3)) ||
  ((recFormats r).any isKX && !featureOn s 2) ||
  (drains r && (rcDsp r == 3 || rcDstr r % elemBytes (rcDfmt r) != 0))

/-- The slot and window checks of a decodable record (R222). -/
def recordFault (s : State) (t : Task) (r : BitVec 512) : Option (BitVec 8 × DWord) :=
  let cl := clusterOfCore s.issue.core
  if !decodable r then none
  else
    match lowestIn (unclaimed s cl t.ctx) (recordPieces r) with
    | some a => some (cSLOTFAULT, BitVec.ofInt 64 a)
    | none =>
      if drains r && rcDsp r == 1 && !piecesWithin (cluLimit s cl) (drainAll r) then some (cWINDOW, rcDaddr r)
      else none

/-- Reads, checks and posts a record with a dependence word (R222). The share of R216 is checked before the alignment of the
record's address, an order that the spec leaves open (DESIGN CHOICE: log 84). -/
def execMpost (a b : GReg) (k : KReg) (s : State) : Out State :=
  withShare s a (fun tk t =>
    let addr := getG s (gk s) a
    let dep := getG s (gk s) b
    let cl := clusterOfCore s.issue.core
    if addr.toNat % 64 ≠ 0 then .next (raiseFirst s cALIGN addr)
    else
      readBlock s t addr 64 (fun s1 bs =>
        let r : BitVec 512 := BitVec.ofNat 512 (natOfBytes bs)
        match recordFault s1 t r with
        | some (c, v) => .next (raiseFirst s1 c v)
        | none =>
          whenHolds s1 (.postRoom cl) (
            if refused s1 cl t.ctx r dep then
              let x := getK s1 (gk s1) k
              .next (advance (setK s1 (gk s1) k { x with count := bumpCount x.count true }))
            else
              let first := ((counterShare? s1 cl t.ctx).map (·.1)).getD 0
              let p : Record :=
                { words := r, pred := if dep.getLsbD 12 then some (first + dep.toNat % 4096) else none,
                  tok := tokRef s1 k, ctx := t.ctx, share := ((engineShare? s1 cl t.ctx).map (·.1)).getD 0,
                  task := tk, group := gk s1 }
              let s2 := tokenStart s1 k
              .next (advance { s2 with posts := AMap.put s2.posts cl (AMap.getD s2.posts cl [] ++ [p]) }))))

/-! ## Predecessor counters (R229) -/

/-- The key of the counter that g[GA] names; PROT outside the context's share. -/
def withIndex (s : State) (a : GReg) (go : Nat → Nat → Out State) : Out State :=
  withShare s a (fun _ t =>
    let cl := clusterOfCore s.issue.core
    let v := getG s (gk s) a
    match counterShare? s cl t.ctx with
    | none => .next (raiseFirst s cPROT v)
    | some (first, n) =>
      if v.extractLsb' 12 52 ≠ 0 ∨ n ≤ v.toNat then .next (raiseFirst s cPROT v) else go cl (first + v.toNat))

/-- Writes a counter (R229). -/
def execPcset (a b : GReg) (s : State) : Out State :=
  withIndex s a (fun cl i =>
    .next (advance { s with pcs := Sparse.write s.pcs (cl * 4096 + i) ((getG s (gk s) b).setWidth 32) }))

/-- Reads a counter (R229). -/
def execPcread (d a : GReg) (s : State) : Out State :=
  withIndex s a (fun cl i => resG s d ((Sparse.read s.pcs (cl * 4096 + i)).setWidth 64))

/-- Waits for a counter to read zero, then acquires (R229). -/
def execPcwait (a : GReg) (s : State) : Out State :=
  withIndex s a (fun cl i => whenHolds s (.counterZero cl i) (.next (advance (acquire s s.issue.core))))

end Sys2Proof.Machine
end

