-- ==== Sys2Proof/Machine/Messages.lean ====
section
/-! DEFINITION. Messages: SEND in its three forms, REPLY, REFUSE, MQSTAT, MBIND, MUNBIND and LAUNCH, and the placement
order (R230 to R245, R328). -/

namespace Sys2Proof.Machine

/-! ## Sending (R232, R233) -/

/-- A destination word that is no destination: a reserved field, the reserved network, or fields that do not go together
(R233) (DEDUCED: log 39). -/
def badDest (dw : DWord) (z : Nat) : Bool :=
  dw.extractLsb' 44 7 != 0 || dw.extractLsb' 24 8 != 0 || dw.extractLsb' 6 2 != 0 || dw.extractLsb' 14 2 == 3 ||
  (!dw.getLsbD 63 && dw.extractLsb' 53 10 != 0) ||
  (if dw.getLsbD 52 then z == 0 || dw.extractLsb' 0 6 != 0 else dw.getLsbD 51)

/-- A destination word that needs SUPER (R233). -/
def privDest (ctx : CtxId) (dw : DWord) : Bool :=
  dw.getLsbD 52 || dw.extractLsb' 14 2 == 2 || dw.extractLsb' 32 12 != ctx

/-- The network of a destination word (R232). -/
def destNet (dw : DWord) : VNet := match (dw.extractLsb' 14 2).toNat with | 0 => .req | 1 => .bulk | _ => .sys

/-- A task address in a payload word is misaligned or outside the address space (R233). -/
def badPc (w : DWord) : Bool := w.extractLsb' 0 2 != 0 || w.extractLsb' 52 12 != 0

/-- The uniform register after a number of others. -/
def gAfter (b : GReg) (n : Nat) : GReg := b + BitVec.ofNat 5 n

/-- The arguments begin at the even register of a field. -/
def argReg (b : BitVec 4) : GReg := b ++ 0#1

/-- The payload words of a message (R232). -/
def payloadOf (s : State) (b : BitVec 4) (w : BitVec 4) : List DWord :=
  (List.range w.toNat).map (fun n => getG s (gk s) (gAfter (argReg b) (n + 2)))

/-- A message to a destination word (R233). -/
def toDest (dw : DWord) (origin : Origin) (id : Word) (a0 a1 : DWord) (payload : List DWord) : Message :=
  { kind := .task, dw := dw, peer := if dw.getLsbD 63 then some (dw.extractLsb' 53 10) else none,
    core := dw.extractLsb' 16 8, ctx := dw.extractLsb' 32 12, slot := dw.extractLsb' 0 6, supv := false,
    vnet := destNet dw, origin := origin, id := id, a0 := a0, a1 := a1, payload := payload, trap := none, serial := 0,
    agent := if origin.window.isSome then .pcie else .core origin.core, seat := none }

/-- A message enters a send queue of its core (R325); the service processor, core 256, has none and puts it on its way. -/
def enqueueSend (s : State) (core : Nat) (m : Message) : State :=
  if 256 ≤ core then sendOut s { m with agent := .serviceProcessor }
  else modCore s core (fun c =>
    match m.vnet with
    | .req => { c with sendReq := c.sendReq ++ [m] }
    | .reply => { c with sendReply := c.sendReply ++ [m] }
    | .sys => { c with sendSys := c.sendSys ++ [m] }
    | .bulk => { c with sendBulk := c.sendBulk ++ [m] })

/-- The checks of a SEND in their order (R233). -/
def withDest (s : State) (a : GReg) (b : BitVec 4) (w : BitVec 4) (go : Nat → Task → DWord → Out State) : Out State :=
  withTask s (fun tk t =>
    let dw := getG s (gk s) a
    let pcWord := getG s (gk s) (gAfter (argReg b) 2)
    if badDest dw w.toNat then .next (raiseFirst s cILLEGAL dw)
    else
      let rest : Out State :=
        if dw.getLsbD 63 && !connected s (dw.extractLsb' 53 10) then .next (raiseFirst s cFABRIC dw)
        else if dw.getLsbD 52 && badPc pcWord then .next (raiseFirst s cALIGN pcWord)
        else go tk t dw
      if privDest t.ctx dw then needPrivFirst s 1 dw rest else rest)

/-- The message of a SEND with a new identifier of KIND REQ. -/
def sendMessage (s : State) (t : Task) (dw : DWord) (b : BitVec 4) (w : BitVec 4) : State × Message :=
  let p := newId s s.issue.core kReq
  let m := toDest dw ⟨none, BitVec.ofNat 8 s.issue.core, t.ctx, none⟩ p.2 (getG s (gk s) (argReg b))
    (getG s (gk s) (gAfter (argReg b) 1)) (payloadOf s b w)
  (p.1, if 256 ≤ s.issue.core then { m with agent := .serviceProcessor } else m)

/-- Waits for room in a send queue, then sends (R233) (DEDUCED: log 49). -/
def whenRoom (s : State) (v : VNet) (dw : DWord) (go : Out State) : Out State :=
  whenHolds s (.sendRoom s.issue.core v dw) go

/-- Sends a message, waiting while the send queue is full (R233). -/
def execSend (a : GReg) (b : BitVec 4) (w : BitVec 4) (s : State) : Out State :=
  withDest s a b w (fun _ t dw =>
    whenRoom s (destNet dw) dw (
      let p := sendMessage s t dw b w
      .next (advance (enqueueSend p.1 s.issue.core p.2))))

/-- Holds a message in the task until it ends; SENDQ on a 17th (R233). -/
def execSendC (a : GReg) (b : BitVec 4) (w : BitVec 4) (s : State) : Out State :=
  withDest s a b w (fun tk t dw =>
    if 16 ≤ t.held.length - (if t.refused then 1 else 0) then .next (raiseFirst s cSENDQ 16)
    else
      let p := sendMessage s t dw b w
      .next (advance (modTask p.1 tk (fun x => { x with held := x.held ++ [p.2] }))))

/-- Sends without waiting: p[D] tells that the queue was full (R233). -/
def execSendNb (p : Reg3) (a : GReg) (b : BitVec 4) (w : BitVec 4) (s : State) : Out State :=
  withDest s a b w (fun _ t dw =>
    let m := sendMessage s t dw b w
    let full := !condHolds s (.sendRoom s.issue.core (destNet dw) dw)
    .next (advance (writeP (if full then m.1 else enqueueSend m.1 s.issue.core m.2) p (fun _ => full))))

/-! ## The starting message (R237 to R239) -/

/-- The message that started a task. -/
def startMessage? (t : Task) : Option Message := match t.work with | .message m => some m | _ => none

/-- The starting message of KIND REQ; without one PROT with value 0 (R237). -/
def withRequest (s : State) (go : Nat → Task → Message → Out State) : Out State :=
  withTask s (fun tk t =>
    match startMessage? t with
    | some m => if kindOf m.id = kReq then go tk t m else .next (raiseFirst s cPROT 0)
    | none => .next (raiseFirst s cPROT 0))

/-- A reply to a request from a core and context: to the request's origin at slot RSLOT (R237). -/
def replyTo (m : Message) (core : Nat) (ctx : CtxId) (a0 a1 : DWord) (payload : List DWord) : Message :=
  { m with
    peer := m.origin.peer, core := m.origin.core, ctx := m.origin.ctx, slot := m.dw.extractLsb' 8 6, supv := false,
    vnet := .reply, origin := ⟨none, BitVec.ofNat 8 core, ctx, m.origin.window⟩, id := withKind m.id kReply, a0 := a0,
    a1 := a1, payload := payload, trap := none, serial := 0, agent := .core (BitVec.ofNat 8 core), seat := none, landed := false,
    ack := none }

/-- Answers the starting message (R237). -/
def execReply (b : BitVec 4) (w : BitVec 4) (s : State) : Out State :=
  withRequest s (fun _ t m =>
    whenRoom s .reply m.dw (
      let r := replyTo m s.issue.core t.ctx (getG s (gk s) (argReg b)) (getG s (gk s) (gAfter (argReg b) 1))
        (payloadOf s b w)
      .next (advance (enqueueSend s s.issue.core r))))

/-- A supervisor task that a TRAP message started. -/
def trapTask (t : Task) : Bool :=
  t.supv && (match startMessage? t with | some m => kindOf m.id == kTrap | none => false)

/-- Declines the starting message: its refusal is held like a SEND.C; after a TRAP it marks the trapped task's work for
discard (R238). -/
def execRefuse (s : State) : Out State :=
  withTask s (fun tk t =>
    if trapTask t then .next (advance (modTask s tk (fun x => { x with discardWork := true })))
    else
      withRequest s (fun tk t m =>
        .next (advance (if t.refused then s else
          modTask s tk (fun x => { x with refused := true, held := x.held ++ [refusal m kSoft] })))))

/-! ## Slots and mailboxes (R239 to R242, R322) -/

/-- The mailbox of a context on a core. -/
def mailbox (s : State) (core : Nat) (ctx : CtxId) : List Held := AMap.getD (coreAt s core).mbox ctx.toNat []

/-- A message of the PC form (R233). -/
def Message.pcForm (m : Message) : Bool := !m.supv && kindOf m.id == kReq && m.dw.getLsbD 52

/-- Mailbox work for a slot of its context, 64 for the supervisor handler. -/
def Work.forSlot (key : Nat) : Work → Bool
  | .message m => if key = 64 then m.supv else !m.supv && !m.pcForm && m.slot.toNat == key
  | .launch i => key != 64 && i.slot.toNat == key
  | _ => false

/-- A slot of a context is bound. -/
def bound (s : State) (ctx : CtxId) (key : Nat) : Bool :=
  ((ctxAt? s ctx).map (fun c => (AMap.get? c.binds key).isSome)).getD false

/-- Messages held for unbound slots in a mailbox (R242). -/
def heldCount (s : State) (core : Nat) (ctx : CtxId) (keys : List Nat) : Nat :=
  let ks := keys.filter (fun k => !bound s ctx k)
  ((mailbox s core ctx).filter (fun h => ks.any (fun k => h.work.forSlot k))).length

/-- The cores where a context is resident (R320). -/
def coresOf (s : State) (ctx : CtxId) : List Nat :=
  (((ctxAt? s ctx).map (·.clusters)).getD []).flatMap (fun c => (List.range 8).map (fun i => c.toNat * 8 + i))

/-- Messages held for a slot on every core where its context is resident (R241) (DEDUCED: log 40). -/
def heldEverywhere (s : State) (ctx : CtxId) (key : Nat) : Nat :=
  (coresOf s ctx).foldl (fun n c => n + heldCount s c ctx [key]) 0

/-- Messages in a context's overflow mailbox. -/
def overflowCount (s : State) (ctx : CtxId) : Nat := ((ctxAt? s ctx).map (fun c => c.ovf.length)).getD 0

/-- The value of an MQSTAT selector, if it is listed (R239). -/
def mqValue? (s : State) (t : Task) (sel : Nat) : Option Nat :=
  let m := startMessage? t
  let core := s.issue.core
  if sel ≤ 0x0B then some (((m.bind (fun m => m.payload[sel]?)).map (·.toNat)).getD 0)
  else
    match sel with
    | 0x0C => some ((m.map (fun m => m.payload.length)).getD 0)
    | 0x0D => some ((m.map (fun m => m.dw.toNat)).getD 0)
    | 0x10 => some (mailbox s core t.ctx).length
    | 0x11 => some (overflowCount s t.ctx)
    | 0x12 => some (heldCount s core t.ctx (List.range 64))
    | 0x14 => some (coreAt s core).sendReq.length
    | 0x15 => some (coreAt s core).sendReply.length
    | 0x16 => some (coreAt s core).sendSys.length
    | 0x17 => some (coreAt s core).sendBulk.length
    | _ => none

/-- Reads the starting message and the queues (R239). -/
def execMqstat (d a : GReg) (s : State) : Out State :=
  withTask s (fun _ t =>
    let sel := getG s (gk s) a
    match mqValue? s t sel.toNat with
    | some v => resG s d (BitVec.ofNat 64 v)
    | none => .next (raiseFirst s cPROT sel))

/-- The context that a slot descriptor names, and its slot's key (R240). -/
def descCtx (d : DWord) : CtxId := d.extractLsb' 32 12
def descKey (d : DWord) : Nat := if d.getLsbD 24 then 64 else d.toNat % 64

/-- The privilege rule of MBIND and MUNBIND (R241). -/
def withDesc (s : State) (a : GReg) (go : Task → DWord → Out State) : Out State :=
  withTask s (fun _ t =>
    let d := getG s (gk s) a
    if d.getLsbD 24 || descCtx d != t.ctx then needPrivFirst s 1 d (go t d) else go t d)

/-- The context of a descriptor is 0 or none of the issuer's partition (R241). -/
def foreign (s : State) (issuer ctx : CtxId) : Bool := ctx == 0 || (partOf? s ctx).isNone || partOf? s ctx != partOf? s issuer

/-- A context's partition is in RESIDENT mode (R24). -/
def residentPart (s : State) (ctx : CtxId) : Bool :=
  (((partOf? s ctx).bind (fun p => AMap.get? s.parts p)).map (·.resident)).getD false

/-- A descriptor that no binding takes (R12, R240, R241). One with SUPV and a SLOT that is not 0 is among them: R240 says that SLOT
must then be 0, and R241 names no status for it (DESIGN CHOICE: log 97). -/
def badDesc (s : State) (d : DWord) : Bool :=
  d.extractLsb' 44 20 != 0 || d.extractLsb' 25 7 != 0 || d.extractLsb' 11 5 != 0 || d.extractLsb' 6 2 != 0 ||
  decide (4 < (d.extractLsb' 8 3).toNat) ||
  decide ((if residentPart s (descCtx d) then 16 else 32) < (d.extractLsb' 16 6).toNat) ||
  (d.getLsbD 24 && d.extractLsb' 0 6 != 0)

/-- The status of an MBIND (R241). -/
def bindStatus (s : State) (issuer : CtxId) (d entry : DWord) : Nat :=
  if foreign s issuer (descCtx d) then 0x05
  else if badDesc s d then 0x01
  else if badPc entry then 0x02
  else 0x00

/-- The binding of a descriptor and an entry. -/
def bindingOf (d entry : DWord) : Binding :=
  ⟨entry.setWidth 52, (d.extractLsb' 8 3).toNat, (d.extractLsb' 16 6).toNat, d.extractLsb' 22 2⟩

/-- Binds a handler slot and reports the messages held for it (R241); with NOCTX, of which the spec gives no count, 0 (DESIGN CHOICE:
log 96). -/
def execMbind (d a b : GReg) (s : State) : Out State :=
  withDesc s a (fun t desc =>
    let entry := getG s (gk s) b
    let st := bindStatus s t.ctx desc entry
    let held := if st = 0x05 then 0 else heldEverywhere s (descCtx desc) (descKey desc)
    let s1 :=
      if st = 0 then
        modCtx s (descCtx desc) (fun c => { c with binds := AMap.put c.binds (descKey desc) (bindingOf desc entry) })
      else s
    resG s1 d (BitVec.ofNat 64 (held * 2 ^ 32 + st)))

/-- The messages of a slot that lie in mailboxes are held from now on (R242). -/
def holdFrom (s : State) (ctx : CtxId) (key : Nat) : State :=
  (coresOf s ctx).foldl (fun s c =>
    modCore s c (fun x => { x with
      mbox := AMap.modify x.mbox ctx.toNat (fun l =>
        l.map (fun h => if h.work.forSlot key then { h with since := s.now } else h)) })) s

/-- Removes a binding and reports the messages that are then held for the slot (R242). -/
def execMunbind (d a : GReg) (s : State) : Out State :=
  withDesc s a (fun t desc =>
    let ctx := descCtx desc
    if foreign s t.ctx ctx then resG s d 0x05
    else
      let was := bound s ctx (descKey desc)
      let s1 :=
        if was then
          holdFrom (modCtx s ctx (fun c => { c with binds := AMap.erase c.binds (descKey desc) })) ctx (descKey desc)
        else s
      resG s1 d (BitVec.ofNat 64 (heldEverywhere s1 ctx (descKey desc) * 2 ^ 32 + (if was then 0 else 0x04))))

/-! ## The placement order (R328) -/

/-- A core's balance. -/
def Placement.balance (p : Placement) (c : Nat) : Int := AMap.getD p.bal c 0

/-- Changes a core's balance; a zero is not listed. -/
def Placement.add (p : Placement) (c : Nat) (n : Int) : Placement :=
  let b := p.balance c + n
  { p with bal := if b = 0 then AMap.erase p.bal c else AMap.put p.bal c b }

/-- The better of two candidates: the earlier unless the later has a strictly better weight. -/
def betterCore (w : Nat → Nat) (low : Bool) (best : Option Nat) (c : Nat) : Option Nat :=
  match best with
  | none => some c
  | some b => if (if low then w c < w b else w b < w c) then some c else some b

/-- A placement: a core of a rising list, and the pointer and balances after it (R328) (DEDUCED: log 72). -/
def choosePlace (determ : Bool) (w : Nat → Nat) (low : Bool) (cores : List Nat) (p : Placement) :
    Option (Nat × Placement) :=
  match cores.filter (fun c => p.ptr ≤ c) ++ cores.filter (fun c => c < p.ptr) with
  | [] => none
  | c0 :: rest =>
    let next : Placement := { p with ptr := c0 + 1 }
    if determ || p.balance c0 < 0 then some (c0, next)
    else
      let cand := ((c0 :: rest).take 8).filter (fun c => p.balance c ≤ 0)
      let c := (cand.foldl (betterCore w low) none).getD c0
      some (c, if c = c0 then next else (next.add c 1).add c0 (-1))

/-- A core's sensor weight. -/
def weightOf (s : State) (c : Nat) : Nat := (coreAt s c).weight.toNat

/-! ## LAUNCH (R243 to R245) -/

/-- A mailbox holds its limit of messages (R322). -/
def mailFull (s : State) (core : Nat) (ctx : CtxId) : Bool :=
  decide (AMap.getD (coreAt s core).mboxLim ctx.toNat 128 ≤ (mailbox s core ctx).length)

/-- Puts work at the end of a mailbox. -/
def mailPut (s : State) (core : Nat) (ctx : CtxId) (w : Work) : State :=
  modCore s core (fun c => { c with mbox := AMap.put c.mbox ctx.toNat (AMap.getD c.mbox ctx.toNat [] ++ [⟨w, s.now, none⟩]) })

/-- The cores of a set of clusters on which a context is placed. -/
def launchCores (s : State) (ctx : CtxId) (cset : Word) : List Nat :=
  (coresOf s ctx).filter (fun c => cset.getLsbD (c / 8))

/-- Places a launched task: by placements until one meets a mailbox with room (R244). -/
def placeItem (cset : Word) (i : LaunchItem) : Nat → State → State
  | 0, s => s
  | n + 1, s =>
    let place := ((ctxAt? s i.ctx).map (·.launchPlace)).getD Placement.init
    match choosePlace s.determActive (weightOf s) true (launchCores s i.ctx cset) place with
    | none => s
    | some (c, p) =>
      let s := modCtx s i.ctx (fun x => { x with launchPlace := p })
      if mailFull s c i.ctx then placeItem cset i n s else mailPut s c i.ctx (.launch i)

/-- Some mailbox of a launch's cores has room. -/
def launchRoom (s : State) (ctx : CtxId) (cset : Word) : Bool := (launchCores s ctx cset).any (fun c => !mailFull s c ctx)

/-- Places launched tasks in the order of their index while a mailbox has room; the rest (R244). -/
def placeItems (cset : Word) : List LaunchItem → State → State × List LaunchItem
  | [], s => (s, [])
  | i :: r, s => if launchRoom s i.ctx cset then placeItems cset r (placeItem cset i 2048 s) else (s, i :: r)

/-- A bit field of a launch descriptor. -/
def lf (d : BitVec 256) (off lo n : Nat) : Nat := (d.extractLsb' (off * 8 + lo) n).toNat

/-- A counter of a descriptor: its key, if it is enabled; a counter outside the share is an error (R244). -/
def launchCounter (s : State) (ctx : CtxId) (d : BitVec 256) (off : Nat) : Option (Option Nat) :=
  if lf d off 31 1 = 0 then some none
  else
    match counterShare? s (lf d off 24 5) ctx with
    | none => none
    | some (first, n) => if lf d off 0 12 < n then some (some (lf d off 24 5 * 4096 + first + lf d off 0 12)) else none

/-- A refused descriptor (R244). -/
def badLaunch (s : State) (ctx : CtxId) (d : BitVec 256) : Bool :=
  let cset : Word := d.extractLsb' 32 32
  let placed := ((ctxAt? s ctx).map (·.clusters)).getD []
  lf d 0 6 10 != 0 || lf d 0x18 29 2 == 3 || lf d 0x18 12 12 != 0 || lf d 0x1C 29 2 != 0 || lf d 0x1C 12 12 != 0 ||
  (lf d 0 16 16 != 0 && cset == 0) ||
  (List.range 32).any (fun c => cset.getLsbD c && !placed.contains (BitVec.ofNat 5 c)) ||
  (launchCounter s ctx d 0x18).isNone || (launchCounter s ctx d 0x1C).isNone

/-- The tasks of a launch with their identifiers, in the order of their index (R434). -/
def launchItems (core launch : Nat) (ctx : CtxId) (d : BitVec 256) : Nat → Nat → State → State × List LaunchItem
  | 0, _, s => (s, [])
  | n + 1, i, s =>
    let p := newId s core kLaunch
    let r := launchItems core launch ctx d n (i + 1) p.1
    (r.1, ⟨launch, ctx, BitVec.ofNat 6 (lf d 0 0 6), d.extractLsb' 64 64, d.extractLsb' 128 64, p.2, BitVec.ofNat 64 i⟩ :: r.2)

/-- Starts a launch that is not refused (R244, R245). -/
def startLaunch (s : State) (ctx : CtxId) (d : BitVec 256) (k : KReg) : State :=
  let core := s.issue.core
  let cl := clusterOfCore core
  let n := lf d 0 16 16
  let cset : Word := d.extractLsb' 32 32
  let id := s.uid
  let l : Launch :=
    { ctx := ctx, core := core, tok := tokRef s k, left := n, rel := BitVec.ofNat 2 (lf d 0x18 29 2),
      dec0 := (launchCounter s ctx d 0x18).join, dec1 := (launchCounter s ctx d 0x1C).join, doneAt := none }
  let s1 := tokenStart { s with uid := id + 1, launches := AMap.put s.launches id l } k
  if n = 0 then launchComplete s1 id
  else
    let r := launchItems core id ctx d n 0 s1
    let q := placeItems cset r.2 r.1
    if q.2.isEmpty then q.1
    else modCluster q.1 cl (fun c => { c with launchQ := c.launchQ ++ [(id, q.2, cset)] })

/-- Starts N tasks of a handler slot over a set of clusters (R244). -/
def execLaunch (a : GReg) (k : KReg) (s : State) : Out State :=
  withTask s (fun _ t =>
    let addr := getG s (gk s) a
    if addr.toNat % 32 ≠ 0 then .next (raiseFirst s cALIGN addr)
    else
      readBlock s t addr 32 (fun s1 bs =>
        let d : BitVec 256 := BitVec.ofNat 256 (natOfBytes bs)
        if badLaunch s1 t.ctx d then
          let x := getK s1 (gk s1) k
          .next (advance (setK s1 (gk s1) k { x with count := bumpCount x.count true }))
        else if lf d 0 16 16 = 0 then .next (advance (startLaunch s1 t.ctx d k))
        else whenHolds s1 (.launchRoom (clusterOfCore s.issue.core)) (.next (advance (startLaunch s1 t.ctx d k)))))

end Sys2Proof.Machine
end

