-- ==== Sys2Proof/Machine/Tree.lean ====
section
/-! DEFINITION. The mapping engine: the mapping tree, its leaves, and the tree step of each request, for strands, the host
and the Privet engine alike (R246 to R249, R279 to R291). -/

namespace Sys2Proof.Machine

/-! ## The tree -/

/-- A node with its index. -/
def nodeAt? (m : MapEngine) (i : Nat) : Option Node := AMap.get? m.nodes i

/-- A node and its ancestors, itself first. -/
def chain (m : MapEngine) : Nat → Nat → List Nat
  | 0, _ => []
  | fuel + 1, i =>
    match nodeAt? m i with
    | none => []
    | some n =>
      match n.parent with
      | none => [i]
      | some p => i :: chain m fuel p

/-- The node and its ancestors. -/
def lineage (m : MapEngine) (i : Nat) : List Nat := chain m (m.nodes.length + 1) i

/-- The nodes whose UNMAP withdraws a node: itself, its ancestors, and for a backing node its reserved node and the ancestors of
that (R286). -/
def above (m : MapEngine) (i : Nat) : List Nat :=
  lineage m i ++ ((lineage m i).flatMap (fun j => ((nodeAt? m j).bind (·.backs)).toList)).flatMap (lineage m)

/-- A node is cut: by an UNMAP of a node whose withdrawal takes it along (R284, R286). -/
def isCut (m : MapEngine) (i : Nat) : Bool := (above m i).any (fun j => ((nodeAt? m j).map (·.cut)).getD false)

/-- A node is being reclaimed. -/
def reclaiming (m : MapEngine) (i : Nat) : Bool := ((nodeAt? m i).map (·.reclaim)).getD false

/-- The live node that a handle names (R285). -/
def byHandle? (m : MapEngine) (h : DWord) : Option (Nat × Node) :=
  if h.extractLsb' 32 32 ≠ 0 then none
  else
    match nodeAt? m (h.toNat % 2 ^ 22) with
    | none => none
    | some n => if n.gen = h.extractLsb' 22 10 then some (h.toNat % 2 ^ 22, n) else none

/-- The handle of a node (R247). -/
def handleOf (i : Nat) (n : Node) : Nat := i + n.gen.toNat * 2 ^ 22

/-- A space holds a node or an ancestor of it (R249). -/
def owns (m : MapEngine) (space i : Nat) : Bool :=
  (lineage m i).any (fun j => ((nodeAt? m j).map (fun n => n.space == space)).getD false)

/-- Two extents have a byte in common. -/
def meets (a n b k : Nat) : Bool := a < b + k && b < a + n

/-- The children of a node that meet an extent of its holder's space. -/
def childrenAt (m : MapEngine) (i a n : Nat) : List (Nat × Node) :=
  ((nodeAt? m i).map (·.children)).getD [] |>.filterMap (fun c =>
    match nodeAt? m c with
    | some x => if meets x.pva x.bytes a n then some (c, x) else none
    | none => none)

/-- A node of a space that covers an extent, none of which has been granted away (R285), one that is not cut before one that
is. A backing node covers nothing of its own (R286). -/
def source? (m : MapEngine) (space a n : Nat) : Option (Nat × Node) :=
  let held := m.nodes.filter (fun e =>
    e.2.space == space && e.2.backs.isNone && e.2.va ≤ a && a + n ≤ e.2.va + e.2.bytes &&
    !((childrenAt m e.1 a n).any (fun c => c.2.granted)))
  (held.find? (fun e => !isCut m e.1)).or held.head?

/-- A node of a context's space that the context owns, covering an extent: pages reserved for it to back (R286). -/
def reserved? (m : MapEngine) (ctx : CtxId) (a n : Nat) : Option (Nat × Node) :=
  if ctx = 0 then none
  else m.nodes.find? (fun e =>
    e.2.space == ctx.toNat && e.2.owner == ctx && e.2.backs.isNone && e.2.va ≤ a && a + n ≤ e.2.va + e.2.bytes)

/-! ## Leaves -/

/-- The translation of one 512 KiB unit of a space, with the frame of that unit. -/
def unitLeaf? (m : MapEngine) (space va : Nat) : Option Leaf :=
  (leafAt? m space va).map (fun l => l.unit (va % pageBytes l.psize / 2 ^ 19))

/-- The units follow each other in one frame run, alike in all else. -/
def contiguous : List (Option Leaf) → Bool
  | some a :: some b :: r =>
    (!a.pres || b.frame == a.frame + 1) && a.pres == b.pres && a.wp == b.wp && a.backing == b.backing &&
      !a.revoked && !b.revoked && contiguous (some b :: r)
  | [some a] => !a.revoked
  | [] => true
  | _ => false

/-- A new leaf of a node for a unit of its source (R248, R286): the source's frame and presence, the node's rights (DEDUCED: log 42). -/
def deriveLeaf (node : Nat) (rights : BitVec 5) (l : Leaf) : Leaf :=
  { l with rights := rights.setWidth 4, node := node, revoked := false }

/-- The leaves of one page of a node, in its level-3 entries: a 256 MiB page whose frames do not follow each other is
written as 512 KiB pages. -/
def pageLeaves (node : Nat) (rights : BitVec 5) (big : Bool) (us : List (Option Leaf)) : List Leaf :=
  let ls := us.filterMap id
  if big && contiguous us then
    match ls.head? with
    | some l => ls.map (fun _ => { deriveLeaf node rights l with psize := 1 })
    | none => []
  else ls.map (deriveLeaf node rights)

/-- The level-3 leaves of an extent of 512 KiB or 256 MiB pages, in order. -/
def extentLeaves (m : MapEngine) (space src node pages : Nat) (psize : BitVec 2) (rights : BitVec 5) : List Leaf :=
  let per := pageBytes psize / 2 ^ 19
  (List.range pages).flatMap (fun p =>
    pageLeaves node rights (psize == 1)
      ((List.range per).map (fun u => unitLeaf? m space (src + (p * per + u) * 2 ^ 19))))

/-- The level-2 leaves of an extent of 128 GiB pages: 128 for each page. -/
def hugeLeaves (m : MapEngine) (space src node pages : Nat) (rights : BitVec 5) : List Leaf :=
  (List.range pages).flatMap (fun p =>
    match unitLeaf? m space (src + p * 2 ^ 37) with
    | some l => List.replicate 128 { deriveLeaf node rights l with psize := 2 }
    | none => [])

/-- Writes leaves at consecutive keys. -/
def putLeaves (t : AMap Leaf) (key : Nat) : List Leaf → AMap Leaf
  | [] => t
  | l :: r => putLeaves (AMap.put t key l) (key + 1) r

/-- The keys of the tables that an extent of a space needs, and that do not exist (R279) (DEDUCED: log 43). -/
def newTables (m : MapEngine) (space va n : Nat) (huge : Bool) : List Nat :=
  let l2 := (List.range ((va + n - 1) / 2 ^ 41 - va / 2 ^ 41 + 1)).map (fun i => space * 2 ^ 23 + va / 2 ^ 41 + i)
  let l3 := if huge then [] else
    (List.range ((va + n - 1) / 2 ^ 30 - va / 2 ^ 30 + 1)).map (fun i => space * 2 ^ 23 + 2 ^ 22 + va / 2 ^ 30 + i)
  (l2 ++ l3).filter (fun k => (AMap.get? m.tables k).isNone)

/-- 16 KiB tables of the mapping region (R277). -/
def tableLimit : Nat := 245760

/-- A part of the extent is mapped in a space. -/
def mapped (m : MapEngine) (space va n : Nat) : Bool :=
  !(AMap.between m.leaf3 (space * 2 ^ 33 + va / 2 ^ 19) (space * 2 ^ 33 + (va + n) / 2 ^ 19)).isEmpty ||
  !(AMap.between m.leaf2 (space * 2 ^ 22 + va / 2 ^ 30) (space * 2 ^ 22 + (va + n - 1) / 2 ^ 30 + 1)).isEmpty ||
  m.nodes.any (fun e => e.2.parent.isNone && e.2.space == space && meets e.2.va e.2.bytes va n)

/-! ## Requests -/

/-- A map request from its 32 bytes (R246) (DEDUCED: log 41). -/
def mapReq (bs : List Byte) : MapReq :=
  let w : BitVec 256 := BitVec.ofNat 256 (natOfBytes bs)
  { src := (w.extractLsb' 0 64).toNat, dst := (w.extractLsb' 64 64).toNat, pages := (w.extractLsb' 128 32).toNat,
    psize := w.extractLsb' 168 2, rights := w.extractLsb' 160 5,
    bad := w.extractLsb' 165 3 != 0 || w.extractLsb' 168 2 == 3 || w.extractLsb' 170 22 != 0 || w.extractLsb' 192 64 != 0 }

def MapReq.bytes (r : MapReq) : Nat := r.pages * pageBytes r.psize

/-- Alignment, page count and range of a request (R247); a stage-2 space has 44 bits (R282). -/
def badForm (r : MapReq) (space : Nat) : Bool :=
  r.src % pageBytes r.psize != 0 || r.dst % pageBytes r.psize != 0 || r.pages == 0 ||
  decide (2 ^ (if 4096 ≤ space then 44 else 52) < r.dst + r.bytes)

/-- Where a derivation puts its pages. -/
inductive Place where
  /-- New leaves of the target. -/
  | fresh
  /-- The unbacked pages of a reserved node (R286). -/
  | backing (node : Nat)
  deriving DecidableEq, Repr

/-- Pages of 128 GiB derive only from pages of 128 GiB or a root (R279); other sources have a unit leaf for each unit. -/
def sourceFit (m : MapEngine) (space : Nat) (r : MapReq) : Bool :=
  if r.psize = 2 then
    (List.range r.pages).all (fun p =>
      match leafAt? m space (r.src + p * 2 ^ 37) with
      | some l => l.revoked || l.psize == 2 || (rootLeaf? m space (r.src + p * 2 ^ 37)).isSome
      | none => false)
  else (List.range (r.bytes / 2 ^ 19)).all (fun u => (unitLeaf? m space (r.src + u * 2 ^ 19)).isSome)

/-- A page of the source is REVOKED though no node above it is cut: its backing is withdrawn (R286). -/
def sourceRevoked (m : MapEngine) (space : Nat) (r : MapReq) : Bool :=
  (List.range (r.bytes / 2 ^ (if r.psize = 2 then 37 else 19))).any (fun u =>
    ((unitLeaf? m space (r.src + u * 2 ^ (if r.psize = 2 then 37 else 19))).map (·.revoked)).getD false)

/-- The leaf that an entry of a space holds, or stands for while it is REVOKED. -/
def standingAt? (m : MapEngine) (space va : Nat) : Option Leaf :=
  let k2 := space * 2 ^ 22 + va / 2 ^ 30
  let k3 := space * 2 ^ 33 + va / 2 ^ 19
  match AMap.get? m.leaf2 k2 with
  | some l => some (standing m.kept2 k2 l)
  | none => (AMap.get? m.leaf3 k3).map (standing m.kept3 k3)

/-- The destination pages of a backing grant are all unbacked, those that have been granted away among them, of a page size that the
grant can fill (R286). -/
def backable (m : MapEngine) (space : Nat) (n : Node) (r : MapReq) : Bool :=
  ((r.psize == 2) == (n.psize == 2)) &&
  (List.range (r.bytes / 2 ^ (if r.psize = 2 then 37 else 19))).all (fun u =>
    match standingAt? m space (r.dst + u * 2 ^ (if r.psize = 2 then 37 else 19)) with
    | some l => !l.revoked && !l.pres
    | none => false)

/-- A page of some size that an extent takes a part of only. -/
def partOf (base size a n : Nat) : Bool := meets base size a n && !(decide (a ≤ base) && decide (base + size ≤ a + n))

/-- The 1 GiB parts of the 128 GiB pages of a space that an extent takes a part of. -/
def hugeParts (m : MapEngine) (space a n : Nat) : List (Nat × Leaf) :=
  m.leaf2.filter (fun e =>
    e.1 / 2 ^ 22 == space && !e.2.revoked && partOf (e.1 % 2 ^ 22 / 128 * 2 ^ 37) (2 ^ 37) a n)

/-- The tables that a GRANT of an extent makes in its giver's space, where it takes a part of pages of 128 GiB (R285). -/
def giverTables (m : MapEngine) (giver a n : Nat) : List Nat :=
  match nodeAt? m giver with
  | none => []
  | some g =>
    if g.parent.isNone then []
    else ((hugeParts m g.space a n).map (fun e => g.space * 2 ^ 23 + 2 ^ 22 + e.1 % 2 ^ 22)).filter
      (fun k => (AMap.get? m.tables k).isNone)

/-- The tables that the invalidations of earlier GRANTs have still to make. -/
def owedTables (m : MapEngine) : List Nat :=
  (m.invals.filter (fun v => v.kind == .grant && !v.sent)).flatMap (fun v =>
    match nodeAt? m v.node with
    | none => []
    | some n => (n.parent.map (fun p => giverTables m p n.pva n.bytes)).getD [])

/-- No node place, or no table of the mapping region, is free for a derivation from a node that needs some new tables in its target
(R284, R285). -/
def noPlaces (m : MapEngine) (grant : Bool) (src : Nat) (r : MapReq) (fresh : List Nat) : Bool :=
  decide (2 ^ 22 - 1 ≤ m.nodes.length) ||
    decide (tableLimit < m.tables.length + fresh.length + (owedTables m).length +
      (if grant then giverTables m src r.src r.bytes else []).length)

/-- The outcome of the checks of MAP and GRANT in the order of R247: a status, or the source node and the place. -/
def deriveCheck (m : MapEngine) (grant : Bool) (issuer : Nat) (target : Nat) (noCtx badCtx : Bool) (r : MapReq) :
    Sum Nat (Nat × Place) :=
  if r.bad || badCtx then .inl 0x09
  else if noCtx then .inl 0x05
  else if badForm r target then .inl 0x03
  else
    match source? m issuer r.src r.bytes with
    | none => .inl 0x03
    | some (i, n) =>
      let back := if grant && target == issuer then reserved? m (BitVec.ofNat 12 issuer) r.dst r.bytes else none
      if !isCut m i && (!sourceFit m issuer r || ((back.map (fun e => !isCut m e.1 && !backable m target e.2 r)).getD false))
      then .inl 0x03
      else if isCut m i || sourceRevoked m issuer r || ((back.map (fun e => isCut m e.1)).getD false) then .inl 0x01
      else if !n.rights.getLsbD 4 || (r.rights &&& ~~~n.rights) != 0 then .inl 0x02
      else if grant && !(childrenAt m i r.src r.bytes).isEmpty then .inl 0x0A
      else
        match back with
        | some (b, _) => if noPlaces m true i r [] then .inl 0x06 else .inr (i, .backing b)
        | none =>
          if mapped m target r.dst r.bytes then .inl 0x04
          else if noPlaces m grant i r (newTables m target r.dst r.bytes (r.psize == 2)) then .inl 0x06
          else .inr (i, .fresh)

/-- The lowest index from a number that no node has. -/
def freeFrom (m : MapEngine) (i : Nat) : Nat → Nat
  | 0 => i
  | fuel + 1 => if (nodeAt? m i).isNone && i != 0x3FFFFF then i else freeFrom m ((i + 1) % 2 ^ 22) fuel

/-- Takes a node place: the part chooses the index (DESIGN CHOICE: log 17). -/
def takeIndex (s : State) : State × Nat :=
  ({ s with draws := s.draws + 1 }, freeFrom s.map (Config.nodeIndex s.draws % 2 ^ 22) (s.map.nodes.length + 2))

/-- Puts a node into the tree, as the last child of its parent. -/
def addNode (m : MapEngine) (i : Nat) (n : Node) : MapEngine :=
  let n := { n with gen := Sparse.read m.gens i }
  { m with
    nodes := AMap.put (match n.parent with
      | none => m.nodes
      | some p => AMap.modify m.nodes p (fun x => { x with children := x.children ++ [i] })) i n }

/-- Level-3 tables of an extent go: their level-2 entries become leaves (R279). -/
def dropTables (m : MapEngine) (space va n : Nat) : MapEngine :=
  { m with tables := AMap.clear m.tables (space * 2 ^ 23 + 2 ^ 22 + va / 2 ^ 30) (space * 2 ^ 23 + 2 ^ 22 + (va + n) / 2 ^ 30) }

/-- Writes leaves of an extent and the tables that they need; the frames of the space are device-physical, or not. -/
def writeExtent (phys : Bool) (m : MapEngine) (space va n : Nat) (huge : Bool) (ls : List Leaf) : MapEngine :=
  let m := (newTables m space va n huge).foldl (makeTable phys) m
  if huge then
    { dropTables m space va n with leaf2 := putLeaves m.leaf2 (space * 2 ^ 22 + va / 2 ^ 30) ls }
  else { m with leaf3 := putLeaves m.leaf3 (space * 2 ^ 33 + va / 2 ^ 19) ls }

/-- Changes the leaf of a place in level 3, or what its REVOKED entry stands for. -/
def modLeaf3 (m : MapEngine) (space va : Nat) (f : Leaf → Leaf) : MapEngine :=
  match AMap.get? m.leaf3 (space * 2 ^ 33 + va / 2 ^ 19) with
  | none => m
  | some l =>
    if l.revoked then { m with kept3 := AMap.modify m.kept3 (space * 2 ^ 33 + va / 2 ^ 19) f }
    else { m with leaf3 := AMap.put m.leaf3 (space * 2 ^ 33 + va / 2 ^ 19) (f l) }

/-- Where runs of bytes reach from an address on without a gap. -/
def reach (rs : List (Nat × Nat)) : Nat → Nat → Nat
  | 0, a => a
  | fuel + 1, a =>
    match rs.find? (fun r => decide (r.1 ≤ a) && decide (a < r.1 + r.2)) with
    | none => a
    | some r => reach rs fuel (r.1 + r.2)

/-- Some byte of an extent has never been backed (R284). -/
def neverBacked (rs : List (Nat × Nat)) (a n : Nat) : Bool := decide (reach rs (rs.length + 1) a < a + n)

/-- The part of an extent that a node or one of its descendants holds: the node, the first byte in its holder's space, the length,
and how far it stands from the start of the extent. -/
structure Span where
  node : Nat
  va : Nat
  bytes : Nat
  off : Nat
  deriving DecidableEq, Repr

/-- The parts of an extent of a node that it and its descendants hold. -/
def spans (m : MapEngine) : Nat → Nat → Nat → Nat → Nat → List Span
  | 0, _, _, _, _ => []
  | fuel + 1, i, a, n, off =>
    ⟨i, a, n, off⟩ :: (childrenAt m i a n).flatMap (fun c =>
      if c.2.backs.isSome then []
      else
        let lo := max a c.2.pva
        let hi := min (a + n) (c.2.pva + c.2.bytes)
        spans m fuel c.1 (c.2.va + (lo - c.2.pva)) (hi - lo) (off + (lo - a)))

/-- Bytes of a node have been backed: UNBACKED stays set while some page never has (R284). -/
def noteBacked (m : MapEngine) (x : Span) : MapEngine :=
  { m with nodes := AMap.modify m.nodes x.node (fun n =>
      let b := n.backed ++ [(x.va - n.va, x.bytes)]
      { n with backed := b, unbacked := n.unbacked && neverBacked b 0 n.bytes }) }

/-- Where in the extent an address of a node stands. -/
def offsetIn? (sp : List Span) (node a : Nat) : Option Nat :=
  (sp.find? (fun x => x.node == node && decide (x.va ≤ a) && decide (a < x.va + x.bytes))).map (fun x => x.off + (a - x.va))

/-- A frame of the source enters an unbacked leaf of level 3 (R286). A page of 256 MiB whose frames do not follow each other becomes
pages of 512 KiB. -/
def backUnit (m : MapEngine) (issuer new : Nat) (r : MapReq) (sp : List Span) (a : Nat) (l : Leaf) : Leaf :=
  if l.revoked || l.pres then l
  else
    match (offsetIn? sp l.node a).bind (fun o => (unitLeaf? m issuer (r.src + o)).map (fun u => (o, u))) with
    | none => l
    | some (o, u) =>
      let first := r.src + o - a % 2 ^ 28
      let big := l.psize == 1 && r.psize != 0 &&
        (r.psize == 2 || contiguous ((List.range 512).map (fun j => unitLeaf? m issuer (first + j * 2 ^ 19))))
      { l with
        pres := u.pres, backing := some new, psize := if big then 1 else 0
        frame := if big then u.frame - BitVec.ofNat 25 (a % 2 ^ 28 / 2 ^ 19) else u.frame }

/-- A frame of the source enters an unbacked leaf of a page of 128 GiB. -/
def backHuge (m : MapEngine) (issuer new : Nat) (r : MapReq) (sp : List Span) (a : Nat) (l : Leaf) : Leaf :=
  if l.revoked || l.pres then l
  else
    match (offsetIn? sp l.node a).bind (fun o => unitLeaf? m issuer (r.src + o - a % 2 ^ 37)) with
    | none => l
    | some u => { l with pres := u.pres, backing := some new, frame := u.frame }

/-- Backs unbacked pages of a reserved node: the frames enter every leaf of those pages, in the node and its descendants, those that
REVOKED entries stand for among them (R286). -/
def backPages (m0 : MapEngine) (issuer reserved new : Nat) (r : MapReq) : MapEngine :=
  let sp := spans m0 (m0.nodes.length + 1) reserved r.dst r.bytes 0
  let m := sp.foldl noteBacked m0
  let unit := fun (e : Nat × Leaf) => (e.1, backUnit m issuer new r sp (e.1 % 2 ^ 33 * 2 ^ 19) e.2)
  let huge := fun (e : Nat × Leaf) => (e.1, backHuge m issuer new r sp (e.1 % 2 ^ 22 * 2 ^ 30) e.2)
  { m with leaf3 := m.leaf3.map unit, kept3 := m.kept3.map unit, leaf2 := m.leaf2.map huge, kept2 := m.kept2.map huge }

/-- The tree step of a MAP or GRANT that passes its checks: the state, the new node's index and the reply (R247, R248). -/
def derive (s : State) (grant : Bool) (issuer target src : Nat) (place : Place) (r : MapReq) : State × Nat × DWord :=
  let t := takeIndex s
  let m := t.1.map
  let i := t.2
  let owner := ((nodeAt? m src).map (·.owner)).getD 0
  let backed := ((nodeAt? m src).map (fun n => n.backed.map (fun b => (b.1 + n.va, b.2)))).getD []
  let node : Node :=
    { cut := false, reclaim := false, granted := grant, unbacked := false, moving := false, rights := r.rights,
      psize := r.psize, gen := 0, parent := some src, children := [], owner := owner, space := target, pages := r.pages,
      va := r.dst, pva := r.src, remote := 0, backs := none
      backed := (backed.filter (fun b => meets b.1 b.2 r.src r.bytes)).map (fun b =>
        (max b.1 r.src - r.src, min (b.1 + b.2) (r.src + r.bytes) - max b.1 r.src)) }
  let m' : MapEngine :=
    match place with
    | .backing b => addNode (backPages m issuer b i r) i { node with owner := BitVec.ofNat 12 issuer, backs := some b }
    | .fresh =>
      let ls := if r.psize = 2 then hugeLeaves m issuer r.src i r.pages r.rights
                else extentLeaves m issuer r.src i r.pages r.psize r.rights
      addNode (writeExtent (physicalSpace s target) m target r.dst r.bytes (r.psize == 2) ls) i
        { node with unbacked := (((nodeAt? m src).map (·.unbacked)).getD false) && neverBacked node.backed 0 node.bytes }
  let n := (nodeAt? m' i).getD node
  ({ t.1 with map := m' }, i, BitVec.ofNat 64 (handleOf i n * 2 ^ 32))

/-- Queues an invalidation (R283). -/
def queueInval (s : State) (v : Inval) : State := { s with map := { s.map with invals := s.map.invals ++ [v] } }

/-- An invalidation not yet sent. -/
def Inval.queued (kind : InvalKind) (node : Nat) (reply : ReplyTo) (status : DWord) : Inval :=
  ⟨kind, node, false, [], [], [], reply, status, []⟩

/-- The outcome of a request: a reply at once, or one that comes later. -/
inductive MapDone where
  | reply (v : DWord)
  | later
  deriving DecidableEq, Repr

/-- Runs of frames of withdrawn pages whose reclaim has not ended, in the spaces that name frames as a space does (R293). -/
def reclaimedFrames (s : State) (space : Nat) : List (Nat × Nat) :=
  let going := fun (l : Leaf) => l.pres && (reclaiming s.map l.node || (l.backing.map (reclaiming s.map)).getD false)
  (s.map.kept3.filter (fun e => going e.2 && frameSpace s (e.1 / 2 ^ 33) == frameSpace s space)).map
      (fun e => ((e.2.unit (if e.2.psize = 1 then e.1 % 512 else 0)).frame.toNat, 1)) ++
    (s.map.kept2.filter (fun e => going e.2 && frameSpace s (e.1 / 2 ^ 22) == frameSpace s space)).map
      (fun e => (e.2.frame.toNat + e.1 % 128 * 2048, 2048))

/-- A frame of a request's source is one of those (R293). -/
def sourceBusy (s : State) (issuer : Nat) (r : MapReq) : Bool :=
  let fs := reclaimedFrames s issuer
  let z := if r.psize = 2 then 37 else 19
  !fs.isEmpty && (List.range (r.bytes / 2 ^ z)).any (fun u =>
    match unitLeaf? s.map issuer (r.src + u * 2 ^ z) with
    | some l => l.pres && fs.any (fun f => meets f.1 f.2 l.frame.toNat (2 ^ (z - 19)))
    | none => false)

/-- MAP and GRANT (R247, R248). A GRANT's reply follows the invalidation of the giver's translations. A request that would map a
frame again before its reclaim has ended waits for that; one of the Privet engine is made again (R293; DEDUCED: log 51). -/
def mapOrGrant (s : State) (grant : Bool) (issuer target : Nat) (noCtx badCtx : Bool) (r : MapReq) (who : ReplyTo) :
    State × MapDone :=
  match deriveCheck s.map grant issuer target noCtx badCtx r with
  | .inl st => (s, .reply (BitVec.ofNat 64 st))
  | .inr (src, place) =>
    if sourceBusy s issuer r then
      if who = .nobody then (s, .later)
      else ({ s with map := { s.map with heldMaps := s.map.heldMaps ++ [⟨grant, issuer, target, noCtx, badCtx, r, who⟩] } }, .later)
    else
      let d := derive s grant issuer target src place r
      if grant then (queueInval d.1 (Inval.queued .grant d.2.1 who d.2.2), .later) else (d.1, .reply d.2.2)

/-- A node and its descendants, depth first. -/
def subtreeFrom (m : MapEngine) : Nat → Nat → List Nat
  | 0, _ => []
  | fuel + 1, i => i :: (((nodeAt? m i).map (·.children)).getD []).flatMap (subtreeFrom m fuel)

/-- The nodes that an UNMAP of a node withdraws: its subtree, and the backing nodes whose frames stand there (R286). -/
def withdrawn (m : MapEngine) (i : Nat) : List Nat :=
  let t := subtreeFrom m (m.nodes.length + 1) i
  t ++ ((m.nodes.filter (fun e => ((e.2.backs.map t.contains).getD false) && !t.contains e.1)).map (·.1))

/-- A leaf stands for one of some nodes, or holds the frame of one that backs it. -/
def Leaf.of (w : List Nat) (l : Leaf) : Bool := w.contains l.node || (l.backing.map w.contains).getD false

/-- Changes the leaves of a page in some places. -/
def modPlaces (m : MapEngine) (ps : List (Nat × Nat)) (f : Leaf → Leaf) : MapEngine :=
  ps.foldl (fun m p => modLeaf3 m p.1 p.2 f) m

/-- A migration whose page the withdrawal of some nodes takes along: its node goes, or the node that backs the page (R298). -/
def ends (m : MapEngine) (w : List Nat) (g : Migration) : Bool :=
  g.ended.isNone && (w.contains g.node ||
    ((standingAt? m g.space g.va).bind (fun l => l.backing.map w.contains)).getD false)

/-- A migration ends at the cut of an UNMAP: MOVING is clear, and before its switch the page may be written again where it stays. Its
frames stay taken until the reclaim has ended (R298; DEDUCED: log 52). -/
def endMigration (root : Nat) (s : State) (g : Migration) : State :=
  let m := if g.stage == .protecting || g.stage == .copying
    then modPlaces s.map (pagePlaces s g) (fun l => { l with wp := false }) else s.map
  { s with map := { m with
      nodes := if g.stage == .queued then m.nodes else AMap.modify m.nodes g.node (fun n => { n with moving := false })
      migrations := m.migrations.map (fun h => if h = g then { g with ended := some root } else h) } }

/-- The migrations of the pages that the UNMAP of a node withdraws end (R298). -/
def endMigrations (s : State) (root : Nat) : State :=
  (s.map.migrations.filter (ends s.map (withdrawn s.map root))).foldl (endMigration root) s

/-- The cut of a node (R291). -/
def cutNode (s : State) (i : Nat) : State :=
  endMigrations { s with map := { s.map with nodes := AMap.modify s.map.nodes i (fun n => { n with cut := true }) } } i

/-- The UNMAP whose reply an UNMAP of a cut node is held for (R291). -/
def unmapPending? (m : MapEngine) (i : Nat) : Option Nat :=
  (m.invals.find? (fun v => v.kind = .unmap && (above m i).contains v.node)).map (·.node)

/-- The tree step of UNMAP: the cut (R249, R291). -/
def unmapNode (s : State) (issuer : Nat) (h : DWord) (who : ReplyTo) : State × MapDone :=
  match byHandle? s.map h with
  | none => (s, .reply 0x07)
  | some (i, _) =>
    if isCut s.map i then
      match unmapPending? s.map i with
      | some v => ({ s with map := { s.map with heldUnmaps := s.map.heldUnmaps ++ [(v, who)] } }, .later)
      | none => (s, .reply 0x07)
    else if !owns s.map issuer i then (s, .reply 0x08)
    else
      (queueInval (cutNode s i) (Inval.queued .unmap i who 0), .later)

/-- MQUERY (R247, R249, R291). -/
def queryNode (s : State) (issuer : Nat) (h : DWord) : DWord :=
  match byHandle? s.map h with
  | none => 0x07
  | some (i, n) =>
    if !owns s.map issuer i then 0x08
    else
      BitVec.ofNat 64 (n.rights.toNat * 2 ^ 8 + (if isCut s.map i then 2 ^ 13 else 0) + (if n.granted then 2 ^ 14 else 0) +
        n.space % 4096 * 2 ^ 20 + n.pages % 2 ^ 32 * 2 ^ 32)

/-- The line of the node area that holds a node place (R284). -/
def nodeLine (i : Nat) : Nat := (0x5F00000000 + i * 64) / 128

/-- The mapping engine reads a node: a transient error is counted and gone. A node that it cannot read stops it for good and is
reported as a part error (R318). -/
def readNode (s : State) (i : Nat) : State :=
  match AMap.get? s.badLines (nodeLine i) with
  | none => s
  | some false => countTransient s (nodeLine i)
  | some true =>
    if s.map.stopped then s
    else errorRecord { s with map := { s.map with stopped := true }, mgmt := { s.mgmt with partErr := true } } (.part (nodeLine i))

/-- The mapping engine reads nodes, until it stops. -/
def readNodes (s : State) (is : List Nat) : State :=
  if s.badLines.isEmpty then s else is.foldl (fun s i => if s.map.stopped then s else readNode s i) s

/-- The nodes that the engine reads for a MAP or GRANT: those that the issuer holds over the extent with all that are above them
and their children there, and for a backing GRANT the reserved node with its own (R247, R285, R286). -/
def deriveReads (m : MapEngine) (issuer : Nat) (r : MapReq) : List Nat :=
  let cover := m.nodes.filter (fun e => e.2.space == issuer && e.2.va ≤ r.src && r.src + r.bytes ≤ e.2.va + e.2.bytes)
  cover.flatMap (fun e => above m e.1 ++ (childrenAt m e.1 r.src r.bytes).map (·.1)) ++
    (((reserved? m (BitVec.ofNat 12 issuer) r.dst r.bytes).map (fun e => above m e.1)).getD [])

/-- The nodes that the engine reads for a handle (R249). -/
def handleReads (m : MapEngine) (h : DWord) : List Nat := h.toNat % 2 ^ 22 :: above m (h.toNat % 2 ^ 22)

end Sys2Proof.Machine
end

