-- ==== Sys2Proof/Machine/Mapping.lean ====
section
/-! DEFINITION. MAP, GRANT, UNMAP and MQUERY (R246 to R249). -/

namespace Sys2Proof.Machine

/-- Asks the mapping engine, which reads some nodes for it, and waits for its reply, which enters g[D] (R246, R247). -/
def askEngine (s : State) (d : GReg) (reads : List Nat) (go : State → ReplyTo → State × MapDone) : Out State :=
  let s1 := readNodes s reads
  let n := s1.map.nextRequest
  let wait := fun (x : State) =>
    modStrands { x with map := { x.map with nextRequest := n + 1 } } (active s) (fun t => { t with wait := .reply n })
  if s1.map.stopped then .next (wait s1)
  else
    let r := go s1 (.group (gk s) n d)
    match r.2 with
    | .reply v => resG r.1 d v
    | .later => .next (wait r.1)

/-- MAP and GRANT: the request's 32 bytes, then the engine (R246). -/
def deriveInstr (grant : Bool) (d a b : GReg) (s : State) : Out State :=
  withTask s (fun _ t =>
    let addr := getG s (gk s) a
    let ctx := getG s (gk s) b
    if addr.toNat % 32 ≠ 0 then .next (raiseFirst s cALIGN addr)
    else
      readBlock s t addr 32 (fun s1 bs =>
        askEngine s1 d (deriveReads s1.map t.ctx.toNat (mapReq bs)) (fun x who =>
          mapOrGrant x grant t.ctx.toNat (ctx.toNat % 4096) (foreign x t.ctx (ctx.setWidth 12))
            (ctx.extractLsb' 12 52 != 0) (mapReq bs) who)))

/-- Derives a node and leaves the issuer's access (R248). -/
def execMap (d a b : GReg) (s : State) : Out State := deriveInstr false d a b s

/-- Derives a node and takes the extent from the issuer (R248). -/
def execGrant (d a b : GReg) (s : State) : Out State := deriveInstr true d a b s

/-- Withdraws a node and its descendants (R249). -/
def execUnmap (d a : GReg) (s : State) : Out State :=
  withTask s (fun _ t => askEngine s d (handleReads s.map (getG s (gk s) a)) (fun x who =>
    unmapNode x t.ctx.toNat (getG s (gk s) a) who))

/-- Reads a node (R249). -/
def execMquery (d a : GReg) (s : State) : Out State :=
  withTask s (fun _ t => askEngine s d (handleReads s.map (getG s (gk s) a)) (fun x _ =>
    (x, .reply (queryNode x t.ctx.toNat (getG s (gk s) a)))))

end Sys2Proof.Machine
end

