-- ==== Sys2Proof/Machine/Csr.lean ====
section
/-! DEFINITION. The control and status registers and the instructions that read and write them (R22 to R28, R253,
R342). -/

namespace Sys2Proof.Machine

/-! ## The registers -/

/-- Addresses of the PL registers (R342). -/
def plListed (c : Nat) : Bool :=
  c ≤ 0x609 || (0x610 ≤ c && c ≤ 0x61D) || (0x620 ≤ c && c ≤ 0x64F)

/-- The address is that of a register (R24, R342); the PL registers need their feature (R407). -/
def csrListed (s : State) (c : Nat) : Bool :=
  c ≤ 0x008 || c == 0x010 || c == 0x020 || c == 0x021 || c == 0x030 || (0x400 ≤ c && c ≤ 0x407) ||
  (0x410 ≤ c && c ≤ 0x412) || c == 0x420 || c == 0x421 || c == 0x430 ||
  (0x600 ≤ c && plListed c && featureOn s 1) || c == 0x800

/-- A field of the trap record that started a task; zero in any other task (R25). -/
def trapField (t : Task) (f : TrapRec → Nat) : Nat := (t.trap.map f).getD 0

/-- The 64-bit or 48-bit value whose LO half has the address, if one has (R23, R24, R342). -/
def csrWide? (s : State) (t : Task) (c : Nat) : Option Nat :=
  if c = 0x020 then some (((ctxAt? s t.ctx).map (fun x => (vtime x).toNat)).getD 0)
  else if c = 0x401 then some (trapField t (fun r => r.pc.toNat))
  else if c = 0x403 then some (trapField t (fun r => r.value.toNat))
  else if c = 0x608 then some (if s.pl.owner = some t.ctx then s.pl.clock.toNat else 0)
  else if 0x610 ≤ c ∧ c ≤ 0x61D ∧ c % 2 = 0 then
    some (if s.pl.owner = some t.ctx then (s.pl.bubbles.getD ((c - 0x610) / 2) 0).toNat else 0)
  else none

/-- A PL register of 32 bits, as its owner reads it (R342). -/
def plValue (s : State) (c : Nat) : Nat :=
  let p := s.pl
  if c = 0x601 then p.len.toNat
  else if c = 0x602 then p.head.toNat
  else if c = 0x603 then p.up.toNat
  else if c = 0x604 then p.down.toNat
  else if c = 0x605 then p.status.toNat
  else if c = 0x606 then p.errIx.toNat
  else if c = 0x607 then (match p.owner with | none => 0 | some o => 2 ^ 31 + o.toNat)
  else if 0x620 ≤ c ∧ c ≤ 0x62F then p.stash.getD (c - 0x620) 0
  else if 0x630 ≤ c ∧ c ≤ 0x63F then p.credG.getD (c - 0x630) 0 * 256 + p.credA.getD (c - 0x630) 0
  else if 0x640 ≤ c ∧ c ≤ 0x64F then (p.arrG.getD (c - 0x640) []).length * 256 + (p.arrA.getD (c - 0x640) []).length
  else 0

/-- A register of 32 bits (R24). -/
def csrValue (s : State) (t : Task) (k : Nat) (c : Nat) : Nat :=
  let core := coreOfStrand k
  let x := ctxAt? s t.ctx
  match c with
  | 0x000 => (strandIx s k).toNat
  | 0x001 => (strandIx s k).toNat / 32
  | 0x002 => t.taskId.toNat
  | 0x003 => core
  | 0x004 => clusterOfCore core
  | 0x005 => t.ctx.toNat
  | 0x006 => t.msgId.toNat
  | 0x007 => (privOf s k).toNat
  | 0x008 => k / 32 % 16
  | 0x010 => (strandAt s k).ff.toNat
  | 0x030 => t.spinCount.toNat
  | 0x400 => trapField t (fun r => r.cause.toNat + (if r.deferred then 2 ^ 31 else 0))
  | 0x405 => trapField t (fun r => r.strand.toNat)
  | 0x406 => trapField t (fun r => r.msg.toNat)
  | 0x407 => trapField t (fun r => r.task.toNat)
  | 0x410 => (x.map (fun x => x.parkLim.toNat)).getD 0
  | 0x411 => (x.map (fun x => x.budget.toNat)).getD 0
  | 0x412 => (x.map (fun x => x.budgetCfg.toNat)).getD 0
  | 0x420 => AMap.getD (coreAt s core).mboxLim t.ctx.toNat 128
  | 0x421 => (coreAt s core).sqLim
  | 0x430 => if residentPart s t.ctx then 1 else 0
  | 0x800 => (if s.determEn then 1 else 0) + (if s.determActive then 2 else 0)
  | _ => if s.pl.owner = some t.ctx then plValue s c else 0

/-- A read: a LO half also captures its HI half for the strand, and a HI half gives what was captured (R23). -/
def csrRead (s : State) (t : Task) (k : Nat) (c : Nat) : State × Word :=
  match csrWide? s t c with
  | some v =>
    ({ s with rf := { s.rf with hold := Sparse.write s.rf.hold (k * 4096 + c) (BitVec.ofNat 32 (v / 2 ^ 32)) } },
      BitVec.ofNat 32 v)
  | none =>
    match csrWide? s t (c - 1) with
    | some _ => (s, Sparse.read s.rf.hold (k * 4096 + (c - 1)))
    | none => (s, BitVec.ofNat 32 (csrValue s t k c))

/-! ## Writes -/

/-- No entry of the table is issued. -/
def noneIssued (p : Pleach) : Bool := p.entries.all (fun e => e.2.issued.isNone)

/-- Clears the counters, the clock, timestamps, arrivals, credits and the status, and fills every stash; only while the
walk is halted and no entry is issued (R342). -/
def plClear (p : Pleach) : Pleach :=
  if p.running || !noneIssued p then p
  else
    { p with
      entries := p.entries.map (fun e => (e.1, { e.2 with stamp := 0 }))
      status := 0, clock := 0, bubbles := List.replicate 7 0, stash := List.replicate 16 64,
      credA := List.replicate 16 0, credG := List.replicate 16 0, arrA := List.replicate 16 [],
      arrG := List.replicate 16 [] }

/-- A write of a PL register by its owner (R342). -/
def plWrite (p : Pleach) (c : Nat) (v : Word) : Pleach :=
  match c with
  | 0x600 => if v.getLsbD 0 then plClear p else p
  | 0x601 =>
    let n : BitVec 10 := v.setWidth 10
    if p.running || n == 0 || decide (512 < n.toNat) then p else { p with len := n }
  | 0x602 =>
    let n : BitVec 9 := v.setWidth 9
    if p.running || decide (p.len.toNat ≤ n.toNat) then p else { p with head := n, unboundFor := 0 }
  | 0x603 => if p.running then p else { p with up := v &&& 0x800003FF }
  | 0x604 => if p.running then p else { p with down := v &&& 0x800003FF }
  | 0x605 => { p with status := p.status &&& ~~~(v.setWidth 4) }
  | _ => p

/-- A write: a register or field that is read only keeps its value (R5, R26, R27). -/
def csrWrite (s : State) (t : Task) (k : Nat) (c : Nat) (v : Word) : State :=
  let core := coreOfStrand k
  match c with
  | 0x010 => modStrand s k (fun x => { x with ff := v.setWidth 5 })
  | 0x410 => modCtx s t.ctx (fun x => { x with parkLim := v })
  | 0x411 => modCtx s t.ctx (fun x => { x with budget := v })
  | 0x412 => modCtx s t.ctx (fun x => { x with budgetCfg := v &&& 1 })
  | 0x420 =>
    if 1 ≤ v.toNat ∧ v.toNat ≤ 128 then
      modCore s core (fun x => { x with mboxLim := AMap.put x.mboxLim t.ctx.toNat v.toNat })
    else s
  | 0x421 => if 1 ≤ v.toNat ∧ v.toNat ≤ 32 then modCore s core (fun x => { x with sqLim := v.toNat }) else s
  | 0x800 => if featureOn s 5 then { s with determEn := v.getLsbD 0 } else s
  | _ => if s.pl.owner = some t.ctx then { s with pl := plWrite s.pl c v } else s

/-! ## The instructions (R253) -/

/-- The checks of R22, then the strands of S in ascending order; all continue. -/
def withCsr (s : State) (c : BitVec 12) (go : Task → State → Nat → State) : Out State :=
  withTask s (fun _ t =>
    if csrListed s c.toNat then needPriv s (c.extractLsb' 10 2) (.next (advance (forActive s (go t))))
    else .next (raiseFirst s cILLEGAL (s.issue.word.setWidth 64)))

/-- Reads a register (R253). -/
def execCsrr (d : SReg) (c : BitVec 12) (s : State) : Out State :=
  withCsr s c (fun t x k => let r := csrRead x t k c.toNat; setS r.1 k d r.2)

/-- Writes a register (R253). -/
def execCsrw (a : SReg) (c : BitVec 12) (s : State) : Out State :=
  withCsr s c (fun t x k => csrWrite x t k c.toNat (getS x k a))

/-- Reads a register and writes a value made of the old one and s[A], unless s[A] is zero (R253). -/
def csrModify (f : Word → Word → Word) (d a : SReg) (c : BitVec 12) (s : State) : Out State :=
  withCsr s c (fun t x k =>
    let m := getS x k a
    let r := csrRead x t k c.toNat
    let y := setS r.1 k d r.2
    if m = 0 then y else csrWrite y t k c.toNat (f r.2 m))

/-- Reads a register and sets bits (R253). -/
def execCsrs (d a : SReg) (c : BitVec 12) (s : State) : Out State := csrModify (fun o m => o ||| m) d a c s

/-- Reads a register and clears bits (R253). -/
def execCsrc (d a : SReg) (c : BitVec 12) (s : State) : Out State := csrModify (fun o m => o &&& ~~~m) d a c s

end Sys2Proof.Machine
end

