-- ==== Sys2Proof/Machine/Parking.lean ====
section
/-! DEFINITION. Replay of waiting accesses: side-log passes, parked-access entries, stopped copies, drains and calls, and
coppiced tasks (R182, R256, R303, R308, R309, R316). -/

namespace Sys2Proof.Machine

/-! ## Entries (R300, R306) -/

/-- The right that an entry's access needs. -/
def Entry.right (e : Entry) : Nat :=
  match e.kind with
  | .load => rR
  | .monw => rR
  | .fetch => 2
  | .store => rW
  | .atomR => rAtom
  | .atomNR => rAtom
  | .ropR => ropRight e.aop.toNat
  | .ropSt => rW

/-- An entry's access writes. -/
def Entry.writes (e : Entry) : Bool :=
  match e.kind with
  | .load => false
  | .monw => false
  | .fetch => false
  | .ropR => e.aop != 0 && e.aop != 5
  | _ => true

/-- The access kind of an entry in a page request (R306). -/
def Entry.access (e : Entry) : Access :=
  match e.kind with
  | .load => .read
  | .monw => .read
  | .fetch => .fetch
  | .store => .write
  | .atomR => .atomic
  | .atomNR => .atomic
  | .ropR => ropAccess e.aop.toNat
  | .ropSt => .write

/-- The bytes that a STORE entry writes. -/
def Entry.bytes (e : Entry) : List Byte := bytesOf (2 ^ e.size) (natOfWords e.data)

/-- The page that an entry still waits for; a page that it was not waiting for is asked for (R304, R309). -/
def stillAway (s : State) (e : Entry) (a : Absent) : State × Entry :=
  (if a.same e.away then s else requestPage s e.ctx a e.access, { e with away := a, sent := false, due := false })

/-- What a replay of a core's side log has come to: the state, strands whose later entries stay, and a stop (R277). -/
structure Pass where
  s : State
  held : List (Nat × BitVec 9)
  stop : Option (Out State)

/-! ## The side log (R303) -/

/-- Takes an entry out of a core's side log; its place goes to one that waits for it. -/
def dropSide (s : State) (core : Nat) (e : Entry) : State :=
  admitLate (modCore s core (fun c => { c with sidelog := c.sidelog.filter (fun x => x.key != e.key) })) core

/-- An entry stays, and every later one of its strand. -/
def Pass.keep (p : Pass) (core : Nat) (s : State) (e : Entry) : Pass :=
  { p with
    s := modCore s core (fun c => { c with sidelog := c.sidelog.map (fun x => if x.key == e.key then e else x) })
    held := (e.uid, e.strand) :: p.held }

/-- An entry has been made, or has become a deferred fault. -/
def Pass.drop (p : Pass) (core : Nat) (s : State) (e : Entry) : Pass := { p with s := dropSide s core e }

/-- A ROPST entry is sent (R303). It stays until its target answers, and with it the later entries of its strand, since its page may
still be absent there; one to a peer that has left the connected group fails (R389). -/
def sideRop (core : Nat) (p : Pass) (e : Entry) : Pass :=
  match ropPeer? p.s e.ea with
  | some q =>
    if e.sent then p.keep core p.s e
    else if !connected p.s q then p.drop core (deferFault p.s core e ⟨cFABRIC, q.setWidth 64⟩) e
    else p.keep core (ropSend p.s q { e with sent := true } 0 core) { e with sent := true }
  | none =>
    if e.sent then p.keep core p.s e
    else
      let r := ropPage p.s (coreCaches core) e.ctx e.ea e.aop.toNat
      match r.2 with
      | .trap c v => p.drop core (deferFault r.1 core e ⟨c, v⟩) e
      | .absent a => let q := stillAway r.1 e a; p.keep core q.1 q.2
      | .window _ => p
      | .page pa =>
        match paStop? pa with
        | some o => { p with s := r.1, stop := some o }
        | none => p.keep core (ropHere r.1 { e with sent := true } 0 core) { e with sent := true }

/-- An entry of the side log is replayed: made, kept, or discarded as a deferred fault (R303). One that a revocation has marked
while its task was coppiced is such a fault already (R315). -/
def sideEntry (core : Nat) (p : Pass) (e : Entry) : Pass :=
  if p.stop.isSome || p.held.contains (e.uid, e.strand) then p
  else if e.discarded then p.drop core (deferFault p.s core e ⟨cREVOKED, e.ea⟩) e
  else if e.kind = .ropSt then sideRop core p e
  else
    let r := checkPage p.s (coreCaches core) e.ctx e.ea e.right true
    match r.2 with
    | .trap c v => p.drop core (deferFault r.1 core e ⟨c, v⟩) e
    | .absent a => let q := stillAway r.1 e a; p.keep core q.1 q.2
    | .window _ => p
    | .page pa =>
      match paStop? pa with
      | some o => { p with s := r.1, stop := some o }
      | none =>
        if e.kind = .store then p.drop core (makeStore r.1 core e.ctx pa e.bytes) e
        else
          let q := atomLane r.1 core 0 true e.d e.aop.toNat (2 ^ e.size) e.data e.ea pa
          p.drop core (if q.2 then deferFault q.1 core e ⟨cDATAERR, e.ea⟩ else q.1) e

/-- One pass over some side-log entries of a core, in ORDER (R303). -/
def sidePass (s : State) (core : Nat) (mine : Entry → Bool) : State × Option (Out State) :=
  let p := ((coreAt s core).sidelog.filter mine).foldl (sideEntry core) ⟨s, [], none⟩
  (p.s, p.stop)

/-! ## Parked entries (R308, R309) -/

/-- The strand of an entry of a core, while its task is there. -/
def entryStrand? (s : State) (e : Entry) : Option Nat := (taskByUid? s e.uid).bind (fun t => strandByIx? t.2 e.strand)

/-- Takes an entry out of the parked-access table. -/
def dropParked (s : State) (core : Nat) (e : Entry) : State :=
  modCore s core (fun c => { c with parked := c.parked.filter (fun x => x.key != e.key) })

/-- An entry keeps its place, waiting for a page. -/
def keepParked (s : State) (core : Nat) (e : Entry) (a : Absent) : State :=
  let q := stillAway s e a
  modCore q.1 core (fun c => { c with parked := c.parked.map (fun x => if x.key == e.key then q.2 else x) })

/-- The instruction of a strand issues again. -/
def again (s : State) (k : Nat) : State := modStrand s k (fun t => { t with wait := .run })

/-- A parked ROP has been sent again. -/
def keepSent (s : State) (core : Nat) (e : Entry) : State :=
  modCore s core (fun c => { c with parked := c.parked.map (fun x => if x.key == e.key then { x with sent := true } else x) })

/-- A retried ROP: sent again whole to its target. One with a return stays parked until the answer; a rop.st is posted again (R195,
R196, R308). -/
def retryRop (s : State) (core k : Nat) (e : Entry) : State × Option (Out State) :=
  match ropPeer? s e.ea with
  | some q =>
    if !connected s q then (trapStrand s k cFABRIC (q.setWidth 64), none)
    else if e.kind = .ropSt then (modStrand (ropSend (dropParked s core e) q e k core) k Strand.past, none)
    else if e.sent then (s, none)
    else (keepSent (ropSend s q { e with sent := true } k core) core e, none)
  | none =>
    if e.sent then (s, none)
    else
      let r := ropPage s (coreCaches core) e.ctx e.ea e.aop.toNat
      match r.2 with
      | .trap c v =>
        if e.kind = .ropSt then
          (modStrand (dropParked r.1 core e) k (fun t => { t.past with deferred := t.deferred ++ [⟨c, v⟩] }), none)
        else (trapStrand r.1 k c v, none)
      | .absent a => (keepParked r.1 core e a, none)
      | .window _ => (r.1, none)
      | .page pa =>
        match paStop? pa with
        | some o => (r.1, some o)
        | none =>
          if e.kind = .ropSt then (modStrand (ropHere (dropParked r.1 core e) e k core) k Strand.past, none)
          else (keepSent (ropHere r.1 { e with sent := true } k core) core e, none)

/-- A retried access whose page is present (R309). -/
def retryAt (s : State) (core k pa : Nat) (e : Entry) : State :=
  let n := 2 ^ e.size
  match e.kind with
  | .load =>
    if e.size = blockSize then again (dropParked s core e) k
    else
      let r := readFails s core pa n
      if r.2 then trapStrand r.1 k cDATAERR e.ea
      else
        let z : BitVec 3 := match e.size with
          | 0 => if e.sign then 1 else 0
          | 1 => if e.sign then 3 else 2
          | 2 => 4
          | 3 => 5
          | _ => 6
        loadLane (dropParked r.1 core e) core k e.d z e.ea pa
  | .monw =>
    let r := readFails s core pa 4
    if r.2 then trapStrand r.1 k cDATAERR e.ea else monwLane (dropParked r.1 core e) core k pa e.ea.toNat
  | .store => modStrand (makeStore (dropParked s core e) core e.ctx pa e.bytes) k Strand.past
  | .atomR =>
    let r := atomLane s core k false e.d e.aop.toNat n e.data e.ea pa
    if r.2 then trapStrand r.1 k cDATAERR e.ea else modStrand (dropParked r.1 core e) k Strand.past
  | .atomNR =>
    let r := atomLane s core k true e.d e.aop.toNat n e.data e.ea pa
    modStrand (dropParked r.1 core e) k (fun t =>
      if r.2 then { t.past with deferred := t.deferred ++ [⟨cDATAERR, e.ea⟩] } else t.past)
  | _ => again (dropParked s core e) k

/-- Retries a parked entry (R308, R309). -/
def retryEntry (core : Nat) (a : State × Option (Out State)) (e : Entry) : State × Option (Out State) :=
  let s := a.1
  if a.2.isSome || !((coreAt s core).parked.any (fun x => x.key == e.key)) then a
  else
    match entryStrand? s e with
    | none => (dropParked s core e, none)
    | some k =>
      if e.kind != .fetch && sideOnLine s k (e.line s) then
        (modCore s core (fun c => { c with parked := c.parked.map (fun x =>
          if x.key == e.key then { x with due := true } else x) }), none)
      else if e.kind = .ropR ∨ e.kind = .ropSt then retryRop s core k e
      else
        let r := checkPage s (coreCaches core) e.ctx e.ea e.right e.writes
        match r.2 with
        | .trap c v => (trapStrand r.1 k c v, none)
        | .absent x => (keepParked r.1 core e x, none)
        | .window _ => (r.1, none)
        | .page pa =>
          match paStop? pa with
          | some o => (r.1, some o)
          | none => (retryAt r.1 core k pa e, none)

/-- Puts an entry into a list rising by strand. -/
def insertEntry (k : Nat) (e : Entry) : List (Nat × Entry) → List (Nat × Entry)
  | [] => [(k, e)]
  | (k', e') :: r => if k < k' then (k, e) :: (k', e') :: r else (k', e') :: insertEntry k e r

/-- A side-log pass of some entries of a core, then a retry of some of its parked entries, group by group and strand by strand;
then the groups whose entries have all completed issue again (R308). -/
def replayWhere (s : State) (core : Nat) (side parked : Entry → Bool) : State × Option (Out State) :=
  let p := sidePass s core side
  let es := ((coreAt p.1 core).parked.filter parked).foldl
    (fun l e => insertEntry ((entryStrand? p.1 e).getD 0) e l) []
  let r := es.foldl (fun a e => retryEntry core a e.2) p
  let gs := (r.1.groups.filter (fun g => coreOfGroup g.1 == core && g.2.parked.isSome)).map (·.1)
  (gs.foldl unparkGroup r.1, r.2)

/-- A replay of some entries reaches a core (R308). -/
def replayCore (s : State) (core : Nat) (mine : Entry → Bool) : State × Option (Out State) := replayWhere s core mine mine

/-! ## A replay of a context (R256, R308, R316) -/

/-- A page that a walk translates, or that meets REVOKED, is resolved (R316). -/
def resolved (s : State) (ctx : CtxId) (va : Nat) : Bool :=
  match walked s ctx va false with
  | .absent _ => false
  | _ => true

/-- Every page that a coppiced task's parked entries name is resolved, and its frame's page when the task has left the queue
for it (R314, R316); a task coppiced under R125 comes back by its counter, and only in the latter case by a replay. -/
def coppicedReady (s : State) (c : Coppiced) : Bool :=
  (c.fork.isNone || c.frameAbsent) &&
  c.parked.all (fun e => e.away.peer.isSome || resolved s e.ctx (e.ea.toNat % 2 ^ 52)) &&
  (!c.frameAbsent || (resolved s c.task.ctx c.frame.toNat && resolved s c.task.ctx (c.frame.toNat + 2 ^ 19)))

/-- A coppiced task enters its re-admission queue; nothing keeps it away any more. -/
def comeBack (s : State) (ctx : CtxId) (uid : Nat) (c : Coppiced) : State :=
  queueReadmit (modCtx s ctx (fun x => { x with coppiced := AMap.modify x.coppiced uid (fun k => { k with frameAbsent := false }) }))
    c.cluster uid

/-- The coppiced tasks of a context, of those that a test chooses, whose pages are all resolved enter the re-admission queue
(R316). -/
def replayCoppiced (s : State) (ctx : CtxId) (p : Coppiced → Bool) : State :=
  (((ctxAt? s ctx).map (·.coppiced)).getD []).foldl (fun s e =>
    if p e.2 then
      let s1 := walkPages s ctx (e.2.parked.map (fun x => x.ea.toNat % 2 ^ 52) ++ [e.2.frame.toNat, e.2.frame.toNat + 2 ^ 19])
      if coppicedReady s1 e.2 then comeBack s1 ctx e.1 e.2 else s1
    else s) s

/-- A record of a context that waits on an absent page is to be retried (R226). -/
def retryRun (ctx : CtxId) (r : Running) : Running :=
  if r.record.ctx == ctx && r.stopped.isSome then { r with retry := true } else r

/-- Stopped copies, waiting drains and waiting calls of a context are to be retried (R256). -/
def retryUnits (s : State) (ctx : CtxId) : State :=
  { s with
    queues := s.queues.map (fun e => (e.1, { e.2 with
      copies := e.2.copies.map (fun c => if c.ctx == ctx && c.stopped.isSome then { c with retry := true } else c) }))
    engines := s.engines.map (fun e => (e.1, { e.2 with
      executing := e.2.executing.map (retryRun ctx), units := e.2.units.map (retryRun ctx) }))
    calls := s.calls.map (fun e => (e.1, if e.2.ctx == ctx && e.2.absent.isSome then { e.2 with retry := true } else e.2)) }

/-- The strands of a group that wait for a request continue, with the reply in g[D] (R247). -/
def answerGroup (s : State) (g request : Nat) (d : GReg) (v : DWord) : State :=
  let ks := (strandsOfGroup g).filter (fun k => (strandAt s k).wait == .reply request)
  if ks.isEmpty then s else modStrands (setG s g d v) ks Strand.past

/-- The cores that hold entries of a context. -/
def replayCores (s : State) (ctx : CtxId) : List Nat :=
  (s.cores.filter (fun c => c.2.parked.any (fun e => e.ctx == ctx) || c.2.sidelog.any (fun e => e.ctx == ctx))).map (·.1)

/-- Starts a replay of a context: units that wait, coppiced tasks, and the cores, each of which begins in its own step.
With no core to begin, it is done (R256). -/
def startReplay (s : State) (ctx : CtxId) (reply : ReplyTo) : State × Bool :=
  let s1 := replayCoppiced (retryUnits s ctx) ctx (fun _ => true)
  let cs := replayCores s1 ctx
  if cs.isEmpty then (s1, true) else ({ s1 with replays := s1.replays ++ [⟨ctx, cs, reply⟩] }, false)

end Sys2Proof.Machine
end

