-- ==== Sys2Proof/Machine/Units.lean ====
section
/-! DEFINITION. The near-memory operation units, what the answer of a remote operation does at its source, and the statuses in which a
peer's answers report an outcome (R194 to R196, R391, R393, R394). -/

namespace Sys2Proof.Machine

/-! ## Answers at the source (R195, R196, R303, R308) -/

/-- The parked entry of a ROP that a replay has sent again, which stays parked until the answer (R196, R308). -/
def resent? (s : State) (core : Nat) (e : Entry) : Option Entry :=
  if e.sent then (coreAt s core).parked.find? (fun x => x.sent && x.key == e.key && x.uid == e.uid) else none

/-- A strand still waits for the answer of a ROP: first sent, or parked and sent again. -/
def ropWaits (s : State) (e : Entry) (k core : Nat) : Bool :=
  ((strandAt s k).wait == .rop || (resent? s core e).isSome) &&
    ((taskByUid? s e.uid).bind (fun t => strandByIx? t.2 e.strand)) == some k

/-- The later side-log entries of a strand that waited behind a rop.st sent again are made, now that it has performed (R303), and
so are its parked accesses that a replay left behind them (R308). A stop of one of them leaves them for the next replay. -/
def sideNext (s : State) (core : Nat) (e : Entry) : State :=
  let p := replayWhere s core (fun x => x.sameStrand e) (fun x => x.sameStrand e && x.due)
  if p.2.isSome then s else p.1

/-- The parked accesses of a strand that a replay left behind a ROP of the strand to their line are made, now that it has performed
(R181, R308). -/
def dueNext (s : State) (core : Nat) (e : Entry) : State :=
  if (coreAt s core).parked.any (fun x => x.sameStrand e && x.due) then
    let p := replayWhere s core (fun _ => false) (fun x => x.sameStrand e && x.due)
    if p.2.isSome then s else p.1
  else s

/-- A rop.st has performed at its target: one that stood in the side log leaves it (R303). -/
def ropStDone (s : State) (e : Entry) (core : Nat) : State := if e.sent then sideNext (dropSide s core e) core e else dueNext s core e

/-- A ROP with a return has performed at its target: its data enter the registers, and its group issues again once no access of it is
parked (R196, R301). One to this part counts for R126, on its line. -/
def ropDone (s : State) (e : Entry) (k core : Nat) (ws : List Word) (line : Option (Nat × Nat)) : State :=
  if ropWaits s e k core then
    match resent? s core e with
    | some x => unparkGroup (ropReturn (dropParked s core x) k e.d ws line) (k / 32)
    | none => ropReturn s k e.d ws line
  else s

/-- A ROP is sent whole to its target once more. -/
def ropAgain (s : State) (e : Entry) (k core : Nat) : State :=
  match ropPeer? s e.ea with
  | some p => ropSendNow s p e k core
  | none => ropHere s e k core

/-- A ROP whose page is absent at its target waits as a parked access, or a rop.st in the side log (R196). One that a replay had sent
again keeps its place and its park time (R303, R309). A rop.st that finds the side log full is sent again (DESIGN CHOICE: log 59). -/
def ropAway (s : State) (e : Entry) (k core : Nat) (a : Absent) : State :=
  if e.kind = .ropSt then
    if e.sent then
      let q := stillAway s e a
      modCore q.1 core (fun c => { c with sidelog := c.sidelog.map (fun x => if x.key == e.key && x.sent then q.2 else x) })
    else
      let s1 := requestPage s e.ctx a (ropAccess e.aop.toNat)
      if (coreAt s1 core).sidelog.length < 256 then addEntry s1 core true { e with away := a } else ropAgain s1 e k core
  else
    match resent? s core e with
    | some x => keepParked s core x a
    | none =>
      let s1 := requestPage s e.ctx a (ropAccess e.aop.toNat)
      if (coreAt s1 core).parked.length < 512 then
        addEntry (parkGroup (modStrand s1 k (fun t => { t with wait := .fault })) (k / 32)) core false { e with away := a }
      else parkGroup (modStrand s1 k (fun t => { t with wait := .cond (.parkRoom core 1 a) s.now })) (k / 32)

/-- A ROP fails at its target: a trap, or for rop.st a deferred fault (R194, R433). The ROPs of the other lanes stand (DESIGN CHOICE:
log 81). -/
def ropFails (s : State) (e : Entry) (k core : Nat) (cause : BitVec 8) (value : DWord) : State :=
  if e.kind = .ropSt then
    let s1 := deferFault s core e ⟨cause, value⟩
    ropStDone s1 e core
  else if ropWaits s e k core then trapStrand s k cause value else s

/-! ## Statuses of answers (R391; the codes are the model's, DESIGN CHOICE: log 13) -/

def stOk : Nat := 0
def stUnmapped : Nat := 0x80
def stUnbacked : Nat := 0x81

/-- The status of an absent page. -/
def absentStatus (a : Absent) : Nat := if a.reason = .unmapped then stUnmapped else stUnbacked

/-- The cache of a port. -/
def portCache (port : Nat) : Nat := 384 + port % 32


/-! ## The units (R393, R394) -/

/-- The translation caches through which an operation is checked: those of its source (R194, R196, R287). -/
def RopJob.caches (j : RopJob) : List Nat :=
  match j.source with
  | .strand _ core => coreCaches core
  | .peer _ _ port => [portCache port]

/-- The result of an operation leaves on the REPLY network (R393). -/
def unitResult (s : State) (j : RopJob) (r : RopOut) : State :=
  inject s (ropMessage (.ropRes j r) .reply (.nearMemory j.unit) j.e.ctx)

/-- The operation stays first in its unit. -/
def unitKeeps (s : State) (j : RopJob) : State :=
  { s with units := AMap.put s.units j.unit.toNat (j :: AMap.getD s.units j.unit.toNat []) }

/-- The number that the next hop of a chase has among its hops, 1 to 8. -/
def RopJob.hopIndex (j : RopJob) : Nat := j.e.fl.toNat + 2 - j.left

/-- The next hop of a chase: it stays at the unit that has its line, or is forwarded on SYS to the unit that has. A hop whose page is
not present stays, and ends the chase there (R394). -/
def nextHop (s : State) (j : RopJob) (a : DWord) : State :=
  let n := { j with next := a, left := j.left - 1 }
  match (placeOf? s j.caches j.e.ctx a.toNat).map nearUnit with
  | some u =>
    if u = j.unit then unitKeeps s n
    else inject s (ropMessage (.ropReq { n with unit := u, index := n.hopIndex }) .sys (.nearMemory j.unit) j.e.ctx)
  | none => unitKeeps s n

/-- A unit performs the first of its operations, or the first hop of a chase among them, at the coherence point (R260, R393). -/
def unitStep (s : State) (u : Nat) : State :=
  match AMap.getD s.units u [] with
  | [] => s
  | j :: r =>
    let s0 := { s with units := AMap.put s.units u r }
    if j.e.aop = 5 then
      let h := hop s0 j.caches j.e.ctx j.e.ea j.next j.left
      match h.2 with
      | .inl out => unitResult h.1 j out
      | .inr a => nextHop h.1 j a
    else
      let o := ropPerform s0 j.caches j.e.ctx j.e.ea j.e.aop.toNat j.e.fl.toNat j.e.data
      unitResult o.1 j o.2

/-- One cycle of the units: each performs one operation (R393). -/
def unitsCycle (s : State) : State := (s.units.map (·.1)).foldl unitStep s

/-- A number of cycles of the units; with nothing to perform none does anything. -/
def unitsCycles : Nat → State → State
  | 0, s => s
  | n + 1, s => if s.units.all (fun e => e.2.isEmpty) then s else unitsCycles n (unitsCycle s)

/-- An operation comes to its unit, behind those that have come before it (R393). -/
def unitTakes (s : State) (j : RopJob) : State :=
  { s with units := AMap.put s.units j.unit.toNat (AMap.getD s.units j.unit.toNat [] ++ [j]) }

/-- An operation of a peer has performed or failed: it is answered with a status, a value and its data, and counts as received from then
on (R384, R385, R388, R391). -/
def peerRopReply (s : State) (p : BitVec 10) (q : BitVec 32) (st : Nat) (value : DWord) (ws : List Word) : State :=
  answerMarkers (answer (modPeer s p (fun x => markSeq x q)) p 0x06 q
    ([BitVec.ofNat 8 st] ++ bytesOf 8 value.toNat ++ bytesOf 16 (natOfWords ws))) p

/-- The result of an operation of a peer; a rop.st that performs is acknowledged (R384). -/
def peerRopDone (s : State) (p : BitVec 10) (q : BitVec 32) (e : Entry) (r : RopOut) : State :=
  match r with
  | .done ws =>
    if e.kind = .ropSt then answerMarkers (sendEack (modPeer s p (fun x => markSeq x q)) p q) p
    else peerRopReply s p q stOk e.ea ws
  | .trap c v => peerRopReply s p q c.toNat v []
  | .absent a => peerRopReply s p q (absentStatus a) (BitVec.ofNat 64 a.unit) []
  | .stop _ => s

/-- The result of an operation comes to its source (R195, R196). -/
def ropAnswer (s : State) (j : RopJob) (r : RopOut) : State :=
  match j.source with
  | .peer p q _ => peerRopDone s p q j.e r
  | .strand k core =>
    match r with
    | .done ws =>
      if j.e.kind = .ropSt then ropStDone s j.e core
      else ropDone s j.e k core ws (some (j.pa / 128, (ropVa j.e.ea).toNat / 128))
    | .trap c v => ropFails s j.e k core c v
    | .absent a => if j.e.kind = .ropSt || ropWaits s j.e k core then ropAway s j.e k core a else s
    | .stop _ => s

end Sys2Proof.Machine
end

