-- ==== Sys2Proof/Machine/System.lean ====
section
/-! DEFINITION. The system instructions (R254 to R258). -/

namespace Sys2Proof.Machine

/-- Does nothing (R254). -/
def execNop (s : State) : Out State := .next (advance s)

/-- Ends the service-processor task: its strands have all exited (R254) (the firmware itself is not in the spec; DESIGN CHOICE: log 48). -/
def execHalt (s : State) : Out State :=
  needPriv s 2 (withTask s (fun tk t =>
    let ks := strandsOfTask t
    let s1 := modStrands (ks.foldl dropLocks s) ks (fun x => { x with wait := .exited })
    .next (checkBars s1 (clusterOfCore s.issue.core) tk)))

/-- Raises BKPT with value Z (R254). -/
def execBkpt (z : BitVec 4) (s : State) : Out State := .next (raiseFirst s cBKPT (z.setWidth 64))

/-- Raises TRAPI with value g[GA] (R254). -/
def execTrap (a : GReg) (s : State) : Out State := .next (raiseFirst s cTRAPI (getG s (gk s) a))

/-- Lowers the privilege of the strands of S and continues them at g[GA] (R255). -/
def execEret (a : GReg) (l : BitVec 2) (s : State) : Out State :=
  let v := getG s (gk s) a
  needPrivAt s l v (
    if v.extractLsb' 0 2 != 0 then .next (raiseFirst s cALIGN v)
    else if v.extractLsb' 52 12 != 0 then .next (raiseFirst s cPROT v)
    else .next (modStrands s (active s) (fun t => { t with priv := l, pc := v.setWidth 52, wait := .run })))

/-- Discards the core's instruction cache for the context (R254). -/
def execIflush (s : State) : Out State :=
  withTask s (fun _ t =>
    .next (advance (modCore s s.issue.core (fun c => { c with
      icache := c.icache.filter (fun e => e.1 / 2 ^ 45 != t.ctx.toNat) }))))

/-- Makes every waiting access of the context retry; the strands wait until every core and engine has begun (R256). -/
def execReplay (s : State) : Out State :=
  needPriv s 1 (withTask s (fun _ t =>
    let n := s.map.nextRequest
    let s1 := { s with map := { s.map with nextRequest := n + 1 } }
    let r := startReplay s1 t.ctx (.group (gk s) n 0)
    if r.2 then .next (advance r.1) else .next (modStrands r.1 (active s) (fun x => { x with wait := .reply n }))))

/-- From the next choice of its quarter on, the group is passed over for the others that are ready (R254). -/
def execYield (s : State) : Out State :=
  .next (advance (modGroup s (gk s) (fun g => { g with yielded := some ⟨[], []⟩ })))

end Sys2Proof.Machine
end

