-- ==== Sys2Proof/Machine/Privet.lean ====
section
/-! DEFINITION. CINV and SLOTCALL: their checks, the call passed to the Privet engine, and its end (R250 to R252, R403). -/

namespace Sys2Proof.Machine

/-- Where the entry of a context's capability table stands that a capability names (R403). -/
def capPlace (s : State) (ctx : CtxId) (cap : DWord) : Nat := ((ctxAt? s ctx).map (·.capBase)).getD 0 + cap.toNat % 256 * 8

/-- An entry of a context's capability table (R403). -/
def capEntry (s : State) (ctx : CtxId) (i : Nat) : DWord :=
  let base := ((ctxAt? s ctx).map (·.capBase)).getD 0
  BitVec.ofNat 64 (natOfBytes (memBytes s (base + i * 8) 8))

/-- The entry that a capability names; none for one that raises CAPFAULT (R250). -/
def capability? (s : State) (ctx : CtxId) (cap : DWord) : Option DWord :=
  let e := capEntry s ctx (cap.toNat % 256)
  if cap.extractLsb' 8 56 ≠ 0 ∨ !e.getLsbD 0 ∨ 8 < (e.extractLsb' 4 4).toNat then none else some e

/-- Goes on with the entry that a capability names, once it is read: CAPFAULT, or DATAERR for a line with a lasting error, which R318
does not name for this read (R250; DESIGN CHOICE: log 102). -/
def withCapability (s : State) (ctx : CtxId) (cap : DWord) (go : State → DWord → Out State) : Out State :=
  let e := eccRange s (capPlace s ctx cap) 8
  if e.2 then .next (raiseFirst e.1 cDATAERR (BitVec.ofNat 64 (capPlace s ctx cap)))
  else
    match capability? e.1 ctx cap with
    | none => .next (raiseFirst e.1 cCAPFAULT cap)
    | some c => go e.1 c

/-- Words of 64 bits from bytes. -/
def words64 : List Byte → List DWord
  | a :: b :: c :: d :: e :: f :: g :: h :: r => BitVec.ofNat 64 (natOfBytes [a, b, c, d, e, f, g, h]) :: words64 r
  | _ => []

/-- The number of a new call of the Privet engine. -/
def nextCall (s : State) : Nat := (s.calls.foldl (fun n e => max n (e.1 + 1)) 0)

/-- Passes a call to the Privet engine (R250). The block is the argument block, or the call record. -/
def postCall (s : State) (t : Task) (cap : DWord) (block : DWord) (args : List DWord) (slot wait : Bool) (d : GReg) :
    State :=
  let n := s.map.nextRequest
  let c : Call :=
    { ctx := t.ctx, service := cap.extractLsb' 4 4, cap := cap, block := block.setWidth 52, args := args, slot := slot,
      gkey := if wait then some (gk s) else none, request := n, d := d, absent := none, retry := false,
      unmapping := false }
  let s1 := { s with map := { s.map with nextRequest := n + 1 }, calls := AMap.put s.calls (nextCall s) c }
  if wait then modStrands s1 (active s) (fun x => { x with wait := .reply n }) else s1

/-- Calls a Privet service and waits for its results (R250). -/
def execCinv (d a b : GReg) (s : State) : Out State :=
  withTask s (fun _ t =>
    let cap := getG s (gk s) a
    let block := getG s (gk s) b
    withCapability s t.ctx cap (fun s e =>
      if block.toNat % 64 ≠ 0 then .next (raiseFirst s cALIGN block)
      else
        readBlock s t block 64 (fun s1 bs =>
          .next (postCall (publish s1 s.issue.core) t e block (words64 bs) false true d))))

/-- Reads CAP and STATE of a call record as a load does, posts the record unless it is posted, and goes on (R252). The
argument block is read at the coherence point after the publication (DEDUCED: log 45); a lasting error there is DATAERR (R318). -/
def slotCall (d a : GReg) (wait : Bool) (s : State) : Out State :=
  withTask s (fun _ t =>
    let rec_ := getG s (gk s) a
    let core := s.issue.core
    if rec_.toNat % 128 ≠ 0 then .next (raiseFirst s cALIGN rec_)
    else
      readBlock s t rec_ 8 (fun s1 bs =>
        let cap : DWord := BitVec.ofNat 64 (natOfBytes (bs.take 4))
        if natOfBytes (bs.drop 4) = 1 then resG s1 d 0x20
        else
          withCapability s1 t.ctx cap (fun s1 e =>
            let k := firstActive s
            let r := checkPage s1 (coreCaches core) t.ctx rec_ rW true
            match r.2 with
            | .trap c v => .next (raiseFirst r.1 c v)
            | .absent x =>
              let s2 := requestPage r.1 t.ctx x .write
              .next (parkLanes s2 [(k, x)] (fun k x => { laneEntry s2 t .load rec_ 1 k x with size := blockSize }))
            | .window _ => .next r.1
            | .page pa =>
              let x := eccRange (publish r.1 core) (pa + 0x40) 64
              if x.2 then .next (raiseFirst x.1 cDATAERR (rec_ + 0x40))
              else
                let s2 := publish (makeStore x.1 core t.ctx (pa + 4) (bytesOf 4 1)) core
                let s3 := postCall s2 t e rec_ (words64 (memBytes s2 (pa + 0x40) 64)) true wait d
                if wait then .next s3 else resG s3 d 0)))

/-- Posts a call record and waits for its result (R252). -/
def execSlotcall (d a : GReg) (s : State) : Out State := slotCall d a true s

/-- Posts a call record and continues at once (R252). -/
def execSlotcallNb (d a : GReg) (s : State) : Out State := slotCall d a false s

/-! ## The end of a call -/

/-- A page that the engine needs is absent: it sends a page request, once, and the call waits for a replay (R251). -/
def callWaits (s : State) (n : Nat) (c : Call) (a : Absent) : State :=
  let same := (c.absent.map (fun x => x.same a)).getD false
  let s1 := if same then s else requestPage s c.ctx a .privet
  { s1 with calls := AMap.put s1.calls n { c with absent := some a, retry := false } }

/-- Writes of the engine at the coherence point through a context's translation; each needs the right W. One that cannot
be made is dropped; an absent page makes the call wait (DEDUCED: log 18). -/
def engineWrites (ctx : CtxId) : State → List (Nat × DWord × Nat) → State × Option Absent
  | s, [] => (s, none)
  | s0, (va, v, n) :: r =>
    let w := walkRead s0 ctx va true
    let s := w.1
    match w.2 with
    | .absent a => (s, some a)
    | .revoked => engineWrites ctx s r
    | .page e =>
      let pa := e.pa + (va - e.va)
      engineWrites ctx (if e.rights.getLsbD rW && (paStop? pa).isNone then perform s pa (bytesOf n v.toNat) else s) r

/-- A call ends in a lasting memory error on its instruction, at an address: its strands trap with DATAERR there (R318). One that no
strand waits for ends with an argument fault (DESIGN CHOICE: log 102). -/
def callDataErr? (s : State) (n : Nat) (a : DWord) : Option State :=
  match AMap.get? s.calls n with
  | none => none
  | some c =>
    (c.gkey.bind (fun g => (strandsOfGroup g).find? (fun k => (strandAt s k).wait == .reply c.request))).map (fun k =>
      trapStrand { s with calls := AMap.erase s.calls n } k cDATAERR a)

/-- A call ends: results in the block, then g[D], or for a call record RESULT, STATE and g[D] (R250, R252). -/
def finishCall (s : State) (n : Nat) (status argIx : Nat) (results : List (Nat × DWord)) : State :=
  match AMap.get? s.calls n with
  | none => s
  | some c =>
    let v : DWord := BitVec.ofNat 64 (argIx * 256 + status)
    let base := c.block.toNat + (if c.slot then 0x40 else 0)
    let ws := results.map (fun r => (base + r.1 * 8, r.2, 8)) ++
      (if c.slot then [(c.block.toNat + 8, v, 8), (c.block.toNat + 4, 2, 4)] else [])
    let w := engineWrites c.ctx s ws
    match w.2 with
    | some a => callWaits s n c a
    | none =>
      let s1 := { w.1 with calls := AMap.erase w.1.calls n }
      match c.gkey with
      | none => s1
      | some g => answerGroup (acquire s1 (coreOfGroup g)) g c.request c.d v

end Sys2Proof.Machine
end

