-- ==== Sys2Proof/Machine/Pleach.lean ====
section
/-! DEFINITION. The Pleach table as its instructions act on it, its messages and its error flags (R259, R340 to R346,
R351, R354). -/

namespace Sys2Proof.Machine

/-! ## The table -/

/-- Changes the table. -/
def modPl (s : State) (f : Pleach → Pleach) : State := { s with pl := f s.pl }

/-- An entry of the table. -/
def plEntry (s : State) (e : Nat) : PlEntry := AMap.getD s.pl.entries e PlEntry.init

/-- Changes an entry. -/
def modEntry (s : State) (e : Nat) (f : PlEntry → PlEntry) : State :=
  modPl s (fun p => { p with entries := AMap.put p.entries e (f (AMap.getD p.entries e PlEntry.init)) })

/-- Flags of PLSTATUS (R354). -/
def plPEERERR : BitVec 4 := 1
def plENTRYERR : BitVec 4 := 2
def plSENDERR : BitVec 4 := 4
def plOVERRUN : BitVec 4 := 8

/-- Sets a flag: the walk halts, and the entry concerned is recorded when no flag was set before (R354). -/
def plFlag (s : State) (flag : BitVec 4) (ix : BitVec 9) : State :=
  modPl s (fun p => { p with
    running := false, status := p.status ||| flag, errIx := if p.status = 0 then ix else p.errIx })

/-- The peer that a neighbour register names; none for this part (R341). -/
def plPeer? (s : State) (r : Word) : Option (BitVec 10) :=
  if r.getLsbD 31 || r.setWidth 10 == s.fab.self then none else some (r.setWidth 10)

/-- A Pleach message with a new identifier (R346, R434). Its arguments say the same as its kind, for a peer: the stage
in bits 3 to 0, G in bit 8, ARRIVE in bit 16, and the count (DESIGN CHOICE: log 13). -/
def plMessage (s : State) (k : MsgKind) : State × Message :=
  let id := dieId kPleach 65 s.plIds
  let owner := s.pl.owner.getD 0
  let a : Nat × Nat := match k with
    | .slotgive st g _ n => (st.toNat + (if g then 2 ^ 8 else 0), n.toNat)
    | .arrive st g _ => (st.toNat + (if g then 2 ^ 8 else 0) + 2 ^ 16, 1)
    | _ => (0, 0)
  ({ s with plIds := s.plIds + 1 },
    { kind := k, dw := 0, peer := none, core := 0, ctx := owner, slot := 0, supv := false, vnet := .sys,
      origin := ⟨none, 0, owner, none⟩, id := id, a0 := BitVec.ofNat 64 a.1, a1 := BitVec.ofNat 64 a.2, payload := [],
      trap := none, serial := 0, agent := .pleachTable })

/-- A Pleach message goes to a peer, through the message router (R346). -/
def plSendTo (s : State) (p : BitVec 10) (k : MsgKind) (ix : Option (BitVec 9)) : State :=
  let m := plMessage s k
  inject m.1 { m.2 with peer := some p, forEntry := ix }

/-- Holds a Pleach message to a peer outside the connected group under PEERERR, which records the entry that it is sent for; for a
slotgive instruction's the head (R354). -/
def plHold (s : State) (p : BitVec 10) (k : MsgKind) (ix : Option (BitVec 9)) : State :=
  modPl (plFlag s plPEERERR (ix.getD s.pl.head)) (fun x => { x with stalled := x.stalled ++ [(p, k, ix)] })

/-- Sends a Pleach message to a neighbour. One to a peer outside the connected group sets PEERERR and is kept (R354). -/
def plSend (s : State) (down : Bool) (k : MsgKind) (ix : Option (BitVec 9)) : State :=
  match plPeer? s (if down then s.pl.down else s.pl.up) with
  | none => let m := plMessage s k; inject m.1 m.2
  | some p => if connected s p then plSendTo s p k ix else plHold s p k ix

/-! ## The instructions (R259) -/

/-- The table's ownership: another context's task raises PROT with value 0 (R340). -/
def withOwner (s : State) (go : Out State) : Out State :=
  withTask s (fun _ t => if s.pl.owner = some t.ctx then go else .next (raiseFirst s cPROT 0))

/-- Reads of another context's task give zero (R340). -/
def ownerReads (s : State) (zero : Out State) (go : Out State) : Out State :=
  withTask s (fun _ t => if s.pl.owner = some t.ctx then go else zero)

/-- An operand below a limit; else PROT with it (R259). -/
def within (s : State) (v : DWord) (limit : Nat) (go : Out State) : Out State :=
  if v.toNat < limit then go else .next (raiseFirst s cPROT v)

/-- Writes an entry once it is not issued, or its task has trapped (R259, R351, R355). -/
def execPlwr (a : GReg) (b : BitVec 4) (s : State) : Out State :=
  needPrivFirst s 1 (s.issue.word.setWidth 64) (withOwner s (
    let ix := getG s (gk s) a
    within s ix 512 (
      whenHolds s (.entryFree ix.toNat) (
        let lo := getG s (gk s) (argReg b)
        let hi := getG s (gk s) (gAfter (argReg b) 1)
        .next (advance (modEntry s ix.toNat (fun _ => { PlEntry.init with bits := hi ++ lo })))))))

/-- Reads an entry (R259). -/
def execPlrd (d : BitVec 4) (a : GReg) (s : State) : Out State :=
  let put := fun (v : BitVec 128) =>
    (.next (advance (setG (setG s (gk s) (argReg d) (v.setWidth 64)) (gk s) (gAfter (argReg d) 1)
      (v.extractLsb' 64 64))) : Out State)
  ownerReads s (put 0) (
    let ix := getG s (gk s) a
    within s ix 512 (put (plEntry s ix.toNat).bits))

/-- Starts the walk; no effect while a flag is set (R259, R354). -/
def execPlgo (s : State) : Out State :=
  needPrivFirst s 1 (s.issue.word.setWidth 64) (withOwner s (.next (advance (
    if s.pl.status = 0 then modPl s (fun p => { p with running := true }) else s))))

/-- Halts the walk (R259). -/
def execPlhalt (s : State) : Out State :=
  needPrivFirst s 1 (s.issue.word.setWidth 64) (withOwner s (.next (advance (modPl s (fun p => { p with running := false })))))

/-- The value of a PLSTAT selector, if it is listed (R259). -/
def plStat? (p : Pleach) (sel : Nat) : Option Nat :=
  if sel ≤ 6 then some (p.bubbles.getD sel 0).toNat
  else if sel = 8 then some (p.head.toNat + (if p.running then 2 ^ 16 else 0))
  else if 0x10 ≤ sel ∧ sel ≤ 0x1F then some (p.stash.getD (sel - 0x10) 0)
  else if 0x200 ≤ sel ∧ sel ≤ 0x3FF then some (AMap.getD p.entries (sel - 0x200) PlEntry.init).stamp.toNat
  else none

/-- Reads a value of the table (R259). -/
def execPlstat (d a : GReg) (s : State) : Out State :=
  ownerReads s (resG s d 0) (
    let sel := getG s (gk s) a
    match plStat? s.pl sel.toNat with
    | some v => resG s d (BitVec.ofNat 64 v)
    | none => .next (raiseFirst s cPROT sel))

/-- Changes a stage's free stash slots by a count of 0 to 64 (R259). -/
def stashInstr (f : Nat → Nat → Nat) (a b : GReg) (s : State) : Out State :=
  needPrivFirst s 1 (s.issue.word.setWidth 64) (withOwner s (
    let st := getG s (gk s) a
    let n := getG s (gk s) b
    within s st 16 (within s n 65 (
      .next (advance (modPl s (fun p => { p with stash := p.stash.set st.toNat (f (p.stash.getD st.toNat 0) n.toNat) })))))))

/-- Subtracts from a stage's free stash slots, down to 0 (R259). -/
def execStasha (a b : GReg) (s : State) : Out State := stashInstr (fun v n => v - n) a b s

/-- Adds to a stage's free stash slots, up to 64 (R259). -/
def execStashf (a b : GReg) (s : State) : Out State := stashInstr (fun v n => min 64 (v + n)) a b s

/-- Sends one SLOTGIVE message to a neighbour (R259). -/
def execSlotgive (a b : GReg) (s : State) : Out State :=
  needPrivFirst s 1 (s.issue.word.setWidth 64) (withOwner s (
    let w := getG s (gk s) a
    let n := getG s (gk s) b
    if w &&& ~~~0x30F#64 ≠ 0 then .next (raiseFirst s cPROT w)
    else if n = 0 ∨ 16 < n.toNat then .next (raiseFirst s cPROT n)
    else
      .next (advance (plSend s (w.getLsbD 9) (.slotgive (w.setWidth 4) (w.getLsbD 8) (w.getLsbD 9) (n.setWidth 5))
        none))))

end Sys2Proof.Machine
end

