-- ==== Sys2Proof/Machine/Ring.lean ====
section
/-! DEFINITION. The rings that the part writes for the host: replies and page requests of a window (R396, R398 to R400). -/

namespace Sys2Proof.Machine

/-- A reply entry of 128 bytes (R398). -/
def replyEntry (id tag : Word) (status : Nat) (a0 a1 : DWord) (payload : List DWord) : RingEntry :=
  fit 128 (bytesOf 4 id.toNat ++ bytesOf 4 tag.toNat ++ bytesOf 8 status ++ bytesOf 8 a0.toNat ++ bytesOf 8 a1.toNat ++
    payload.flatMap (fun w => bytesOf 8 w.toNat))

/-- A ring has room: the place after the tail is not the head's (DEDUCED: log 20). -/
def ringRoom (tail head size : Nat) : Bool := (tail + 1) % 2 ^ size != head % 2 ^ size

/-- Writes waiting reply entries while the reply ring has room, each with its interrupt (R396, R399). -/
def flushReplies (fn : BitVec 6) : Nat → State → State
  | 0, s => s
  | n + 1, s =>
    let w := windowAt s fn
    match w.replies with
    | [] => s
    | (_, e) :: r =>
      if ringRoom w.rrTail w.rrHead w.rrSize then
        let s1 := writeHost s (w.rrBase.toNat / 4096 * 4096 + w.rrTail * 128) e
        let s2 := modWindow s1 fn (fun w => { w with replies := r, rrTail := (w.rrTail + 1) % 2 ^ w.rrSize })
        flushReplies fn n (msix s2 fn.toNat 0)
      else s

/-- A reply entry for a window, of a post that is outstanding until then or not: written when its ring has room, after those that
wait (R398, R399). -/
def hostReply (s : State) (fn : BitVec 6) (post : Bool) (e : RingEntry) : State :=
  let s1 := modWindow s fn (fun w => { w with replies := w.replies ++ [(post, e)] })
  flushReplies fn ((windowAt s1 fn).replies.length) s1

/-- TAG of the post that an identifier of a window names. -/
def tagOf (s : State) (fn : BitVec 6) (id : Word) : Word := Sparse.read (windowAt s fn).tags (id.toNat % 4096)

/-- A SEND of a window is still on its way. -/
def sending (s : State) (fn : BitVec 6) (id : Word) : Bool :=
  (windowAt s fn).sends.any (fun x => x.1.extractLsb' 0 28 == id.extractLsb' 0 28)

/-- A SEND of a window has been delivered, or its refusal has come: its entry is written. A refusal that comes after the delivery
has an entry of its own (R237, R398). -/
def sendDone (s : State) (fn : BitVec 6) (id : Word) (a0 a1 : DWord) (payload : List DWord) : State :=
  let s1 := modWindow s fn (fun w => { w with sends := w.sends.filter (fun x => x.1.extractLsb' 0 28 != id.extractLsb' 0 28) })
  hostReply s1 fn (sending s fn id) (replyEntry id (tagOf s fn id) 0 a0 a1 payload)

/-- A page-request entry for a virtual function's ring, if the ring has room (R400). -/
def writePrq? (s : State) (fn : BitVec 6) (w0 w1 : DWord) : Option State :=
  let w := windowAt s fn
  if ringRoom w.prqTail w.prqHead w.prqSize then
    let s1 := writeHost s (w.prqBase.toNat / 4096 * 4096 + w.prqTail * 16) (bytesOf 8 w0.toNat ++ bytesOf 8 w1.toNat)
    some (msix (modWindow s1 fn (fun w => { w with prqTail := (w.prqTail + 1) % 2 ^ w.prqSize })) fn.toNat 1)
  else none

end Sys2Proof.Machine
end

