-- ==== Sys2Proof/Machine/Sched.lean ====
section
/-! DEFINITION. Messages arriving, tasks starting and ending, page requests delivered, budgets, slices and pre-emption
(R32, R35 to R38, R122 to R124, R233 to R242, R305, R320 to R331). -/

namespace Sys2Proof.Machine

/-! ## Arrival (R234, R235, R323) -/

/-- The partition whose clusters hold a core. -/
def partOfCore? (s : State) (core : Nat) : Option Nat :=
  (s.parts.find? (fun p => p.2.clusters.getLsbD (core / 8))).map (·.1)

/-- No such context: context 0, none, or one of another partition than the destination's (R235, R14) (DEDUCED: log 46). -/
def noSuchCtx (s : State) (m : Message) : Bool :=
  m.ctx == 0 || (ctxAt? s m.ctx).isNone ||
  (match m.peer.isSome, partOf? s m.ctx with
   | _, some p => partOfCore? s m.core.toNat != some p
   | _, none => true)

/-- A context is resident on a core (R320). From the first cycle of its save on, messages for it go to its overflow mailbox:
so also while the save is held up by an extent that is too small (R333, R334). -/
def resident (s : State) (core : Nat) (ctx : CtxId) : Bool :=
  ((ctxAt? s ctx).map (fun c => !c.stuck && c.clusters.contains (BitVec.ofNat 5 (core / 8)))).getD false

/-- A message for a core goes to the overflow ring: its context is not resident there, or older messages for the core stand in
the ring (R323, R324). -/
def overflows (s : State) (m : Message) : Bool :=
  !resident s m.core.toNat m.ctx || ((ctxAt? s m.ctx).map (fun c => c.ovf.any (fun x => x.2.core == m.core))).getD false

/-- A message has entered a mailbox: a host's SEND is delivered, and the packet of a message from a peer is acknowledged (R384,
R398). -/
def noteDelivered (s : State) (m : Message) : State :=
  acked (match m.origin.window with
    | some fn => if kindOf m.id = kReq ∧ sending s fn m.id then sendDone s fn m.id 0 0 [] else s
    | none => s) m

/-- The index of the first message of the overflow ring; of the next one where it is empty. -/
def overflowFirst (c : Ctx) : Nat := (c.ovf.head?.map (·.1)).getD c.ovfIndex

/-- The overflow ring of a context has room (R323). -/
def overflowRoom (c : Ctx) : Bool := c.ovfIndex - overflowFirst c < 2 ^ c.ovfLog

/-- Writes a message into the overflow ring (R323). -/
def overflowPut (s : State) (m : Message) : State :=
  match ctxAt? s m.ctx with
  | none => s
  | some c =>
    let a := c.ovfBase + c.ovfIndex % 2 ^ c.ovfLog * 128
    let s1 := if plainMem a && plainMem (a + 127) then perform s a (fit 128 (messageBytes m)) else s
    noteDelivered (modCtx s1 m.ctx (fun c => { c with ovf := c.ovf ++ [(c.ovfIndex, m)], ovfIndex := c.ovfIndex + 1 })) m

/-- A TRAP, PAGEREQ or UNBOUND message (R235). -/
def ofPart (m : Message) : Bool := m.supv && (kindOf m.id == kTrap || kindOf m.id == kPagereq || kindOf m.id == kUnbound)

/-- The places of a mailbox for a message: 16 more for messages of the part (R235). -/
def mailLimit (s : State) (core : Nat) (m : Message) : Nat :=
  AMap.getD (coreAt s core).mboxLim m.ctx.toNat 128 + (if ofPart m then 16 else 0)

/-- A mailbox has a place for a message (R235). -/
def mailRoom (s : State) (m : Message) : Bool := (mailbox s m.core.toNat m.ctx).length < mailLimit s m.core.toNat m

/-- A message takes its place in its mailbox, or in the overflow mailbox where it goes there; a message on the REPLY network that
finds its mailbox full goes there too. None while there is no place (R235, R323). -/
def placed? (s : State) (m : Message) : Option State :=
  if overflows s m || (m.vnet == .reply && !mailRoom s m) then
    if ((ctxAt? s m.ctx).map overflowRoom).getD true then some (overflowPut s m) else none
  else if mailRoom s m then some (noteDelivered (mailPut s m.core.toNat m.ctx (.message m)) m)
  else none

/-- A message is never refused: it waits in the message router while there is no place for it (R235, R323). -/
def waitsForPlace (m : Message) : Bool := m.vnet == .reply || ofPart m

/-- An older message of its kind for the same core waits in the message router (R234, R235). -/
def behindHeld (s : State) (m : Message) : Bool :=
  waitsForPlace m && ((ctxAt? s m.ctx).map (fun c =>
    c.routerHeld.any (fun x => x.core == m.core && (x.vnet == .reply) == (m.vnet == .reply)))).getD false

/-- The message router holds a message. -/
def holdMessage (s : State) (m : Message) : State := modCtx s m.ctx (fun c => { c with routerHeld := c.routerHeld ++ [m] })

/-- A message for a task of a context (R235). -/
def arriveTask (s : State) (m : Message) : State :=
  if noSuchCtx s m then
    if kindOf m.id = kReq then refuseMessage s m kNoctx else acked s m
  else if behindHeld s m then holdMessage s m
  else
    match placed? s m with
    | some t => t
    | none => if waitsForPlace m then holdMessage s m else refuseMessage s m kFull

/-- The messages that the message router holds for a context are tried again, in their order (R323). -/
def retryHeld (s : State) (ctx : CtxId) : State :=
  match ctxAt? s ctx with
  | none => s
  | some c => c.routerHeld.foldl arriveTask (modCtx s ctx (fun c => { c with routerHeld := [] }))

/-- Every message that the message router holds is tried again (R235, R323). -/
def retryRouter (s : State) : State :=
  (s.ctxs.filter (fun e => !e.2.routerHeld.isEmpty)).foldl (fun s e => retryHeld s (BitVec.ofNat 12 e.1)) s

/-- A message reaches its receiver: the message router, which sends it to its peer in a packet; a window's reply ring; a fork
counter's home; a near-memory operation unit, or the source of its operation; or a context. Pleach messages arrive by steps of their
own. -/
def arrive (s : State) (m : Message) : State :=
  match m.peer with
  | some p => sendPacket s p 0x01 m.vnet (packetBody m) (.message m)
  | none =>
    match m.kind with
    | .forkDone _ off => forkDecrement s off
    | .slotgive .. => s
    | .arrive .. => s
    | .ropReq j => unitTakes s j
    | .ropRes j r => ropAnswer s j r
    | .task =>
      match m.vnet, m.origin.window with
      | .reply, some fn =>
        acked (if kindOf m.id = kReply then
            hostReply s fn false (replyEntry m.id (tagOf s fn m.id) 0 m.a0 m.a1 m.payload)
          else sendDone s fn m.id m.a0 m.a1 m.payload) m
      | _, _ => arriveTask s m

/-- A message arrives for a mailbox or an overflow mailbox, or is refused (R235). -/
def execMessageArrival (n : Nat) (s : State) : Out State :=
  match meshAt? s n with
  | none => .next s
  | some m =>
    match m.kind, m.peer with
    | .slotgive .., none => .next s
    | .arrive .., none => .next s
    | .ropRes _ (.stop pa), _ => (paStop? pa).getD (.next (takeMesh s n))
    | _, _ => .next (arrive (takeMesh s n) m)

/-- A newly resident core's mailbox takes the oldest of its messages from the overflow ring (R324). -/
def execOverflowRefill (core : CoreId) (ctx : CtxId) (s : State) : Out State :=
  match ctxAt? s ctx with
  | none => .next s
  | some c =>
    match c.ovf.find? (fun x => x.2.core == core) with
    | none => .next s
    | some x =>
      if resident s core.toNat ctx && (mailbox s core.toNat ctx).length < mailLimit s core.toNat x.2 then
        .next (mailPut (modCtx s ctx (fun c => { c with ovf := c.ovf.erase x })) core.toNat ctx (.message x.2))
      else .next s

/-! ## Admission (R11, R13, R35, R326) -/

/-- The bank of a core that issues (R321). -/
def issuingBank (s : State) (core : Nat) : Nat :=
  let c := clusterAt s (core / 8)
  if c.resident then c.bank else 0

/-- The context that the issuing bank of a core serves (R31, R322). -/
def servedCtx? (s : State) (core : Nat) : Option CtxId :=
  let c := clusterAt s (core / 8)
  if issuingBank s core = 1 then c.upper else c.lower

/-- The lowest-numbered free task slot of a bank. -/
def freeTask? (s : State) (core bank : Nat) : Option Nat :=
  (List.range 16).find? (fun i => (AMap.get? s.tasks (gkey core bank i)).isNone)

/-- The free group slots of a bank, ascending. -/
def freeGroups (s : State) (core bank : Nat) : List Nat :=
  (List.range 16).filter (fun i => (AMap.get? s.groups (gkey core bank i)).isNone)

/-- The lowest run of free 16 KiB units of the core window, in the bank's half in RESIDENT mode (R326). -/
def freeRun? (s : State) (core bank units : Nat) : Option Nat :=
  let res := (clusterAt s (core / 8)).resident
  let first := if res then bank * 16 else 0
  let size := if res then 16 else 32
  let used := s.tasks.filter (fun e => e.1 / 32 == core)
  if size < units then none
  else
    ((List.range (size - units + 1)).map (fun i => first + i)).find? (fun b =>
      used.all (fun e => units == 0 || !meets e.2.winBase e.2.winUnits b units))

/-- Where a task would go: its task slot, group slots and window unit. -/
structure Fit where
  task : Nat
  groups : List Nat
  win : Nat
  deriving DecidableEq, Repr

/-- The places that a core has for a task, if it has all at once (R11, R326). -/
def fits? (s : State) (core bank groups units : Nat) : Option Fit :=
  match freeTask? s core bank, freeRun? s core bank units with
  | some t, some w =>
    let g := freeGroups s core bank
    if groups ≤ g.length then some ⟨gkey core bank t, (g.take groups).map (gkey core bank), w⟩ else none
  | _, _ => none

/-- A task identifier of a live task of the context. -/
def taskIdUsed (s : State) (ctx : CtxId) (id : Word) : Bool :=
  s.tasks.any (fun e => e.2.ctx == ctx && e.2.taskId == id) ||
  ((ctxAt? s ctx).map (fun c => c.coppiced.any (fun e => e.2.task.taskId == id))).getD false

/-- The TASKID that the part chooses: not zero, and not that of a live task of the context (R13). -/
def chooseTaskId (s : State) (ctx : CtxId) : State × Word :=
  let v := Config.freeTaskId s.draws
  let ok := fun (w : Word) => w != 0 && !taskIdUsed s ctx w
  ({ s with draws := s.draws + 1 },
    if ok v then v
    else ((List.range 40000).map (fun n => BitVec.ofNat 32 (n + 1))).find? ok |>.getD v)

/-- How a task starts (R35). -/
structure Start where
  ctx : CtxId
  supv : Bool
  work : Work
  groups : Nat
  units : Nat
  domain : BitVec 2
  msgId : Word
  pc : VAddr
  priv : BitVec 2
  g : List DWord
  trap : Option TrapRec
  deriving DecidableEq, Repr

/-- The start of the strands of a group: s1 the strand index, s2 the group index, every other register zero (R9, R35). -/
def startStrand (st : Start) (s : State) (g gi lane : Nat) : State :=
  let k := g * 32 + lane
  let s1 := setS (setS s k 1 (BitVec.ofNat 32 (gi * 32 + lane))) k 2 (BitVec.ofNat 32 gi)
  { s1 with strands := AMap.put s1.strands k { Strand.init with pc := st.pc, priv := st.priv, wait := .run } }

/-- The lanes of a forked group: those of the image run with its registers, the others have exited (R121). -/
def startLane (f : ForkImage) (s : State) (g lane : Nat) : State :=
  let k := g * 32 + lane
  match f.lanes.find? (fun l => l.1 == lane) with
  | none => { s with strands := AMap.put s.strands k Strand.init }
  | some (_, r) =>
    let s1 := setRegs s k 0 r.s
    { s1 with
      rf := { s1.rf with p := Sparse.write s1.rf.p k r.p }
      strands := AMap.put s1.strands k { Strand.init with pc := f.pc, priv := r.priv, ff := r.ff, wait := .run } }

/-- The uniform registers of a group, from g1 on. -/
def startG (s : State) (g : Nat) (vs : List DWord) : State :=
  ((List.range vs.length).zip vs).foldl (fun s e => setG s g (BitVec.ofNat 5 (e.1 + 1)) e.2) s

/-- The start of one group. -/
def startGroup (st : Start) (tk : Nat) (s : State) (g gi : Nat) : State :=
  let s1 := { clearGroupRegs s g with groups := AMap.put s.groups g ⟨tk, gi, 0, none, none, none⟩ }
  match st.work with
  | .fork f =>
    let s2 := startG s1 g (f.g.drop 1)
    let s3 := ((List.range 8).zip f.h).foldl (fun s e => setH s g (BitVec.ofNat 3 e.1) e.2) s2
    (List.range 32).foldl (fun s l => startLane f s g l) s3
  | _ => (List.range 32).foldl (fun s l => startStrand st s g gi l) (startG s1 g st.g)

/-- Admits a task: it takes its slots and its window run, which reads zero, acquires, and starts (R32, R234, R326). -/
def admitTask (s : State) (core fromCore : Nat) (f : Fit) (st : Start) : State :=
  let p := chooseTaskId s st.ctx
  let c : Option Ctx := ctxAt? s st.ctx
  let t : Task :=
    { uid := s.uid, taskId := p.2, ctx := st.ctx, supv := st.supv, work := st.work, fromCore := fromCore,
      groups := f.groups, winBase := f.win, winUnits := st.units, domain := st.domain, msgId := st.msgId, spinCount := 0,
      trap := st.trap, held := [], refused := false, discardWork := false, budget := (c.map (fun x : Ctx => x.budget)).getD 0,
      budgetLeft := ((c.map (fun x : Ctx => x.budget)).getD 0).toNat, budgetTrap := ((c.map (fun x : Ctx => x.budgetCfg.getLsbD 0)).getD false),
      budgetOn := false, expired := false, bars := [], saving := false, stopping := false }
  let a := core * 2 ^ 19 + f.win * 16384
  let s1 := { p.1 with
    uid := s.uid + 1, tasks := AMap.put p.1.tasks f.task t
    corewin := AMap.clear p.1.corewin a (a + st.units * 16384)
    tags := AMap.clear p.1.tags (tagKey f.task 0) (tagKey f.task 4096) }
  acquire (((List.range f.groups.length).zip f.groups).foldl (fun s e => startGroup st f.task s e.2 e.1) s1) core

/-! ## The work that a core can start (R122, R322) -/

/-- A context admits no new task on a cluster: a pre-emption of it is pending there (R330). -/
def preempted (s : State) (cluster : Nat) (ctx : CtxId) : Bool := (clusterAt s cluster).preempt.contains ctx

/-- The binding that a message or a launched task starts with: its slot's, or the supervisor's for the supervisor handler
and for the PC form (R233, R241). -/
def bindingFor? (s : State) (ctx : CtxId) (w : Work) : Option Binding :=
  match ctxAt? s ctx with
  | none => none
  | some c =>
    match w with
    | .message m => AMap.get? c.binds (if m.supv || m.pcForm then 64 else m.slot.toNat)
    | .launch i => AMap.get? c.binds i.slot.toNat
    | .pleach _ _ slot _ _ _ => AMap.get? c.binds slot.toNat
    | _ => none

/-- How a piece of work starts with its binding (R35, R233). A fork of a supervisor task is no supervisor task: the spec does not
say (DESIGN CHOICE: log 85). -/
def startOf (ctx : CtxId) (w : Work) (b : Binding) : Start :=
  let base : Start :=
    { ctx := ctx, supv := false, work := w, groups := 2 ^ b.glog, units := b.window, domain := b.domain, msgId := 0,
      pc := b.entry, priv := 0, g := [], trap := none }
  match w with
  | .message m =>
    let g := [m.a0, m.a1, m.id.setWidth 64, 0]
    if m.supv then { base with supv := true, msgId := m.id, priv := 1, g := g, trap := m.trap }
    else if m.pcForm then
      { base with msgId := m.id, pc := (m.payload.headD 0).setWidth 52, priv := if m.dw.getLsbD 51 then 0 else 1, g := g }
    else { base with msgId := m.id, g := g }
  | .launch i => { base with msgId := i.id, g := [i.arg0, i.arg1, i.id.setWidth 64, i.index] }
  | .pleach e _ _ mb st id => { base with msgId := id, g := [mb.setWidth 64, st.setWidth 64, id.setWidth 64, e.setWidth 64] }
  | .fork f =>
    { base with msgId := f.id, pc := f.pc, groups := 1, units := 0, domain := f.domain }
  | .service _ w0 w1 seq => { base with msgId := seq, priv := 2, g := [w0, w1, seq.setWidth 64, 0] }

/-- The start of a forked task, which has no binding (R121). -/
def forkStart (f : ForkImage) : Start := startOf f.ctx (.fork f) ⟨f.pc, 0, 0, f.domain⟩

/-- The message or launched task that a mailbox offers next: the oldest for the supervisor handler, else the oldest
whose binding exists; work held for a trap's supervisor is passed over (R322, R41). -/
def nextMail? (s : State) (core : Nat) (ctx : CtxId) : Option Held :=
  let l := (mailbox s core ctx).filter (fun h => h.heldFor.isNone && (bindingFor? s ctx h.work).isSome)
  match l.find? (fun h => h.work.forSlot 64) with
  | some h => some h
  | none => l.head?

/-- A core's deque of a context, oldest first. -/
def dequeOf (s : State) (core : Nat) (ctx : CtxId) : List Held := AMap.getD (coreAt s core).deque ctx.toNat []

/-- The newest entry of a deque that may start (R122, R124). -/
def nextFork? (s : State) (core : Nat) (ctx : CtxId) : Option Held :=
  (dequeOf s core ctx).reverse.find? (fun h => h.heldFor.isNone)

/-- The context that a core can admit work of: its issuing bank's, with no re-admission waiting in the cluster and no
pre-emption pending (R322, R327, R330). -/
def admitting? (s : State) (core : Nat) : Option CtxId :=
  match servedCtx? s core with
  | none => none
  | some ctx =>
    if (clusterAt s (core / 8)).readmit.isEmpty && !preempted s (core / 8) ctx then some ctx else none

/-- Takes an entry out of a queue. -/
def dropHeld (l : List Held) (h : Held) : List Held := l.erase h

/-- The context in which the service processor's tasks act: which one the spec does not say, but it is not context 0, of which no
task runs (R14; DESIGN CHOICE: log 48). -/
def serviceCtx : CtxId := if Config.serviceCtx = 0 then 1 else Config.serviceCtx

/-- The thread of a queue of the service processor wakes on the first notify write that it has not taken: its task starts, at a PC
that is the firmware's (R35, R254; DESIGN CHOICE: log 48). -/
def startService (s : State) (q : Nat) : State :=
  let tk := gkey 256 0 (q % 16)
  match AMap.getD s.service.queues q [] with
  | [] => s
  | (w0, w1, seq) :: rest =>
    if (AMap.get? s.tasks tk).isSome then s
    else
      let s1 := { s with service := { s.service with queues := AMap.put s.service.queues q rest } }
      admitTask s1 256 256 ⟨tk, [tk], 0⟩ (startOf serviceCtx (.service q w0 w1 seq) ⟨Config.servicePc q, 0, 0, 0⟩)

/-- The threads of the service processor that sleep take the notify writes that wait for them. -/
def startServices (s : State) : State := (s.service.queues.map (·.1)).foldl startService s

/-- A notify write to a queue of the service processor. Its sequence number stands under KIND SYSTEM in the identifier that
its task starts with (R35, R231; DESIGN CHOICE: log 48). -/
def notifyWrite (s : State) (q : Nat) (w0 w1 : DWord) : State :=
  let n := s.service.seq + 1
  let id := withKind n kSystem
  { s with service :=
      { queues := AMap.put s.service.queues q (AMap.getD s.service.queues q [] ++ [(w0, w1, id)]), seq := n } }

/-- A core takes the newest entry of its own deque (R122, R326). -/
def execTaskAdmission (core : CoreId) (s : State) : Out State :=
  let c := core.toNat
  match admitting? s c with
  | none => .next s
  | some ctx =>
    match nextFork? s c ctx with
    | none => .next s
    | some h =>
      match h.work, fits? s c (issuingBank s c) 1 0 with
      | .fork f, some p =>
        let s1 := modCore s c (fun x => { x with deque := AMap.modify x.deque ctx.toNat (fun l => dropHeld l h) })
        .next (admitTask s1 c c p (forkStart f))
      | _, _ => .next s

/-- A core whose deque offers nothing takes the next message of its mailbox, if its task fits (R122, R322). -/
def execMailboxDequeue (core : CoreId) (s : State) : Out State :=
  let c := core.toNat
  match admitting? s c with
  | none => .next s
  | some ctx =>
    if (nextFork? s c ctx).isSome then .next s
    else
      match nextMail? s c ctx with
      | none => .next s
      | some h =>
        match bindingFor? s ctx h.work with
        | none => .next s
        | some b =>
          match fits? s c (issuingBank s c) (2 ^ b.glog) b.window with
          | none => .next s
          | some p =>
            let s1 := modCore s c (fun x => { x with mbox := AMap.modify x.mbox ctx.toNat (fun l => dropHeld l h) })
            .next (admitTask s1 c c p (startOf ctx h.work b))

/-- A stealing domain takes in another core (R119). -/
def inDomain (d : BitVec 2) (thief victim : Nat) : Bool :=
  match d.toNat with
  | 0 => false
  | 1 => thief / 8 == victim / 8
  | 2 => thief / 128 == victim / 128
  | _ => true

/-- The oldest entry of a victim's deque that a core may steal (R122, R124). -/
def stealable? (s : State) (thief victim : Nat) (ctx : CtxId) : Option (Held × ForkImage) :=
  if thief = victim then none
  else
    (dequeOf s victim ctx).findSome? (fun h =>
      match h.work with
      | .fork f => if h.heldFor.isNone && inDomain f.domain thief victim then some (h, f) else none
      | _ => none)

/-- An idle core steals the oldest entry of another core's deque (R122, R328). -/
def execWorkSteal (core : CoreId) (s : State) : Out State :=
  let c := core.toNat
  match admitting? s c with
  | none => .next s
  | some ctx =>
    if (nextFork? s c ctx).isSome ∨ (nextMail? s c ctx).isSome ∨ (clusterShare? s (c / 8) ctx).isNone then .next s
    else
      match fits? s c (issuingBank s c) 1 0 with
      | none => .next s
      | some p =>
        let vs := (coresOf s ctx).filter (fun v => (stealable? s c v ctx).isSome)
        match choosePlace s.determActive (weightOf s) false vs (coreAt s c).stealPlace with
        | none => .next s
        | some (v, pl) =>
          match stealable? s c v ctx with
          | none => .next s
          | some (h, f) =>
            let s1 := modCore s c (fun x => { x with stealPlace := pl })
            let s2 := modCore s1 v (fun x => { x with deque := AMap.modify x.deque ctx.toNat (fun l => dropHeld l h) })
            .next (admitTask s2 c v p (forkStart f))

/-- The first launch of a queue with a mailbox that has room: the launches before it, it, and those after it. -/
def placeable? (s : State) :
    List (Nat × List LaunchItem × Word) → List (Nat × List LaunchItem × Word) →
      Option (List (Nat × List LaunchItem × Word) × (Nat × List LaunchItem × Word) × List (Nat × List LaunchItem × Word))
  | _, [] => none
  | before, e :: r =>
    match e.2.1 with
    | [] => placeable? s before r
    | i :: _ => if launchRoom s i.ctx e.2.2 then some (before, e, r) else placeable? s (before ++ [e]) r

/-- Places a waiting task of the launch queue once a mailbox has room; with none to place, launches whose release waits for PEER
copies go on once those have completed (R244). -/
def execLaunchPlacement (cluster : ClusterId) (s : State) : Out State :=
  match placeable? s [] (clusterAt s cluster.toNat).launchQ with
  | some (before, (id, i :: is, cset), rest) =>
    let q := if is.isEmpty then before ++ rest else before ++ (id, is, cset) :: rest
    .next (placeItem cset i 2048 (modCluster s cluster.toNat (fun c => { c with launchQ := q })))
  | _ => .next (launchesGo s)

/-! ## The end of a task (R36, R38, R41, R123, R233, R244) -/

/-- Copies, records or ROPs of a task are outstanding; a copy that stands in a halted queue is not waited for (R36, R215). -/
def unitsBusy (s : State) (t : Task) : Bool :=
  s.queues.any (fun q => q.2.halted.isNone && q.2.copies.any (fun c => c.tok.uid == t.uid)) ||
  s.posts.any (fun p => p.2.any (fun r => r.tok.uid == t.uid)) ||
  s.engines.any (fun e =>
    (e.2.runs.map (·.record) ++ e.2.pending.toList).any (fun r => r.tok.uid == t.uid)) ||
  ropsOut s (strandsOfTask t)

/-- Operations or side-log entries of a task are outstanding (R36). -/
def taskBusy (s : State) (t : Task) : Bool :=
  unitsBusy s t || s.cores.any (fun c => c.2.sidelog.any (fun e => e.uid == t.uid))

/-- A halted queue without the copies of a task that ends; when the halt was that task's it moves to the next copy, and ends
when there is none (R215), or when that copy's task is no more, so that neither a TSET nor its end can free it (DEDUCED: log 28). -/
def CopyQueue.dropTask (lives : TokRef → Bool) (uid : Nat) (q : CopyQueue) : CopyQueue :=
  match q.halted with
  | none => q
  | some r =>
    let cs := q.copies.filter (fun c => c.tok.uid != uid)
    { copies := cs, halted := if r.uid = uid then (cs.head?.map (·.tok)).filter lives else some r }

/-- A task's copies in halted queues are discarded as it ends (R215). -/
def dropHalted (s : State) (uid : Nat) : State :=
  { s with queues := s.queues.map (fun e => (e.1, e.2.dropTask (fun r => r.uid != uid && tokLives s r) uid)) }

/-- Every strand of a task has exited. -/
def allExited (s : State) (t : Task) : Bool := (strandsOfTask t).all (fun k => (strandAt s k).wait == .exited)

/-- Held messages enter the send queues in issue order while there is room (R233). -/
def flushHeld (core : Nat) : List Message → State → State × List Message
  | [], s => (s, [])
  | m :: r, s =>
    if condHolds s (.sendRoom core m.vnet 0) then flushHeld core r (enqueueSend s core m) else (s, m :: r)

/-- What the end of a task's work does. -/
def endWork (s : State) (core : Nat) (t : Task) : State :=
  match t.work with
  | .message m => if t.supv && kindOf m.id == kTrap then settleTrap s m.serial t.discardWork else s
  | .launch i => launchTaskEnded s i.launch core
  | .fork f => forkEnded (publish s core) f core
  | .pleach .. => s
  | .service .. => s

/-- The automatic send of a table task: the shape, source and destination that its group 0 leaves (R350). -/
def tableEnd (s : State) (core : Nat) (t : Task) : State :=
  match t.work with
  | .pleach e .. =>
    let bits := (AMap.getD s.pl.entries e.toNat PlEntry.init).bits
    let g := t.groups.headD 0
    modEntry (publish s core) e.toNat (fun x => { x with
      issued := some (.ended (getH s g (bits.extractLsb' 47 3)) (getG s g 30) (getG s g 31) core) })
  | _ => s

/-- A task whose strands have all exited and whose operations have completed ends: its held messages are sent, then the
end actions of its work are made and its slots are freed (R36). -/
def execTaskEnd (task : Nat) (s : State) : Out State :=
  match AMap.get? s.tasks task with
  | none => .next s
  | some t =>
    if !allExited s t || taskBusy s t then .next s
    else
      let core := task / 32
      let f := flushHeld core t.held s
      if !f.2.isEmpty then .next (modTask f.1 task (fun x => { x with held := f.2 }))
      else
        let s1 := tableEnd (reportTaskFaults (dropHalted f.1 t.uid) task t) core t
        let s2 := leaveBars (removeTask s1 task t) (clusterOfCore core) t.uid
        .next (endWork s2 core t)

/-! ## Sending (R233, R325) -/

/-- The send queues in the order of the rotation, with a number each (R325). -/
def sendOrder (turn : Nat) : List (Nat × VNet) :=
  let l := [(0, VNet.reply), (1, .sys), (2, .req), (3, .bulk)]
  l.drop (turn % 4) ++ l.take (turn % 4)

/-- Removes the first message of a send queue. -/
def popSend (c : Core) : VNet → Core
  | .req => { c with sendReq := c.sendReq.tail }
  | .reply => { c with sendReply := c.sendReply.tail }
  | .sys => { c with sendSys := c.sendSys.tail }
  | .bulk => { c with sendBulk := c.sendBulk.tail }

/-- A strand that waits for a queue of a core no longer finds it full: its time starts again. -/
def restartWait (core : Nat) (v : VNet) (now : Nat) (t : Strand) : Strand :=
  match t.wait with
  | .cond (.sendRoom c w dw) _ => if c = core ∧ w = v then { t with wait := .cond (.sendRoom c w dw) now } else t
  | _ => t

/-- A core offers one whole message, taking its queues in rotation; it is injected when the first router's input has room for
every flit of it, be it for this part or on its way to a peer (R325, R374). -/
def execSendQueueInject (core : CoreId) (s : State) : Out State :=
  let c := core.toNat
  match (sendOrder (coreAt s c).sendTurn).find? (fun e => !(sendQ (coreAt s c) e.2).isEmpty) with
  | none => .next s
  | some (i, v) =>
    match sendQ (coreAt s c) v with
    | [] => .next s
    | m :: _ =>
      let m := (m.local s.fab.self).entered
      if !hasRoom s.mesh m then .next (modCore s c (fun x => { x with sendTurn := (i + 1) % 4 }))
      else
        let s1 := modCore s c (fun x => { popSend x v with sendTurn := (i + 1) % 4 })
        let s2 := { s1 with strands := s1.strands.map (fun e => (e.1, restartWait c v s.now e.2)) }
        .next (inject s2 m)

/-- A blocking SEND or REPLY of a message-started task whose queue has stayed full for 4,096 cycles raises SENDQ (R233,
R237). -/
def execSendqTimeout (group : Nat) (s : State) : Out State :=
  match taskOfGroup? s group with
  | none => .next s
  | some (tk, t) =>
    let hit := (strandsOfGroup group).findSome? (fun k =>
      match (strandAt s k).wait with
      | .cond (.sendRoom c v dw) since =>
        if since + 4096 ≤ s.now && !condHolds s (.sendRoom c v dw) then some (k, dw) else none
      | _ => none)
    match startMessage? t, hit with
    | some _, some (k, dw) => .next (takeTrap s tk cSENDQ dw (strandAt s k).pc (strandIx s k))
    | _, _ => .next s

/-- A message held for an unbound slot for more than 2^20 cycles makes the part tell the supervisor (R242): on the core whose
mailbox holds it (the spec names no core; DESIGN CHOICE: log 21). -/
def execUnbound (core : CoreId) (ctx : CtxId) (slot : BitVec 6) (s : State) : Out State :=
  let c := core.toNat
  let held := (mailbox s c ctx).filter (fun h => h.work.forSlot slot.toNat)
  let last := AMap.get? (coreAt s c).unbound (ctx.toNat * 64 + slot.toNat)
  if !bound s ctx slot.toNat && held.any (fun h => decide (h.since + 2 ^ 20 < s.now)) &&
      ((last.map (fun n => decide (n + 2 ^ 20 < s.now))).getD true) then
    let p := newId s c kUnbound
    let s1 := modCore p.1 c (fun x => { x with unbound := AMap.put x.unbound (ctx.toNat * 64 + slot.toNat) s.now })
    .next (inject s1 (supvMessage c ctx p.2 (slot.setWidth 64) (BitVec.ofNat 64 held.length) none 0))
  else .next s

/-- A strand parked on a monitor wakes 65,536 cycles after its park, and its core acquires (R127, R131, R269). -/
def execMonitorTimeout (strand : Nat) (s : State) : Out State :=
  .next (if (overdue s).contains strand then wakeByTime s strand else s)

/-! ## Page requests (R305 to R307) -/

def reasonCode : Reason → Nat
  | .unmapped => 1
  | .unbacked => 2
  | .noframe => 3
  | .badframe => 4

def accessCode : Access → Nat
  | .none => 0
  | .read => 1
  | .write => 2
  | .atomic => 3
  | .fetch => 4
  | .copy => 5
  | .drain => 6
  | .privet => 7

/-- Word g2 of a page request (R306). -/
def pageWord (s : State) (vf : Option Nat) (r : PageReq) : DWord :=
  let w := min 0xFFFF (waiters s r.ctx ⟨r.unit, r.reason, r.dest, vf, r.peer, true⟩)
  BitVec.ofNat 64 (w + accessCode r.access * 2 ^ 24 + reasonCode r.reason * 2 ^ 28 + r.ctx.toNat * 2 ^ 32 +
    (match r.peer with | none => 0 | some p => 2 ^ 53 + p.toNat * 2 ^ 54))

/-- The PAGEREQ message of a page request: for the first core of the supervisor's context, core 0 while it is on none (R305; the
core is the model's choice, DESIGN CHOICE: log 21). -/
def pageMessage (s : State) (r : PageReq) : Message :=
  { supvMessage ((coresOf s r.dest).headD 0) r.dest (dieId kPagereq 64 s.prqIds) (BitVec.ofNat 64 r.unit) (pageWord s none r)
      none 0 with
    origin := ⟨none, 0, r.ctx, none⟩, agent := .mappingEngine }

/-- A message of the part is on its way to a core of a context, or waits for a place there. -/
def partComing (s : State) (m : Message) : Bool :=
  s.mesh.any (fun x => ofPart x && x.core == m.core && x.ctx == m.ctx) || behindHeld s m

/-- Whether a page request would find a place in its supervisor's mailbox, or in the overflow mailbox. -/
def pagePlace (s : State) (d : Ctx) (m : Message) : Bool := if overflows s m then overflowRoom d else mailRoom s m

/-- Sends the first page request of a context's queue, as any message of the part. While neither mailbox has a place, or while
another message of the part is on its way there, it stays at the head of the queue (R235, R305, R323, R324). -/
def deliverPage (s : State) (queue : CtxId) : State :=
  match ctxAt? s queue with
  | none => s
  | some c =>
    match c.pageQ with
    | [] => s
    | r :: rest =>
      let m := pageMessage s r
      match ctxAt? s r.dest with
      | none => s
      | some d =>
        if s.now < c.pageQNot || partComing s m || !pagePlace s d m then s
        else inject (modCtx { s with prqIds := s.prqIds + 1 } queue (fun c => { c with pageQ := rest })) m

/-- A queued page request is delivered: to a supervisor, or for a stage-2 miss to the ring of its virtual function (R305,
R307, R400). -/
def execPagereq (vf : Bool) (queue : CtxId) (s : State) : Out State :=
  if vf then
    let fn : BitVec 6 := queue.setWidth 6
    match (windowAt s fn).pageQ with
    | [] => .next s
    | r :: rest =>
      match writePrq? s fn (BitVec.ofNat 64 r.unit) (pageWord s (vfPart? s r.ctx) r) with
      | some s1 => .next (modWindow s1 fn (fun w => { w with pageQ := rest }))
      | none => .next s
  else .next (deliverPage s queue)

/-! ## Banks, slices, budgets and pre-emption (R28, R321, R329 to R331) -/

/-- All cores of a cluster switch the issuing bank (R321) (DEDUCED: log 67). -/
def execResidentSwitch (cluster : ClusterId) (s : State) : Out State :=
  if (clusterAt s cluster.toNat).resident then
    .next (modCluster s cluster.toNat (fun c => { c with bank := if c.bank = 0 then 1 else 0 }))
  else .next s

/-- A changed DETERM.EN takes effect once no task runs and no message is in the mesh; the choices of every quarter start
from its lowest slot (R28, R107). -/
def execDetermSwitch (s : State) : Out State :=
  if s.determEn != s.determActive && s.tasks.isEmpty && s.mesh.isEmpty then
    .next { s with determActive := s.determEn, cores := s.cores.map (fun c => (c.1, { c.2 with lastSlot := [] })) }
  else .next s

/-- The save of a task begins: it stops issuing, and its strands leave the queues of lock bits (R332, R312). -/
def startSaving (s : State) (tk : Nat) : State :=
  match AMap.get? s.tasks tk with
  | none => s
  | some t =>
    let ks := (strandsOfTask t).filter (fun k => match (strandAt s k).wait with | .lock .. => true | _ => false)
    let s1 := leaveLocks s ks
    modTask (modStrands s1 ks (fun x => { x with wait := .run })) tk (fun x => { x with saving := true })

/-- Tasks of a context on the cores. -/
def tasksOf (s : State) (ctx : CtxId) : List (Nat × Task) := s.tasks.filter (fun e => e.2.ctx == ctx)

/-- VTIME freezes once the last task of a context that is to be saved has stopped issuing (R339). -/
def freezeVt (s : State) (ctx : CtxId) : State :=
  let ts := tasksOf s ctx
  if ts.all (fun e => e.2.saving && (strandsOfTask e.2).all (fun k => (strandAt s k).locks.isEmpty)) then
    modCtx s ctx (fun c => { c with vtFrozen := c.vtFrozen || c.clusters.all (fun x => preempted s x.toNat ctx) })
  else s

/-- A pre-emption request over some clusters of a context: its tasks there that have run past their budget are saved at once
(R329, R330) (DEDUCED: log 47). -/
def requestPreempt (s : State) (ctx : CtxId) (mask : BitVec 32) (plan : SavePlan) : State :=
  match ctxAt? s ctx with
  | none => s
  | some c =>
    let cs := c.clusters.filter (fun x => mask.getLsbD x.toNat)
    if cs.isEmpty then s
    else
      let s1 := modCtx s ctx (fun c => { c with plan := some (c.plan.getD plan) })
      let s2 := cs.foldl (fun s x => modCluster s x.toNat (fun k =>
        if k.preempt.contains ctx then k else { k with preempt := k.preempt ++ [ctx] })) s1
      let late := (tasksOf s2 ctx).filter (fun e => e.2.expired && preempted s2 (clusterOfCore (e.1 / 32)) ctx)
      if late.isEmpty then s2 else freezeVt (late.foldl (fun s e => startSaving s e.1) s2) ctx

/-- A pre-emption request from firmware (R330). -/
def execPreemptionRequest (ctx : CtxId) (clusters : BitVec 32) (s : State) : Out State :=
  .next (requestPreempt s ctx clusters ⟨1, false, .nobody⟩)

/-- Firmware reads a partition's control block at the coherence point: the rotation and its count, and a slice record for each
context of its range (R402). -/
def readControl (s : State) (part : Nat) : State :=
  { s with parts := AMap.modify s.parts part (fun p => { p with block := memBytes s p.cbBase (0x100 + 8 * p.ctxCount) }) }

/-- The slice record of a context, as firmware has read it last (R331, R402). -/
def sliceRecord (s : State) (c : Ctx) (ctx : CtxId) : DWord :=
  match AMap.get? s.parts c.part with
  | none => 0
  | some p => BitVec.ofNat 64 (natOfBytes ((p.block.drop (0x100 + 8 * (ctx.toNat - p.ctxFirst))).take 8))

/-- Energy units of 1 mJ that a context has used in its slice: its activity, weighted (R331; DESIGN CHOICE: log 100). -/
def energyOf (s : State) (c : Ctx) (ctx : CtxId) : Nat :=
  let hbm := (s.cores.map (fun e => AMap.getD e.2.traffic ctx.toNat 0)).sum
  ((c.activity.map (fun e => e.2 * Config.energyWeight e.1)).sum + hbm * Config.energyWeight 80) / 1000000000

/-- A quantum of the slice is used up: 800 cycles are a microsecond (R331, R337). -/
def sliceUsed (s : State) (c : Ctx) (ctx : CtxId) : Bool :=
  let r := sliceRecord s c ctx
  let time := (r.extractLsb' 0 32).toNat
  let energy := (r.extractLsb' 32 32).toNat
  (time != 0 && decide (time * 800 ≤ c.sliceCycles)) ||
  (energy != 0 && !s.determActive && decide (energy ≤ energyOf s c ctx))

/-- A cluster in RESIDENT mode switches from a context's bank to the other resident's, if there is one (R321). -/
def switchBank (ctx : CtxId) (k : Cluster) : Cluster :=
  if k.bank = 0 ∧ k.lower = some ctx ∧ k.upper.isSome then { k with bank := 1 }
  else if k.bank = 1 ∧ k.upper = some ctx ∧ k.lower.isSome then { k with bank := 0 }
  else k

/-- A context's slice starts afresh. -/
def freshSlice (s : State) (ctx : CtxId) : State :=
  let s1 := { s with cores := s.cores.map (fun e => (e.1, { e.2 with traffic := AMap.erase e.2.traffic ctx.toNat })) }
  modCtx s1 ctx (fun c => { c with sliceCycles := 0, activity := [] })

/-- The residents that share clusters with a context. -/
def sharers (s : State) (c : Ctx) : List CtxId :=
  c.clusters.flatMap (fun x => [(clusterAt s x.toNat).lower, (clusterAt s x.toNat).upper].filterMap id)

/-- The end of a context's slice: firmware reads the control block, and a pre-emption over all its clusters, or in RESIDENT mode a switch of their banks, with which
the slice of the resident that now issues begins (R331). -/
def endSlice (s0 : State) (ctx : CtxId) (c : Ctx) : State :=
  let s := readControl s0 c.part
  if residentPart s ctx then
    c.clusters.foldl (fun s x => modCluster s x.toNat (switchBank ctx)) ((ctx :: sharers s c).foldl freshSlice s)
  else requestPreempt (freshSlice s ctx) ctx 0xFFFFFFFF ⟨1, true, .nobody⟩

/-- A slice ends (R331). -/
def execSliceEnd (ctx : CtxId) (s : State) : Out State :=
  match ctxAt? s ctx with
  | none => .next s
  | some c => if c.clusters.isEmpty || !sliceUsed s c ctx then .next s else .next (endSlice s ctx c)

/-- The address of the next instruction that a strand would issue: after one that has issued and waits for its end, be it a
JOIN, a barrier, a reply or a parked access (R329); a parked fetch and an instruction that waits before it acts are still to
issue (DEDUCED: log 86). -/
def upcoming (s : State) (tk : Nat) (t : Task) (k : Nat) : VAddr :=
  let x := strandAt s k
  let fetching := (coreAt s (tk / 32)).parked.any (fun e => e.uid == t.uid && e.strand == strandIx s k && e.kind == .fetch)
  match x.wait with
  | .join _ => x.pc + 4
  | .barrier .. => x.pc + 4
  | .rop => x.pc + 4
  | .reply _ => x.pc + 4
  | .fault => if fetching then x.pc else x.pc + 4
  | _ => x.pc

/-- A task's budget has reached zero: it is to be saved, or it is counted, or it raises BUDGET (R329). -/
def execBudgetExpiry (task : Nat) (s : State) : Out State :=
  match AMap.get? s.tasks task with
  | none => .next s
  | some t =>
    if !t.budgetOn || t.budgetLeft != 0 || t.expired then .next s
    else if preempted s (clusterOfCore (task / 32)) t.ctx then
      .next (freezeVt (startSaving (modTask s task (fun x => { x with expired := true })) task) t.ctx)
    else if t.budgetTrap then
      match (strandsOfTask t).find? (fun k => (strandAt s k).wait != .exited) with
      | some k => .next (takeTrap s task cBUDGET (t.budget.setWidth 64) (upcoming s task t k) (strandIx s k))
      | none => .next s
    else
      .next (modCtx (modTask s task (fun x => { x with expired := true })) t.ctx (fun c => { c with expiries := c.expiries + 1 }))

end Sys2Proof.Machine
end

