-- ==== Sys2Proof/Machine/MapEvents.lean ====
section
/-! DEFINITION. The mapping engine's work in the background: invalidation, shootdown acknowledgements, reclaim and page
migration (R285, R286, R288 to R293, R296 to R298, R315, R319). -/

namespace Sys2Proof.Machine

/-! ## Answers -/

/-- A host post that waited is answered (R398), unless its window has been emptied since (R395). Its identifier stands in the upper half of the word kept for it, its TAG
in the lower. -/
def hostAnswer (s : State) (fn : BitVec 6) (tag : DWord) (status : Nat) (a0 : DWord) : State :=
  if !(windowAt s fn).laters.contains tag then s
  else hostReply (modWindow s fn (fun w => { w with laters := w.laters.erase tag })) fn true (replyEntry (tag.extractLsb' 32 32) (tag.setWidth 32) status a0 0 [])

/-- The reply of a request that waited for the mapping engine. -/
def mapReply (s : State) (who : ReplyTo) (v : DWord) : State :=
  match who with
  | .group g r d => answerGroup s g r d v
  | .host fn tag => hostAnswer s fn tag 0 v
  | .privet n => finishCall s n 0 0 []
  | .nobody => s

/-! ## Sets of nodes and spaces -/

/-- A REVOKED entry: its node, and every other bit 0 (R280). -/
def Leaf.gone (node : Nat) : Leaf := ⟨true, false, false, 0, 0, node, none, 0⟩

/-- A list without repeats. -/
def once (l : List Nat) : List Nat := l.foldl (fun r x => if r.contains x then r else r ++ [x]) []

/-- The spaces in which nodes and their leaves stand. -/
def spacesOf (m : MapEngine) (w : List Nat) : List Nat :=
  once (w.filterMap (fun i => (nodeAt? m i).map (·.space)) ++
    (m.leaf3.filter (fun e => !e.2.revoked && e.2.of w)).map (fun e => e.1 / 2 ^ 33) ++
    (m.leaf2.filter (fun e => !e.2.revoked && e.2.of w)).map (fun e => e.1 / 2 ^ 22))

/-- The nodes of a partition's contexts, for a change of its stage 2: the translations that peers hold of it name them (R282,
R290). -/
def stage2Nodes (s : State) (spaces : List Nat) : List Nat :=
  (s.map.nodes.filter (fun e => spaces.any (fun sp =>
    decide (4096 ≤ sp) && vfPart? s (BitVec.ofNat 12 e.2.space) == some (sp - 4096)))).map (·.1)

/-- The nodes of the leaves that the withdrawal of some nodes rewrites, and those themselves (R290, R292). -/
def nodesReached (s : State) (w spaces : List Nat) : List Nat :=
  once (w ++ (s.map.leaf3.filter (fun e => !e.2.revoked && e.2.of w)).map (·.2.node) ++
    (s.map.leaf2.filter (fun e => !e.2.revoked && e.2.of w)).map (·.2.node) ++ stage2Nodes s spaces)

/-- A context is covered by the filter of a shootdown: its number mod 512 is that of a context of the filter, or the filter
holds the stage-2 space of its partition (R289). -/
def inFilter (s : State) (filter : List Nat) (ctx : CtxId) : Bool :=
  filter.any (fun sp => if sp < 4096 then sp % 512 == ctx.toNat % 512 else vfPart? s ctx == some (sp - 4096))

/-- The 512-bit context filter (R289). -/
def filterBits (s : State) (filter : List Nat) : Nat :=
  (List.range 512).foldl (fun n i =>
    if filter.any (fun sp => decide (sp < 4096) && sp % 512 == i) ||
        s.ctxs.any (fun e => e.1 % 512 == i && inFilter s filter (BitVec.ofNat 12 e.1)) then n + 2 ^ i else n) 0

/-! ## Traps of tasks that are off the cores -/

/-- The core that a task off the cores has run on last. -/
def Coppiced.lastCore (c : Coppiced) : Nat := c.cluster.toNat * 8 + c.core.toNat

/-- The deferred faults of a strand of a task off the cores, in the order in which they arose: its own, and those of its saved
entries that a revocation has discarded (R315, R433). -/
def Coppiced.faults (c : Coppiced) (ix : Nat) (t : Strand) : List Deferred :=
  t.deferred ++ (c.sidelog.filter (fun e => e.discarded && e.strand.toNat == ix)).map (fun e => ⟨cREVOKED, e.ea⟩)

/-- The saved side-log entries of a task that traps off the cores stay and replay, in the side log of the core that it has run
on last; those that find no place there wait for one (R36; DESIGN CHOICE: log 53). -/
def keepSide (s : State) (uid : Nat) (c : Coppiced) : State :=
  let s1 := admitLate (modCore s c.lastCore (fun x => { x with
    sideLate := x.sideLate ++ c.sidelog.filter (fun e => !e.discarded) })) c.lastCore
  (sidePass s1 c.lastCore (fun e => e.uid == uid)).1

/-- A coppiced task ends as trapped, with the frame address as the value (R314, R315). The record names the core that the task
has run on last, and to that core's deque a forked task returns, wherever it was stolen from: the spec names no core for a task
that is on none (DESIGN CHOICE: log 53). -/
def trapAway (s : State) (uid : Nat) (c : Coppiced) (cause : BitVec 8) : State :=
  let t := c.task
  let core := c.lastCore
  let value : DWord := c.frame.setWidth 64
  let r : TrapRec := ⟨false, cause, Config.openPc s.draws, value, Config.openStrand s.draws, t.msgId, t.taskId⟩
  let s1 := c.strands.foldl (fun s e =>
    match c.faults e.1 e.2 with
    | [] => s
    | d :: _ => reportDeferred s core t.ctx d (BitVec.ofNat 9 e.1) t.msgId t.taskId) { s with draws := s.draws + 1 }
  let s2 := modCtx s1 t.ctx (fun x => { x with coppiced := AMap.erase x.coppiced uid })
  let s3 := modCluster s2 c.cluster.toNat (fun x => { x with readmit := x.readmit.filter (fun u => u != uid) })
  let s4 := freeHalts (leaveBars (keepSide s3 uid c) c.cluster.toNat uid) uid
  if t.supv then
    let s5 := errorRecord s4 (.trap t.ctx r)
    match t.work with
    | .message m => supvTrapped s5 core m
    | _ => s5
  else
    let s5 := returnWork { s4 with serial := s4.serial + 1 } core t.fromCore t.ctx t.work s4.serial
    sendTrap s5 core t.ctx r s4.serial

/-! ## What an invalidation does to things in flight -/

/-- A strand has had a wake event for every GLOBAL line (R127). -/
def Strand.globalWake (t : Strand) : Strand :=
  { t with
    woken := true
    spin := { t.spin with ld := t.spin.ld.map (fun d => match d.line with | .global _ => { d with woken := true } | _ => d) } }

/-- A shootdown is a wake event for every GLOBAL line of its contexts: the strands that are parked on one wake, and their cores
acquire (R127, R269). -/
def wakeSpaces (s : State) (filter : List Nat) : State :=
  s.strands.foldl (fun s e =>
    match taskOfGroup? s (e.1 / 32) with
    | none => s
    | some (_, t) =>
      if inFilter s filter t.ctx then
        match e.2.wait with
        | .monitor (.global _) _ =>
          acquire (modStrand s e.1 (fun t => { t.globalWake with wait := .run })) (coreOfStrand e.1)
        | _ => modStrand s e.1 Strand.globalWake
      else s) s

/-- An entry that goes to memory here meets REVOKED now. -/
def revokedHere (s : State) (e : Entry) : Bool :=
  !((e.kind == .ropR || e.kind == .ropSt) && (ropPeer? s e.ea).isSome) &&
  (match walk s e.ctx (e.ea.toNat % 2 ^ 52) e.writes with
   | .revoked => true
   | _ => false)

/-- Saved side-log entries that meet REVOKED are marked. -/
def markSaved (s : State) (c : Coppiced) : Coppiced :=
  { c with sidelog := c.sidelog.map (fun y => if revokedHere s y then { y with discarded := true } else y) }

/-- The pages that the walk of a coppiced task's entries and frame reads. -/
def Coppiced.pages (c : Coppiced) : List Nat :=
  (c.parked ++ c.sidelog).map (fun e => e.ea.toNat % 2 ^ 52) ++
    (if c.saved then [] else [c.frame.toNat, c.frame.toNat + 2 ^ 19])

/-- A byte of a coppiced task's frame lies in a withdrawn page (R315). -/
def frameGone (s : State) (c : Coppiced) : Bool :=
  !c.saved && [c.frame.toNat, c.frame.toNat + 2 ^ 19].any (fun a =>
    match walk s c.task.ctx a false with | .revoked => true | _ => false)

/-- The walk reaches one coppiced task of a context: it ends, or its saved side-log entries that meet REVOKED are marked. -/
def walkTask (ctx : CtxId) (s0 : State) (c : Nat × Coppiced) : State :=
  let s := walkPages s0 ctx c.2.pages
  if frameGone s c.2 then trapAway s c.1 (markSaved s c.2) cREVOKED
  else modCtx s ctx (fun x => { x with coppiced := AMap.modify x.coppiced c.1 (markSaved s) })

/-- An image without a task that has trapped, whose work is at the head of its queue in the image, for a trap's serial (R41). -/
def Image.untask (i : Image) (uid : Nat) (h : Held) (core : Nat) : Image :=
  let cs := i.ctx.clusters
  let k := fun (c : Nat) => (cs.findIdx (fun x => x.toNat == c / 8)) * 8 + c % 8
  let front := fun (l : List (Nat × List Held)) (n : Nat) => AMap.put l n (h :: AMap.getD l n [])
  let back := fun (l : List (Nat × List Held)) (n : Nat) => AMap.put l n (AMap.getD l n [] ++ [h])
  let j := { i with tasks := i.tasks.filter (fun t => t.1 != uid), readmit := i.readmit.filter (fun e => e.2 != uid) }
  match h.work with
  | .message _ => { j with mail := front j.mail (k core) }
  | .launch _ => { j with mail := front j.mail (k core) }
  | .fork _ => { j with deques := back j.deques (k core) }
  | .pleach e .. => { j with pl := j.pl.map (fun p =>
      { p with entries := AMap.modify p.entries e.toNat (fun x => { x with issued := some (.trapped (h.heldFor.getD 0)) }) }) }
  | .service .. => j

/-- A coppiced task of a context that is off the chip ends as trapped when its frame is withdrawn; its work is in the image
(R41, R315; DESIGN CHOICE: log 53). -/
def trapInImage (s : State) (a uid : Nat) (c : Coppiced) : State :=
  let t := c.task
  let r : TrapRec := ⟨false, cREVOKED, Config.openPc s.draws, c.frame.setWidth 64, Config.openStrand s.draws, t.msgId, t.taskId⟩
  let s1 := c.strands.foldl (fun s e =>
    match c.faults e.1 e.2 with
    | [] => s
    | d :: _ => reportDeferred s c.lastCore t.ctx d (BitVec.ofNat 9 e.1) t.msgId t.taskId) { s with draws := s.draws + 1 }
  let s2 := keepSide s1 uid c
  let core := match t.work with | .fork _ => c.lastCore | _ => t.fromCore
  if t.supv then errorRecord { s2 with images := AMap.modify s2.images a (fun i =>
      { i with tasks := i.tasks.filter (fun x => x.1 != uid), readmit := i.readmit.filter (fun e => e.2 != uid) }) } (.trap t.ctx r)
  else
    let s3 := match t.work with
      | .pleach .. => returnWork s2 core core t.ctx t.work s2.serial
      | _ => s2
    sendTrap { s3 with
      serial := s2.serial + 1
      images := AMap.modify s3.images a (fun i => i.untask uid ⟨t.work, s2.now, some s2.serial⟩ core) }
      c.lastCore t.ctx r s2.serial

/-- The walk reaches one coppiced task of an image. -/
def walkImageTask (a : Nat) (ctx : CtxId) (s0 : State) (c : Nat × Coppiced) : State :=
  let s := walkPages s0 ctx c.2.pages
  if frameGone s c.2 then trapInImage s a c.1 (markSaved s c.2)
  else { s with images := AMap.modify s.images a (fun i =>
    { i with tasks := i.tasks.map (fun t => if t.1 = c.1 then (t.1, markSaved s t.2) else t) }) }

/-- Saved side-log entries that meet REVOKED are marked, those in context images too; a task whose frame is withdrawn ends
(R315). -/
def walkCoppiced (s0 : State) (filter : List Nat) : State :=
  let s := (s0.images.filter (fun e => inFilter s0 filter e.2.ctxid)).foldl (fun s e =>
    e.2.tasks.foldl (walkImageTask e.1 e.2.ctxid) s) s0
  (s.ctxs.filter (fun e => inFilter s filter (BitVec.ofNat 12 e.1))).foldl (fun s e =>
    e.2.coppiced.foldl (walkTask (BitVec.ofNat 12 e.1)) s) s

/-- A core's part in a shootdown: its stores of the contexts are published, and side-log entries that meet REVOKED become
deferred faults of their strands (R292). -/
def coreDrain (s : State) (core : Nat) (filter : List Nat) : State :=
  let s1 := publishSome s core (fun b => inFilter s filter b.ctx)
  let all := (coreAt s1 core).sidelog.filter (fun e => inFilter s filter e.ctx)
  let s1 := all.foldl (fun s e => walkPages s e.ctx [e.ea.toNat % 2 ^ 52]) s1
  let gone := all.filter (revokedHere s1)
  let late := (coreAt s1 core).sideLate.filter (fun e => inFilter s filter e.ctx && revokedHere s1 e)
  let s2 := admitLate (modCore s1 core (fun c => { c with
    sidelog := c.sidelog.filter (fun e => !gone.any (fun x => x.key == e.key))
    sideLate := c.sideLate.filter (fun e => !late.contains e) })) core
  (gone ++ late).foldl (fun s e => deferFault s core e ⟨cREVOKED, e.ea⟩) s2

/-- The body of an invalidation to a peer: context filter, node handle, extent (R384; the layout is the model's, DESIGN CHOICE: log 13). -/
def invalBody (s : State) (filter : List Nat) (i : Nat) (n : Node) : List Byte :=
  bytesOf 64 (filterBits s filter) ++ bytesOf 4 (handleOf i n) ++ bytesOf 8 n.va ++ bytesOf 8 n.bytes

/-- Peers that may hold translations of a node: those of the connected group whose bit of REMOTE is set (R290). -/
def remotePeers (s : State) (n : Node) : List (BitVec 10) :=
  if n.remote = 0 then []
  else ((List.range 1024).map (BitVec.ofNat 10)).filter (fun q =>
    n.remote.getLsbD (q.toNat % 64) && q != s.fab.self && connected s q)

/-- The shootdown of an invalidation, and the invalidations that go to peers with it; the walkers drop what they hold of a
partition (R289, R290, R292 step 2). -/
def shoot (s : State) (v : Inval) (nodes filter : List Nat) : State :=
  let ps := nodes.flatMap (fun i => ((nodeAt? s.map i).map (fun n => (remotePeers s n).map (fun q => (q, i)))).getD [])
  let v1 := { v with sent := true, acks := List.range 416, peers := ps, filter := filter }
  let s1 : State := { s with
    map := { s.map with
      invals := (s.map.invals.filter (fun x => !(x.kind == v.kind && x.node == v.node && !x.sent))) ++ [v1] }
    tlbs := filter.foldl (fun m sp => if 4096 ≤ sp then AMap.erase m (walkerCache (sp - 4096)) else m) s.tlbs }
  let s2 := ps.foldl (fun s p =>
    match nodeAt? s.map p.2 with
    | none => s
    | some n => sendPacket s p.1 0x09 .sys (invalBody s filter p.2 n) (.inval p.2)) s1
  walkCoppiced (wakeSpaces s2 filter) filter

/-! ## Leaves that a rewrite touches -/

/-- The key of a leaf of level 3 or level 2 lies in an extent of a space. -/
def inExtent3 (space a n k : Nat) : Bool := k / 2 ^ 33 == space && meets (k % 2 ^ 33 * 2 ^ 19) (2 ^ 19) a n
def inExtent2 (space a n k : Nat) : Bool := k / 2 ^ 22 == space && meets (k % 2 ^ 22 * 2 ^ 30) (2 ^ 30) a n

/-- The 256 MiB pages of a space that an extent takes a part of are rewritten as 512 KiB pages (R296) (DEDUCED: log 51). -/
def splitBigs (m : MapEngine) (space a n : Nat) : MapEngine :=
  let cut := fun (e : Nat × Leaf) =>
    if e.1 / 2 ^ 33 == space && e.2.psize == 1 && partOf (e.1 % 2 ^ 33 / 512 * 2 ^ 28) (2 ^ 28) a n then
      (e.1, e.2.unit (e.1 % 512))
    else e
  { m with leaf3 := m.leaf3.map cut, kept3 := m.kept3.map cut }

/-- The 128 GiB pages of a space that an extent takes a part of are rewritten as 512 KiB pages. -/
def splitHuges (phys : Bool) (m : MapEngine) (space a n : Nat) : MapEngine :=
  (hugeParts m space a n).foldl (fun m e =>
    let m := makeTable phys m (space * 2 ^ 23 + 2 ^ 22 + e.1 % 2 ^ 22)
    { m with
      leaf2 := AMap.erase m.leaf2 e.1
      leaf3 := putLeaves m.leaf3 (space * 2 ^ 33 + e.1 % 2 ^ 22 * 2048)
        ((List.range 2048).map (fun i => e.2.unit (e.1 % 128 * 2048 + i))) }) m

/-- The large pages of a space that an extent takes a part of, which a GRANT of it splits. -/
def partPages (m : MapEngine) (space a n : Nat) : List Split :=
  (m.leaf3.filter (fun e => e.1 / 2 ^ 33 == space && e.2.psize == 1 && !e.2.revoked && e.1 % 512 == 0 &&
      partOf (e.1 % 2 ^ 33 * 2 ^ 19) (2 ^ 28) a n)).map (fun e => ⟨space, e.1 % 2 ^ 33 * 2 ^ 19, e.2⟩) ++
    (m.leaf2.filter (fun e => e.1 / 2 ^ 22 == space && !e.2.revoked && e.1 % 128 == 0 &&
      partOf (e.1 % 2 ^ 22 * 2 ^ 30) (2 ^ 37) a n)).map (fun e => ⟨space, e.1 % 2 ^ 22 * 2 ^ 30, e.2⟩)

/-- Every unit of a split page holds what the split gave it. -/
def Split.whole (m : MapEngine) (x : Split) : Bool :=
  (List.range (pageBytes x.leaf.psize / 2 ^ 19)).all (fun i =>
    AMap.get? m.leaf3 (x.space * 2 ^ 33 + x.base / 2 ^ 19 + i) == some (x.leaf.unit i))

/-- A split page is written as the large page that it was (R285). -/
def Split.join (m : MapEngine) (x : Split) : MapEngine :=
  let k := x.space * 2 ^ 33 + x.base / 2 ^ 19
  let m := { m with splits := m.splits.filter (fun y => y != x) }
  if x.leaf.psize = 2 then
    { dropTables m x.space x.base (2 ^ 37) with
      leaf3 := AMap.clear m.leaf3 k (k + 2 ^ 18)
      leaf2 := putLeaves m.leaf2 (x.space * 2 ^ 22 + x.base / 2 ^ 30) (List.replicate 128 x.leaf) }
  else { m with leaf3 := putLeaves m.leaf3 k (List.replicate 512 x.leaf) }

/-- Split pages that an extent meets and that are whole again are large pages again. -/
def joinPages (m : MapEngine) (space a n : Nat) : MapEngine :=
  (m.splits.filter (fun x => x.space == space && meets x.base (pageBytes x.leaf.psize) a n)).foldl
    (fun m x => if x.whole m then x.join m else m) m

/-- Some leaves become REVOKED, naming a node; what stood there is kept. -/
def revoke (m : MapEngine) (node : Nat) (hit3 hit2 : Nat → Leaf → Bool) : MapEngine :=
  let go := fun (hit : Nat → Leaf → Bool) (e : Nat × Leaf) => !e.2.revoked && hit e.1 e.2
  let rev := fun (hit : Nat → Leaf → Bool) (e : Nat × Leaf) => if go hit e then (e.1, Leaf.gone node) else e
  let keep := fun (kept : AMap Leaf) (l : AMap Leaf) => l.foldl (fun k e => AMap.put k e.1 e.2) kept
  { m with
    leaf3 := m.leaf3.map (rev hit3), kept3 := keep m.kept3 (m.leaf3.filter (go hit3))
    leaf2 := m.leaf2.map (rev hit2), kept2 := keep m.kept2 (m.leaf2.filter (go hit2)) }

/-- GRANT: the giver's own leaves of the sub-extent become REVOKED (R248, R285). A root node has no leaves of its own, and
gets REVOKED ones there. -/
def takeGiver (phys : Bool) (m : MapEngine) (i : Nat) : MapEngine :=
  match nodeAt? m i with
  | none => m
  | some n =>
    match n.parent.bind (fun p => (nodeAt? m p).map (fun x => (p, x))) with
    | none => m
    | some (p, pn) =>
      if pn.parent.isNone then
        if n.psize = 2 then
          { m with leaf2 := putLeaves m.leaf2 (pn.space * 2 ^ 22 + n.pva / 2 ^ 30) (List.replicate (n.pages * 128) (Leaf.gone p)) }
        else
          { m with leaf3 := putLeaves m.leaf3 (pn.space * 2 ^ 33 + n.pva / 2 ^ 19)
                     (List.replicate (n.bytes / 2 ^ 19) (Leaf.gone p)) }
      else
        let m1 := { m with splits := m.splits ++ partPages m pn.space n.pva n.bytes }
        revoke (splitHuges phys (splitBigs m1 pn.space n.pva n.bytes) pn.space n.pva n.bytes) p
          (fun k l => inExtent3 pn.space n.pva n.bytes k && l.node == p)
          (fun k l => inExtent2 pn.space n.pva n.bytes k && l.node == p)

/-- REVOKED entries of an extent hold again what stood there, unless it is itself withdrawn; those of a root node go. -/
def restoreLeaves (m : MapEngine) (leaves kept : AMap Leaf) (hit : Nat → Bool) (node : Nat) : AMap Leaf × AMap Leaf :=
  let back := fun (e : Nat × Leaf) =>
    e.2.revoked && hit e.1 && (match AMap.get? kept e.1 with
      | none => e.2.node == node
      | some l => l.node == node && !(l.backing.map (reclaiming m)).getD false)
  (leaves.filterMap (fun e => if back e then (AMap.get? kept e.1).map (fun l => (e.1, l)) else some e),
    kept.filter (fun e => !((AMap.get? leaves e.1).map (fun l => back (e.1, l))).getD false))

/-- The end of a granted node's reclaim: the giver's leaves stand as before the grant, large pages as large pages (R285), unless
they are themselves withdrawn. -/
def giveBack (m : MapEngine) (i : Nat) : MapEngine :=
  match nodeAt? m i with
  | none => m
  | some n =>
    match n.parent.bind (fun p => (nodeAt? m p).map (fun x => (p, x))) with
    | none => m
    | some (p, pn) =>
      if !n.granted || pn.reclaim then m
      else
        let r3 := restoreLeaves m m.leaf3 m.kept3 (inExtent3 pn.space n.pva n.bytes) p
        let r2 := restoreLeaves m m.leaf2 m.kept2 (inExtent2 pn.space n.pva n.bytes) p
        joinPages { m with leaf3 := r3.1, kept3 := r3.2, leaf2 := r2.1, kept2 := r2.2 } pn.space n.pva n.bytes

/-- A granted child of a node holds a byte of a page of the node's space. -/
def grantedAway (m : MapEngine) (i a n : Nat) : Bool := (childrenAt m i a n).any (fun c => c.2.granted)

/-- A leaf whose backing node is withdrawn is unbacked again, of the size that it has (R281, R286). -/
def unback (l : Leaf) : Leaf :=
  { l with revoked := false, pres := false, wp := false, backing := none, frame := 0 }

/-- An entry of a level after the reclaim of some nodes: none where the leaf was theirs; unbacked where they backed it, though
still REVOKED where it is granted away or its own node is being reclaimed (R286, R293). -/
def clearEntry (m : MapEngine) (w : List Nat) (kept : AMap Leaf) (a n : Nat) (e : Nat × Leaf) : Option (Nat × Leaf) :=
  let l := standing kept e.1 e.2
  if w.contains l.node then none
  else if l.of w && !grantedAway m l.node a n && !reclaiming m l.node then some (e.1, unback l)
  else some e

/-- What a REVOKED entry stands for after the reclaim of some nodes. -/
def clearKept (m : MapEngine) (w : List Nat) (a n : Nat) (e : Nat × Leaf) : Option (Nat × Leaf) :=
  if w.contains e.2.node then none
  else if e.2.of w then
    (if grantedAway m e.2.node a n || reclaiming m e.2.node then some (e.1, unback e.2) else none)
  else some e

/-- The leaves after the reclaim of some nodes: their own are EMPTY, those that they backed are unbacked (R286, R293). -/
def clearLeaves (m : MapEngine) (w : List Nat) : MapEngine :=
  { m with
    splits := m.splits.filter (fun x => !w.contains x.leaf.node)
    leaf3 := m.leaf3.filterMap (fun e => clearEntry m w m.kept3 (e.1 % 2 ^ 33 * 2 ^ 19) (2 ^ 19) e)
    kept3 := m.kept3.filterMap (fun e => clearKept m w (e.1 % 2 ^ 33 * 2 ^ 19) (2 ^ 19) e)
    leaf2 := m.leaf2.filterMap (fun e => clearEntry m w m.kept2 (e.1 % 2 ^ 22 * 2 ^ 30) (2 ^ 30) e)
    kept2 := m.kept2.filterMap (fun e => clearKept m w (e.1 % 2 ^ 22 * 2 ^ 30) (2 ^ 30) e) }

/-- Frees a node's place, with the next generation (R285). -/
def freeNode (m : MapEngine) (i : Nat) : MapEngine :=
  match nodeAt? m i with
  | none => m
  | some n =>
    { m with
      gens := Sparse.write m.gens i (n.gen + 1)
      nodes := AMap.erase (match n.parent with
        | none => m.nodes
        | some p => AMap.modify m.nodes p (fun x => { x with children := x.children.filter (fun c => c != i) })) i }

/-! ## Invalidation, acknowledgement, reclaim -/

/-- A replay of every context of a list. -/
def replayAll (s : State) (l : List CtxId) : State := l.foldl (fun s c => (startReplay s c .nobody).1) s

/-- Contexts of some spaces. -/
def ctxsOf (s : State) (spaces : List Nat) : List CtxId :=
  ((s.ctxs.map (fun e => BitVec.ofNat 12 e.1)).filter (fun c =>
    spaces.any (fun sp => if sp < 4096 then sp == c.toNat else vfPart? s c == some (sp - 4096))))

/-- The migrations that the UNMAP of a node has ended. -/
def endedBy (m : MapEngine) (root : Nat) : List Migration := m.migrations.filter (fun g => g.ended == some root)

/-- The spaces whose accesses may wait for the pages of migrations that an UNMAP has ended. -/
def waitingSpaces (s : State) (root : Nat) : List Nat :=
  once ((endedBy s.map root).flatMap (fun g => (pagePlaces s g).map (·.1)))

/-- Those who asked for the migrations that an UNMAP has ended are answered, once. -/
def answerEnded (s : State) (root : Nat) : State :=
  (endedBy s.map root).foldl (fun s g => mapReply s g.reply 0x01)
    { s with map := { s.map with migrations := s.map.migrations.map (fun g =>
        if g.ended = some root then { g with reply := .nobody } else g) } }

/-- The rewrite of an invalidation, then its shootdown (R292). The parked writes of a migration that ends with it are replayed
once it has its acknowledgements, and meet REVOKED (R298). -/
def rewriteAndShoot (s : State) (v : Inval) : State :=
  match v.kind with
  | .grant =>
    let giver := ((nodeAt? s.map v.node).bind (·.parent)).getD 0
    let space := ((nodeAt? s.map giver).map (·.space)).getD 0
    shoot { s with map := takeGiver (physicalSpace s space) s.map v.node } v (giver :: stage2Nodes s [space]) [space]
  | _ =>
    let w := withdrawn s.map v.node
    let sp := spacesOf s.map w
    let waiting := waitingSpaces s v.node
    let s1 := answerEnded s v.node
    let m := revoke s1.map v.node (fun _ l => l.of w) (fun _ l => l.of w)
    shoot { s1 with map := { m with
        nodes := m.nodes.map (fun e => if w.contains e.1 then (e.1, { e.2 with reclaim := true }) else e) } }
      { v with after := ctxsOf s waiting } (nodesReached s w sp) (once (sp ++ waiting))

/-- The next invalidation begins when none is in progress (R283, R292). -/
def execInvalidation (s : State) : Out State :=
  if s.map.stopped || s.map.invals.any (fun v => v.sent && (v.kind == .unmap || v.kind == .grant)) then .next s
  else
    match s.map.invals.find? (fun v => !v.sent) with
    | none => .next s
    | some v =>
      let s1 := readNodes s (withdrawn s.map v.node)
      .next (if s1.map.stopped then s1 else rewriteAndShoot s1 v)

/-- A space that has ended: its tables are free, its translations gone from the caches, and the nodes that it holds are
withdrawn with everything that derives from them (R279, R289; DEDUCED: log 33). A root node goes only with its partition. -/
def dropSpace (roots : Bool) (s : State) (space : Nat) : State :=
  let tops := (s.map.nodes.filter (fun e => e.2.space == space && !isCut s.map e.1 && (roots || e.2.parent.isSome) &&
    ((e.2.parent.bind (nodeAt? s.map)).map (·.space)) != some space)).map (·.1)
  let s1 := { s with
    map := { s.map with tables := AMap.clear s.map.tables (space * 2 ^ 23) ((space + 1) * 2 ^ 23) }
    tlbs := (s.tlbs.filter (fun t => t.1 != walkerCache (space - 4096) || decide (space < 4096))).map
      (fun t => (t.1, t.2.filter (fun e => e.ctx.toNat != space || decide (416 ≤ t.1)))) }
  tops.foldl (fun s i => queueInval (cutNode s i) (Inval.queued .unmap i .nobody 0)) s1

/-- An invalidation has all its acknowledgements (R292 step 5). -/
def invalDone (s : State) (v : Inval) : State :=
  let s1 := { s with map := { s.map with invals := s.map.invals.erase v } }
  match v.kind with
  | .unmap =>
    let held := s1.map.heldUnmaps.filter (fun h => h.1 == v.node)
    let s2 := { s1 with map := { s1.map with
      reclaims := s1.map.reclaims ++ [v.node]
      heldUnmaps := s1.map.heldUnmaps.filter (fun h => h.1 != v.node) } }
    held.foldl (fun s h => mapReply s h.2 0x07) (mapReply (replayAll s2 v.after) v.reply v.status)
  | .grant => mapReply s1 v.reply v.status
  | .protect =>
    { s1 with map := { s1.map with migrations := s1.map.migrations.map (fun g =>
        if g.node == v.node && g.stage == .protecting then { g with stage := .copying } else g) } }
  | .release => s1

/-- Ends every invalidation that waits for nothing more. -/
def settleInvals (s : State) : State :=
  (s.map.invals.filter (fun v => v.sent && v.acks.isEmpty && v.peers.isEmpty)).foldl invalDone s

/-- The cache from which a core's cache fills (R287). -/
def fillsFrom? (cache : Nat) : Option Nat := if cache < 256 then some (256 + clusterOfCore cache) else none

/-- A cache drops the entries that a shootdown covers, makes its drains and acknowledges (R288, R289, R292). A core's cache
waits for the one that it fills from: else it could take an entry from there that it has acknowledged (DEDUCED: log 51). -/
def execShootdownAck (cache : Nat) (s : State) : Out State :=
  match s.map.invals.find? (fun v => v.sent && v.acks.contains cache && !((fillsFrom? cache).map v.acks.contains).getD false) with
  | none => .next s
  | some v =>
    let s1 := { s with
      tlbs := AMap.modify s.tlbs cache (fun l => l.filter (fun e => !inFilter s v.filter e.ctx))
      fab := { s.fab with remote := s.fab.remote.filter (fun e => !(384 + e.port % 32 == cache && inFilter s v.filter e.ctx)) } }
    let s2 := if cache < 256 then coreDrain s1 cache v.filter else s1
    let v1 := { v with acks := v.acks.erase cache }
    .next (settleInvals { s2 with map := { s2.map with
      invals := s2.map.invals.map (fun x => if x = v then v1 else x) } })

/-- A MAP or GRANT that waited for a reclaim is made again, and is answered or waits on (R293). -/
def retryMap (s : State) (h : HeldMap) : State :=
  let r := mapOrGrant s h.grant h.issuer h.target h.noCtx h.badCtx h.req h.who
  match r.2 with
  | .reply v => mapReply r.1 h.who v
  | .later => r.1

/-- The reclaim of a withdrawn subtree ends, and with it the frames of the migrations that it ended are free (R285, R286, R293,
R298). -/
def execReclaimEnd (s0 : State) : Out State :=
  match s0.map.reclaims with
  | [] => .next s0
  | r :: rest =>
    let s := readNodes s0 (withdrawn s0.map r)
    if s.map.stopped then .next s
    else
      let w := withdrawn s.map r
      let m1 := clearLeaves s.map w
      let m2 := w.foldl giveBack m1
      let m3 := w.foldl freeNode m2
      .next (m3.heldMaps.foldl retryMap { s with map := { m3 with
        reclaims := rest, heldMaps := [], migrations := m3.migrations.filter (fun g => g.ended != some r) } })

/-! ## Migration -/

/-- The leaf of a migration's page, where its node holds it. -/
def pageLeaf? (m : MapEngine) (g : Migration) : Option Leaf :=
  (AMap.get? m.leaf3 (g.space * 2 ^ 33 + g.va / 2 ^ 19)).map (fun l => unitOf m (g.space * 2 ^ 33 + g.va / 2 ^ 19, l))

/-- A migration can go on: no cut has ended it, its node and the one that backs its page are live and not cut, its page is present,
and no page of 128 GiB holds it. -/
def movable (s : State) (g : Migration) : Bool :=
  g.ended.isNone && !isCut s.map g.node &&
  (match pageLeaf? s.map g with
   | some l => l.pres && !((l.backing.map (isCut s.map)).getD false) && (hugePlaces s g.space l.frame).isEmpty
   | none => false)

/-- The frame that the host has named for a migration is one of a subtree whose reclaim has not ended: it is not mapped again until
then (R293). -/
def frameHeld (s : State) (g : Migration) : Bool :=
  g.reply != .nobody && (reclaimedFrames s g.space).any (fun f => meets f.1 f.2 g.newFrame.toNat 1)

/-- A migration may begin: none of its node has begun and not ended, nor one of the same page, and its new frame is not held back
(R293, R298). -/
def startable (s : State) (g : Migration) : Bool :=
  g.stage == .queued && movable s g && !frameHeld s g &&
    !s.map.migrations.any (fun h => h.stage != .queued && h.ended.isNone &&
      (h.node == g.node || (pagePlaces s h).contains (g.space, g.va)))

/-- The shootdown of a migration. -/
def shootPage (s : State) (g : Migration) (kind : InvalKind) (ps : List (Nat × Nat)) : State :=
  let spaces := once (ps.map (·.1))
  let nodes := once (ps.filterMap (fun p =>
    (AMap.get? s.map.leaf3 (p.1 * 2 ^ 33 + p.2 / 2 ^ 19)).map (fun l => (unitOf s.map (p.1 * 2 ^ 33 + p.2 / 2 ^ 19, l)).node)))
  shoot s (Inval.queued kind g.node .nobody 0) (once (nodes ++ stage2Nodes s spaces)) spaces

/-- Device-physical extents that the host has named for the part's own use (R401). -/
def namedExtents (s : State) : List (Nat × Nat) :=
  s.ctxs.flatMap (fun c => [(c.2.capBase, 2048), (c.2.ovfBase, 2 ^ c.2.ovfLog * 128), (c.2.imageBase, c.2.imageSize)]) ++
  s.parts.map (fun p => (p.2.cbBase, 0x100 + 8 * p.2.ctxCount))

/-- Extents in use below a root node, in the addresses that the frames of its space's leaves have: those of the nodes that derive
from it, the pages that leaves name or stand for, the ends of migrations. -/
def usedExtents (s : State) (root space : Nat) : List (Nat × Nat) :=
  let like := fun (sp : Nat) => frameSpace s sp == frameSpace s space
  (s.map.nodes.filter (fun e => e.2.parent == some root)).map (fun e => (e.2.pva, e.2.bytes)) ++
  ((s.map.leaf3 ++ s.map.kept3).filter (fun e => e.2.pres && like (e.1 / 2 ^ 33))).map (fun e =>
    ((e.2.unit (if e.2.psize = 1 then e.1 % 512 else 0)).frame.toNat * 2 ^ 19, 2 ^ 19)) ++
  ((s.map.leaf2 ++ s.map.kept2).filter (fun e => e.2.pres && like (e.1 / 2 ^ 22))).map (fun e =>
    (e.2.frame.toNat * 2 ^ 19 + e.1 % 128 * 2 ^ 30, 2 ^ 30)) ++
  (s.map.migrations.filter (fun g => like g.space)).flatMap (fun g =>
    [(g.oldFrame.toNat * 2 ^ 19, 2 ^ 19), (g.newFrame.toNat * 2 ^ 19, 2 ^ 19)]) ++
  (if (frameSpace s space).isNone then namedExtents s else [])

/-- The first frame of HBM, from one on, that nothing uses. -/
def freshFrom (used : List (Nat × Nat)) (f : Nat) : Nat → Option (BitVec 25)
  | 0 => none
  | fuel + 1 =>
    if used.any (fun u => meets u.1 u.2 (f * 2 ^ 19) (2 ^ 19)) then freshFrom used ((f + 1) % 0xBE000) fuel
    else some (BitVec.ofNat 25 f)

/-- The new frame of a migration: the host's, or for a page that the part retires by itself one that nothing uses (R319; DESIGN
CHOICE: log 6). -/
def newFrame? (s : State) (g : Migration) : Option (BitVec 25) :=
  if g.reply ≠ .nobody then some g.newFrame
  else freshFrom (usedExtents s 0 0) ((Config.spareFrame s.draws).toNat % 0xBE000) 0xBE000

/-- The device-physical address of a frame of a space's leaves; none while stage 2 does not translate it. -/
def frameAddr? (s : State) (space : Nat) (f : BitVec 25) : Option Nat :=
  match frameSpace s space with
  | none => some (f.toNat * 2 ^ 19)
  | some p =>
    match stage2 s p (BitVec.ofNat 12 space) (f.toNat * 2 ^ 19) false with
    | .page e => some (e.pa + (f.toNat * 2 ^ 19 - e.va))
    | _ => none

/-- Lines of a frame with a lasting error. -/
def lostLines (s : State) (old : Nat) : List Nat :=
  ((AMap.between s.badLines (old / 128) (old / 128 + 4096)).filter (·.2)).map (fun e => e.1 - old / 128)

/-- The context that a record of a page names: the page's, or for a page of a stage-2 space the partition's guest root, whose
address it is (DEDUCED: log 52). -/
def pageCtx (s : State) (space : Nat) : CtxId :=
  if space < 4096 then BitVec.ofNat 12 space else ((AMap.get? s.parts (space - 4096)).map (·.guest)).getD 0

/-- A lasting error in a page of 128 GiB is reported, and the page stays (R296, R319). -/
def execMigrationReport (s : State) (g : Migration) : State :=
  let s1 := { s with map := { s.map with migrations := s.map.migrations.filter (fun h => h != g) } }
  errorRecord s1 (.page (pageCtx s g.space) g.va (((frameAddr? s g.space g.oldFrame).map (lostLines s)).getD []))

/-- A page to be retired lies in a page of 128 GiB. -/
def inHuge (s : State) (g : Migration) : Bool :=
  g.stage == .queued && g.ended.isNone && g.reply == .nobody && !(hugePlaces s g.space g.oldFrame).isEmpty

/-- A migration begins: a page of 256 MiB is split, WP in every leaf of the page, MOVING, and the first shootdown (R296 step 1).
A page of 128 GiB with an error is reported instead. -/
def execMigrationProtect (s0 : State) : Out State :=
  match s0.map.migrations.find? (startable s0) with
  | none =>
    match s0.map.migrations.find? (inHuge s0) with
    | none => .next s0
    | some g => .next (if s0.map.stopped then s0 else execMigrationReport s0 g)
  | some g =>
    let s := readNodes s0 [g.node]
    if s.map.stopped then .next s
    else
      match newFrame? s g with
      | none => .next { s with map := { s.map with migrations := s.map.migrations.filter (fun h => h != g) } }
      | some f =>
        let g1 : Migration :=
          { g with stage := .protecting, newFrame := f, oldFrame := ((pageLeaf? s.map g).map (·.frame)).getD g.oldFrame }
        let ps := pagePlaces s g1
        let m1 := ps.foldl (fun m p => splitBigs m p.1 p.2 (2 ^ 19)) s.map
        let m2 := modPlaces m1 ps (fun l => { l with wp := true })
        let m3 : MapEngine := { m2 with
          nodes := AMap.modify m2.nodes g.node (fun n => { n with moving := true })
          migrations := m2.migrations.map (fun h => if h = g then g1 else h) }
        .next (shootPage { s with map := m3, draws := s.draws + 1 } g1 .protect ps)

/-- Copies a frame of 512 KiB at the coherence point; lines with a lasting error are zero in the copy, transient ones are
counted (R296, R318, R319). No core keeps a line of what the new frame held before, so that no read returns that (R276, R297). -/
def copyFrame (s0 : State) (old new : Nat) : State :=
  let s := ((AMap.between s0.badLines (old / 128) (old / 128 + 4096)).filter (fun e => !e.2)).foldl
    (fun s e => countTransient s e.1) s0
  let bad := fun (a : Nat) => AMap.get? s.badLines (a / 128) == some true
  let cells := (AMap.between s.mem old (old + 2 ^ 19)).filter (fun c => !bad c.1)
  { s with
    mem := cells.foldl (fun m c => Mem.setByte m (c.1 - old + new) c.2) (AMap.clear s.mem new (new + 2 ^ 19))
    badLines := AMap.clear s.badLines (new / 128) (new / 128 + 4096)
    cores := s.cores.map (fun c => (c.1, { c.2 with snap := AMap.clear c.2.snap (new / 128) (new / 128 + 4096) })) }

/-- The copy is made and every leaf takes the new frame with WP clear, in one update; the second shootdown follows (R296
steps 2 and 4, R319). While stage 2 does not translate a frame, or the new one is held back, it waits. -/
def execMigrationSwitch (s : State) : Out State :=
  match s.map.migrations.find? (fun g => g.stage == .copying && movable s g && !frameHeld s g &&
      (frameAddr? s g.space g.oldFrame).isSome && (frameAddr? s g.space g.newFrame).isSome) with
  | none => .next s
  | some g =>
    if s.map.stopped then .next s
    else
      let old := (frameAddr? s g.space g.oldFrame).getD 0
      let new := (frameAddr? s g.space g.newFrame).getD 0
      match paStops? [old, new] with
      | some o => o
      | none =>
        let lost := lostLines s old
        let s1 := copyFrame s old new
        let s2 := if lost.isEmpty then s1 else errorRecord s1 (.page (pageCtx s g.space) g.va lost)
        let ps := pagePlaces s2 g
        let m1 := modPlaces s2.map ps (fun l => { l with wp := false, frame := g.newFrame })
        let m2 : MapEngine := { m1 with
          migrations := m1.migrations.map (fun h => if h = g then { g with stage := .switched } else h) }
        .next (shootPage { s2 with map := m2 } g .release ps)

/-- The second acknowledgements are in: the page's parked accesses are replayed, MOVING is cleared, the old frame is free
(R296 step 5). -/
def execMigrationRelease (s : State) : Out State :=
  match s.map.migrations.find? (fun g => g.stage == .switched && g.ended.isNone &&
      !s.map.invals.any (fun v => v.kind == .release && v.node == g.node)) with
  | none => .next s
  | some g =>
    let m : MapEngine := { s.map with
      nodes := AMap.modify s.map.nodes g.node (fun n => { n with moving := false })
      migrations := s.map.migrations.filter (fun h => h != g) }
    .next (mapReply (replayAll { s with map := m } (ctxsOf s ((pagePlaces s g).map (·.1)))) g.reply 0)

end Sys2Proof.Machine
end

