-- ==== Sys2Proof/Machine/Frame.lean ====
section
/-! DEFINITION. The coppice frame: what a task off the cores is made of, its bytes, and the task that the bytes give back
(R300, R312, R313). The interior of a group record and of a strand record is the model's (DESIGN CHOICE: log 23). -/

namespace Sys2Proof.Machine

/-! ## Taking a task off its core -/

/-- A strand as it is saved: one that waits without having acted stands at its instruction, one parked on a monitor wakes at
the restore (R312 step 3). -/
def Strand.saved (t : Strand) : Strand :=
  { t with wait := match t.wait with
             | .cond (.parkRoom c n a) since => .cond (.parkRoom c n a) since
             | .cond (.fetchRoom c a) since => .cond (.fetchRoom c a) since
             | .cond .. => .run
             | .lock .. => .run
             | .fabric _ => .run
             | .monitor .. => .run
             | w => w }

/-- Captured high halves of a task's strands, by strand index. -/
def holdOf (s : State) (t : Task) : Sparse 32 :=
  ((List.range t.groups.length).zip t.groups).flatMap (fun e =>
    (AMap.between s.rf.hold (e.2 * 131072) (e.2 * 131072 + 131072)).map (fun x => (x.1 - e.2 * 131072 + e.1 * 131072, x.2)))

/-- What the model keeps of a task off the cores beside its frame. -/
def takeAway (s : State) (tk : Nat) (t : Task) (frame : VAddr) (entry : Nat) (fork : Option Nat) (saved : Bool) : Coppiced :=
  { task := { t with saving := false, stopping := false }, frame := frame, entry := entry
    cluster := BitVec.ofNat 5 (tk / 32 / 8), core := BitVec.ofNat 3 (tk / 32)
    parked := (coreAt s (tk / 32)).parked.filter (fun e => e.uid == t.uid)
    sidelog := (coreAt s (tk / 32)).sidelog.filter (fun e => e.uid == t.uid)
    strands := (indexedStrands s t).map (fun e => (e.1, e.2.saved))
    groups := t.groups.map (fun g => (groupAt? s g).getD ⟨tk, 0, 0, none, none, none⟩)
    fork := fork, saved := saved, bytes := [], hold := holdOf s t, frameAbsent := false }

/-! ## The bytes of a frame -/

def kindCode : EntryKind → Nat
  | .load => 0
  | .atomR => 1
  | .store => 2
  | .atomNR => 3
  | .fetch => 4
  | .ropR => 5
  | .ropSt => 6
  | .monw => 7

def codeKind : Nat → EntryKind
  | 0 => .load
  | 1 => .atomR
  | 2 => .store
  | 3 => .atomNR
  | 4 => .fetch
  | 5 => .ropR
  | 6 => .ropSt
  | _ => .monw

/-- The 32 bytes of an entry (R300). -/
def entryBytes (e : Entry) : List Byte :=
  bytesOf 8 e.ea.toNat ++ bytesOf 16 (natOfWords e.data) ++
  bytesOf 4 (e.strand.toNat + (if e.sign then 2 ^ 9 else 0) + e.d.toNat * 2 ^ 10 + e.fl.toNat * 2 ^ 16 +
    e.aop.toNat * 2 ^ 20 + e.size % 8 * 2 ^ 25 + kindCode e.kind * 2 ^ 28) ++
  bytesOf 4 e.order.toNat

/-- A held REFUSE stands in a place of its own (R313). -/
def isRefuse (m : Message) : Bool := kindOf m.id == kSoft

/-- The cluster barriers that a task is a member of, by number in its context's share (R313). -/
def memberMask (s : State) (cluster : Nat) (t : Task) : Nat :=
  let first := ((barShare? s cluster t.ctx).getD (0, 16)).1
  ((clusterAt s cluster).bars.filter (fun b => b.2.members.contains t.uid)).foldl (fun n b => n ||| 2 ^ (b.1 - first)) 0

/-- Strands of a task that have arrived at a barrier, as a mask. -/
def arrivedMask (b : Barrier) (uid : Nat) : Nat :=
  (b.arrived.filter (fun a => a.1 == uid)).foldl (fun n a => n ||| 2 ^ (a.2 % 512)) 0

/-- The first 4,096 bytes of a frame. -/
def frameHead (s : State) (tk : Nat) (t : Task) (c : Coppiced) : List Byte :=
  let m? : Option Message := match t.work with | .message m => some m | _ => none
  let sends := t.held.filter (fun m => !isRefuse m)
  fit 0x100 (bytesOf 4 0x43504F43 ++ bytesOf 2 1 ++ bytesOf 2 t.groups.length ++ bytesOf 4 t.taskId.toNat ++
    bytesOf 4 t.ctx.toNat ++ bytesOf 4 t.msgId.toNat ++ bytesOf 2 t.winUnits ++ bytesOf 2 (tk / 32 / 8) ++
    bytesOf 2 c.parked.length ++ bytesOf 2 c.sidelog.length ++ bytesOf 2 sends.length ++ bytesOf 2 0 ++
    bytesOf 4 t.spinCount.toNat ++ bytesOf 4 t.budgetLeft ++ bytesOf 2 (memberMask s (tk / 32 / 8) t)) ++
  fit 96 (((m?.map (fun m : Message => m.payload)).getD []).flatMap (fun w => bytesOf 8 w.toNat)) ++
  bytesOf 8 ((m?.map (fun m : Message => m.dw)).getD 0).toNat ++
  fit 152 [BitVec.ofNat 8 ((m?.map (fun m : Message => m.payload.length)).getD 0)] ++
  (List.range 16).flatMap (fun n =>
    match AMap.get? t.bars n with
    | none => List.replicate 72 0
    | some b => bytesOf 8 b.generation.toNat ++ bytesOf 64 (arrivedMask b t.uid)) ++
  List.replicate 128 0 ++
  fit 256 (((t.held.find? isRefuse).map messageBytes).getD []) ++
  fit 2048 (sends.flatMap (fun m => fit 128 (messageBytes m)))

/-- A group record: g, h, k with counts, j with masks, PCs and waiting sets, turn pointer, park time. -/
def groupBytes (s : State) (g : Nat) : List Byte :=
  let gr := (groupAt? s g).getD ⟨0, 0, 0, none, none, none⟩
  fit 1024 ((List.range 32).flatMap (fun n => bytesOf 8 (getG s g (BitVec.ofNat 5 n)).toNat) ++
    (List.range 8).flatMap (fun n => bytesOf 32 (getH s g (BitVec.ofNat 3 n)).toNat) ++
    (List.range 16).flatMap (fun n => let k := getK s g (BitVec.ofNat 4 n); bytesOf 4 k.count.toNat ++ bytesOf 4 k.outstanding) ++
    (List.range 8).flatMap (fun n => let j := getJ s g n
      bytesOf 4 j.mask.toNat ++ bytesOf 8 j.pc.toNat ++ bytesOf 4 j.waiting.toNat) ++
    bytesOf 8 gr.turn.toNat ++ bytesOf 8 ((gr.parked.map (fun p => s.now - p)).getD 0))

/-- A strand record: s, p, FFLAGS, privilege, exited, PC, barrier wait. The number of a cluster barrier is that in the context's
share, whose first barrier is given. -/
def strandBytes (s : State) (first k : Nat) : List Byte :=
  let t := strandAt s k
  let b : Nat × Nat × Nat := match t.wait with
    | .barrier cl z g => if cl then (2, z.toNat - first, g.toNat) else (1, z.toNat, g.toNat)
    | _ => (0, 0, 0)
  fit 512 ((List.range 64).flatMap (fun n => bytesOf 4 (getS s k (BitVec.ofNat 6 n)).toNat) ++
    [Sparse.read s.rf.p k, t.ff.setWidth 8, t.priv.setWidth 8, if t.wait = .exited then 1 else 0] ++
    bytesOf 8 t.pc.toNat ++ bytesOf 1 b.1 ++ bytesOf 1 b.2.1 ++ bytesOf 4 b.2.2)

/-- The tag table: a word for each slot of the allocation. -/
def tagBytes (s : State) (tk units : Nat) : List Byte :=
  (List.range (units * 128)).flatMap (fun n =>
    let v := Sparse.read s.tags (tagKey tk n)
    bytesOf 4 ((v.extractLsb' 0 25).toNat * 2 ^ 7 + (if v.getLsbD 25 then 1 else 0)))

/-- The pieces of a frame with their offsets (R313). -/
def framePieces (s : State) (tk : Nat) (t : Task) (c : Coppiced) : List (Nat × List Byte) :=
  let first := ((barShare? s (tk / 32 / 8) t.ctx).getD (0, 16)).1
  (0, frameHead s tk t c) ::
  (((List.range t.groups.length).zip t.groups).map (fun e => (0x1000 + e.1 * 1024, groupBytes s e.2))) ++
  (((List.range t.groups.length).zip t.groups).flatMap (fun e =>
    (List.range 32).map (fun l => (0x5000 + (e.1 * 32 + l) * 512, strandBytes s first (e.2 * 32 + l))))) ++
  (((List.range c.parked.length).zip c.parked).map (fun e => (0x45000 + e.1 * 32, entryBytes e.2))) ++
  (((List.range c.sidelog.length).zip c.sidelog).map (fun e => (0x49000 + e.1 * 32, entryBytes e.2))) ++
  [(0x4C000, tagBytes s tk t.winUnits),
   (0x80000, Mem.bytes s.corewin (tk / 32 * 2 ^ 19 + t.winBase * 16384) (t.winUnits * 16384))]

/-! ## Reading a frame -/

/-- An entry restored as written, with what the model keeps beside it. -/
def entryFrom (rd : Nat → Nat → Nat) (off : Nat) (e : Entry) : Entry :=
  let w := rd (off + 0x18) 4
  { e with
    ea := BitVec.ofNat 64 (rd off 8), data := wordsOf e.data.length (rd (off + 8) 16), strand := BitVec.ofNat 9 w
    sign := w / 2 ^ 9 % 2 == 1, d := BitVec.ofNat 6 (w / 2 ^ 10), fl := BitVec.ofNat 4 (w / 2 ^ 16)
    aop := BitVec.ofNat 5 (w / 2 ^ 20), size := if e.size < 8 then w / 2 ^ 25 % 8 else e.size
    kind := codeKind (w / 2 ^ 28), order := BitVec.ofNat 32 (rd (off + 0x1C) 4) }

/-- A wake for every line at the restore (R127). -/
def Strand.wokenUp (t : Strand) : Strand :=
  { t with woken := true, spin := { t.spin with ld := t.spin.ld.map (fun d => { d with woken := true }) } }

/-- Where a strand's wait stands after a restore: a cluster barrier that completed meanwhile releases it, and places are
waited for on the new core (R314). -/
def resumeWait (s : State) (cluster core : Nat) (t : Strand) : Strand :=
  match t.wait with
  | .cond (.parkRoom _ n a) since => { t with wait := .cond (.parkRoom core n a) since }
  | .cond (.fetchRoom _ a) since => { t with wait := .cond (.fetchRoom core a) since }
  | .barrier true z g =>
    if ((AMap.get? (clusterAt s cluster).bars z.toNat).map (·.generation)).getD g = g then t
    else { t with wait := .run, pc := t.pc + 4 }
  | _ => t

/-- The wait of a strand as its record gives it, and for the rest as the model keeps it: exited, at a barrier, or otherwise. -/
def waitFrom (rd : Nat → Nat → Nat) (first off : Nat) (w : Wait) : Wait :=
  if rd (off + 259) 1 % 2 = 1 then .exited
  else
    let z := rd (off + 269) 1
    let g := BitVec.ofNat 32 (rd (off + 270) 4)
    match rd (off + 268) 1 with
    | 1 => .barrier false (BitVec.ofNat 4 z) g
    | 2 => .barrier true (BitVec.ofNat 4 (first + z)) g
    | _ =>
      match w with
      | .exited => .run
      | .barrier .. => .run
      | w => w

/-- Restores one strand. -/
def strandFrom (rd : Nat → Nat → Nat) (c : Coppiced) (cluster core first : Nat) (s : State) (ix k : Nat) : State :=
  let off := 0x5000 + ix * 512
  let b : Strand := (AMap.get? c.strands ix).getD Strand.init
  let s1 := setRegs s k 0 (wordsOf 64 (natOfWords ((List.range 64).map (fun n => BitVec.ofNat 32 (rd (off + 4 * n) 4)))))
  let t : Strand := { b with
    pc := BitVec.ofNat 52 (rd (off + 260) 8), priv := BitVec.ofNat 2 (rd (off + 258) 1)
    ff := BitVec.ofNat 5 (rd (off + 257) 1), wait := waitFrom rd first off b.wait }
  { s1 with
    rf := { s1.rf with p := Sparse.write s1.rf.p k (BitVec.ofNat 8 (rd (off + 256) 1)) }
    strands := AMap.put s1.strands k (resumeWait s1 cluster core t.wokenUp) }

/-- Restores one group. -/
def groupFrom (rd : Nat → Nat → Nat) (c : Coppiced) (tk : Nat) (s : State) (gi g : Nat) : State :=
  let off := 0x1000 + gi * 1024
  let b : Group := (c.groups[gi]?).getD ⟨tk, gi, 0, none, none, none⟩
  let s0 := clearGroupRegs s g
  let s1 := (List.range 32).foldl (fun s n => setG s g (BitVec.ofNat 5 n) (BitVec.ofNat 64 (rd (off + 8 * n) 8))) s0
  let s2 := (List.range 8).foldl (fun s n => setH s g (BitVec.ofNat 3 n) (BitVec.ofNat 256 (rd (off + 256 + 32 * n) 32))) s1
  let s3 := (List.range 16).foldl (fun s n =>
    setK s g (BitVec.ofNat 4 n) ⟨BitVec.ofNat 32 (rd (off + 512 + 8 * n) 4), rd (off + 516 + 8 * n) 4⟩) s2
  let s4 := (List.range 8).foldl (fun s n =>
    setJ s g n ⟨BitVec.ofNat 32 (rd (off + 640 + 16 * n) 4), BitVec.ofNat 52 (rd (off + 644 + 16 * n) 8),
      BitVec.ofNat 32 (rd (off + 652 + 16 * n) 4)⟩) s3
  { s4 with groups := AMap.put s4.groups g { b with
      task := tk, index := gi, turn := BitVec.ofNat 5 (rd (off + 768) 1)
      parked := b.parked.map (fun _ => s.now - rd (off + 776) 8), yielded := none, fjoinSince := none } }

/-- The work of a restored task, with its starting message as written. -/
def workFrom (rd : Nat → Nat → Nat) : Work → Work
  | .message m => .message { m with
      dw := BitVec.ofNat 64 (rd 0x160 8)
      payload := (List.range (min 12 (rd 0x168 1))).map (fun n => BitVec.ofNat 64 (rd (0x100 + 8 * n) 8)) }
  | w => w

/-- A task barrier as written. -/
def barFrom (rd : Nat → Nat → Nat) (uid n : Nat) (b : Barrier) : Barrier :=
  { b with
    generation := BitVec.ofNat 32 (rd (0x200 + n * 72) 4)
    arrived := ((List.range 512).filter (fun i => (rd (0x208 + n * 72 + i / 8) 1).testBit (i % 8))).map (fun i => (uid, i)) }

/-- Group count and window units of a frame. -/
def frameGroups (rd : Nat → Nat → Nat) : Nat := min 16 (rd 6 2)
def frameUnits (rd : Nat → Nat → Nat) : Nat := rd 0x14 2

/-- A message as written, with what the model keeps beside it: the origin, and the number of payload words. -/
def messageFrom (rd : Nat → Nat → Nat) (off : Nat) (m : Message) : Message :=
  { m with
    dw := BitVec.ofNat 64 (rd off 8), id := BitVec.ofNat 32 (rd (off + 12) 4), a0 := BitVec.ofNat 64 (rd (off + 16) 8)
    a1 := BitVec.ofNat 64 (rd (off + 24) 8)
    payload := (List.range m.payload.length).map (fun i => BitVec.ofNat 64 (rd (off + 32 + 8 * i) 8)) }

/-- A held SEND.C message as written goes where its destination word says. -/
def sendFrom (rd : Nat → Nat → Nat) (off : Nat) (m : Message) : Message :=
  let w := messageFrom rd off m
  toDest w.dw w.origin w.id w.a0 w.a1 w.payload

/-- Held messages in their order, the REFUSE at its place among the others. -/
def weave (refuse : Message → Message) : List Message → List Message → List Message
  | [], sends => sends
  | m :: r, sends =>
    if isRefuse m then refuse m :: weave refuse r sends
    else match sends with
      | [] => weave refuse r []
      | x :: xs => x :: weave refuse r xs

/-- The held messages of a task as written (R233, R238, R313). -/
def heldFrom (rd : Nat → Nat → Nat) (core : Nat) (t : Task) : List Message :=
  let sends := t.held.filter (fun m => !isRefuse m)
  let blank := toDest 0 ⟨none, BitVec.ofNat 8 core, t.ctx, none⟩ 0 0 0 []
  weave (messageFrom rd 0x700) t.held
    ((List.range (min 16 (rd 0x1C 2))).map (fun i => sendFrom rd (0x800 + 128 * i) (sends.getD i blank)))

/-- An entry of which the model keeps nothing: it waits for the page of its address. -/
def blankEntry (t : Task) : Entry :=
  { kind := .load, ea := 0, data := [0, 0, 0, 0], size := 0, aop := 0, fl := 0, d := 0, sign := false, strand := 0, order := 0,
    away := ⟨0, .unmapped, t.ctx, none, none, true⟩, ctx := t.ctx, uid := t.uid, taskId := t.taskId, msgId := t.msgId,
    discarded := false, sent := false }

/-- The entries of a table as written, as many as the header says. -/
def entriesFrom (rd : Nat → Nat → Nat) (t : Task) (count off : Nat) (kept : List Entry) : List Entry :=
  (List.range count).map (fun i => entryFrom rd (off + 32 * i) (kept.getD i (blankEntry t)))

/-- A task's membership of a cluster barrier as written (R313, R314). -/
def Barrier.join (b : Barrier) (uid : Nat) (isMember : Bool) : Barrier :=
  if isMember then { b with members := if b.members.contains uid then b.members else b.members ++ [uid] }
  else { b with members := b.members.filter (fun u => u != uid) }

/-- The memberships in the barriers of a share, given as its first barrier and their count. -/
def membersFrom (rd : Nat → Nat → Nat) (uid : Nat) (share : Nat × Nat) (bars : AMap Barrier) : AMap Barrier :=
  (List.range share.2).foldl (fun m n =>
    let on := (rd 0x28 2).testBit n
    match AMap.get? m (share.1 + n) with
    | some b => AMap.put m (share.1 + n) (b.join uid on)
    | none => if on then AMap.put m (share.1 + n) ⟨[uid], [], 0⟩ else m) bars

/-- A stopped copy of a restored task finds the task's window at its new place, and tries its run again (R332). -/
def Copy.follow (t : Task) (tk core : Nat) (c : Copy) : Copy :=
  if c.tok.uid = t.uid then
    { c with task := tk, core := core, group := t.groups.getD c.tok.group c.group, winBase := t.winBase, retry := c.stopped.isSome }
  else c

/-- Restores a task from its frame into places of a core: registers, window and tags included, without zeroing, every field as
written (R314, R317); the cluster is the one in whose queue it stands. Its entries come back in their order, before those that the
core makes from then on; a discarded one is a deferred fault of its strand (R315) (DEDUCED: log 54). -/
def restoreTask (rd : Nat → Nat → Nat) (s : State) (core : Nat) (f : Fit) (c : Coppiced) : State :=
  let t : Task := { c.task with ctx := BitVec.ofNat 12 (rd 0xC 4) }
  let cluster := core / 8
  let share := (barShare? s cluster t.ctx).getD (0, 16)
  let units := frameUnits rd
  let t1 : Task := { t with
    taskId := BitVec.ofNat 32 (rd 8 4), msgId := BitVec.ofNat 32 (rd 0x10 4), spinCount := BitVec.ofNat 32 (rd 0x20 4)
    budgetLeft := rd 0x24 4, groups := f.groups, winBase := f.win, winUnits := units, work := workFrom rd t.work
    held := heldFrom rd core t, saving := false, stopping := false, bars := t.bars.map (fun b => (b.1, barFrom rd t.uid b.1 b.2)) }
  let a := core * 2 ^ 19 + f.win * 16384
  let win := (List.range (units * 16384)).map (fun i => BitVec.ofNat 8 (rd (0x80000 + i) 1))
  let tags := (List.range (units * 128)).foldl (fun m i =>
    let v := rd (0x4C000 + 4 * i) 4
    Sparse.write m (tagKey f.task i) (BitVec.ofNat 26 (v / 2 ^ 7 + (v % 2) * 2 ^ 25)))
    (AMap.clear s.tags (tagKey f.task 0) (tagKey f.task 4096))
  let s1 := modCluster { s with
    tasks := AMap.put s.tasks f.task t1
    corewin := Mem.setBytes s.corewin a win
    queues := s.queues.map (fun q => (q.1, { q.2 with copies := q.2.copies.map (Copy.follow t1 f.task core) }))
    tags := tags } cluster (fun k => { k with bars := membersFrom rd t.uid share k.bars })
  let gs := (List.range f.groups.length).zip f.groups
  let s2 := gs.foldl (fun s e => groupFrom rd c f.task s e.1 e.2) s1
  let s3 := gs.foldl (fun s e => (List.range 32).foldl (fun s l => strandFrom rd c cluster core share.1 s (e.1 * 32 + l) (e.2 * 32 + l)) s) s2
  let s4 := { s3 with rf := { s3.rf with hold := c.hold.foldl (fun m e =>
    Sparse.write m ((f.groups.getD (e.1 / 131072) 0) * 131072 + e.1 % 131072) e.2) s3.rf.hold } }
  let s5 := (entriesFrom rd t (rd 0x18 2) 0x45000 c.parked).foldl (fun s e => putEntry s core false { e with ctx := t.ctx }) s4
  let s6 := (entriesFrom rd t (rd 0x1A 2) 0x49000 c.sidelog).foldl (fun s e =>
    if e.discarded then deferFault s core e ⟨cREVOKED, e.ea⟩ else putEntry s core true { e with ctx := t.ctx }) s5
  acquire s6 core

end Sys2Proof.Machine
end

