-- ==== Sys2Proof/Machine/Coppice.lean ====
section
/-! DEFINITION. A replay reaching a core, coppicing, re-admission and the quiescent save of a task (R125, R308, R310 to R317,
R332). -/

namespace Sys2Proof.Machine

/-- A replay of a context reaches a core, and the tasks that have been coppiced there since it began; when every core has begun, those who asked for it are answered (R256, R308, R316). -/
def execCoreReplay (core : CoreId) (ctx : CtxId) (s : State) : Out State :=
  let c := core.toNat
  if !(s.replays.any (fun r => r.ctx == ctx && r.cores.contains c)) then .next s
  else
    let r := replayCore s c (fun e => e.ctx == ctx)
    match r.2 with
    | some o => o
    | none =>
      let s1 := replayCoppiced r.1 ctx (fun x => x.lastCore == c)
      let rs := s1.replays.map (fun x => if x.ctx == ctx then { x with cores := x.cores.erase c } else x)
      .next ((rs.filter (fun x => x.cores.isEmpty)).foldl (fun s x => mapReply s x.reply 0)
        { s1 with replays := rs.filter (fun x => !x.cores.isEmpty) })

/-! ## Coppice lists and frames (R311) -/

/-- The physical address of a context's address with the rights R and W, in plain memory, after a walk of it. -/
def walkRW (s : State) (ctx : CtxId) (va : Nat) : Option Nat :=
  match walked s ctx va true with
  | .page e =>
    let pa := e.pa + (va - e.va)
    if e.rights.getLsbD rR && e.rights.getLsbD rW && plainMem pa then some pa else none
  | _ => none

/-- Sends a PAGEREQ of the part's own to a context's supervisor (R306, R311). -/
def frameRequest (s : State) (ctx : CtxId) (reason : Reason) (a : Nat) : State :=
  modCtx s ctx (fun c => { c with pageQ := c.pageQ ++ [⟨a, reason, .none, ctx, ctx, none⟩] })

/-- Takes the frame of the lowest-numbered free entry from an index on, rejecting those that cannot be used (R311). An entry whose
line has a lasting error is passed over: R318 names no outcome for this read (DESIGN CHOICE: log 102). -/
def takeFrame (ctx : CtxId) (list : Nat) : Nat → Nat → State → State × Option (Nat × Nat)
  | 0, _, s => (s, none)
  | n + 1, i, s0 =>
    let s1 := walkPages s0 ctx [list + 8 * i]
    match walkRW s1 ctx (list + 8 * i) with
    | none => (s1, none)
    | some pa =>
      let e := eccCheck s1 (pa / 128)
      let w : DWord := BitVec.ofNat 64 (natOfBytes (memBytes e.1 pa 8))
      if e.2 || w.setWidth 2 != 1#2 then takeFrame ctx list n (i + 1) e.1
      else
        let f := w.toNat % 2 ^ 52 / 2 ^ 20 * 2 ^ 20
        let s := walkPages e.1 ctx [f, f + 2 ^ 19]
        if w &&& 0xFFF00000000FFFFC = 0 ∧ (walkRW s ctx f).isSome ∧ (walkRW s ctx (f + 2 ^ 19)).isSome then
          (perform s pa (bytesOf 8 (w + 1).toNat), some (i, f))
        else
          takeFrame ctx list n (i + 1)
            (frameRequest (perform s pa (bytesOf 8 (w ||| 3).toNat)) ctx .badframe (list + 8 * i))

/-- No frame: the supervisor is told, at most once in 2^20 cycles (R311). -/
def noFrame (s : State) (ctx : CtxId) : State :=
  match ctxAt? s ctx with
  | none => s
  | some c =>
    if (c.noframeAt.map (fun n => decide (s.now < n + 2 ^ 20))).getD false then s
    else modCtx (frameRequest s ctx .noframe c.coppiceList.toNat) ctx (fun c => { c with noframeAt := some s.now })

/-- Writes bytes at a context's address, in pieces that lie in one 512 KiB unit each. -/
def writeFrame (s : State) (ctx : CtxId) (f : Nat) (ps : List (Nat × List Byte)) : State :=
  ps.foldl (fun s0 p =>
    let s := walkPages s0 ctx [f + p.1]
    match walkRW s ctx (f + p.1) with
    | none => s
    | some pa => perform s pa p.2) s

/-! ## Eligibility (R125, R310) -/

/-- How long a task has been stopped: on a fault in one of its groups, or under R125. -/
def stopTime (s : State) (t : Task) : Option (Nat × Bool) :=
  let gs := t.groups.filterMap (groupAt? s)
  let parks := gs.filterMap (fun g => g.parked.map (fun p => s.now - p))
  let forks := gs.map (fun g => g.fjoinSince.map (fun p => s.now - p))
  let p := parks.foldl max 0
  let f := (forks.filterMap id).foldl min s.now
  if !parks.isEmpty then some (p, false)
  else if !gs.isEmpty && forks.all (·.isSome) then some (f, true)
  else none

/-- A copy of a task stands in a halted queue. -/
def haltedCopies (s : State) (uid : Nat) : Bool :=
  s.queues.any (fun q => q.2.halted.isSome && q.2.copies.any (fun c => c.tok.uid == uid))

/-- A task is eligible for coppicing, but for the waiting work of its core; its stop time and whether it is for R125 (DESIGN CHOICE: log 53). -/
def eligible (s : State) (t : Task) : Option (Nat × Bool) :=
  match stopTime s t with
  | none => none
  | some (n, f) =>
    let lim := ((ctxAt? s t.ctx).map (fun c => c.parkLim.toNat)).getD 0
    if lim ≤ n ∧ (strandsOfTask t).all (fun k => (strandAt s k).locks.isEmpty) ∧ !haltedCopies s t.uid then some (n, f) else none

/-- A coppiced task by its model number, with its context. -/
def coppicedBy? (s : State) (uid : Nat) : Option (CtxId × Coppiced) :=
  s.ctxs.findSome? (fun e => (AMap.get? e.2.coppiced uid).map (fun c => (BitVec.ofNat 12 e.1, c)))

/-- The bank of a core that belongs to a context. -/
def bankOf? (s : State) (core : Nat) (ctx : CtxId) : Option Nat :=
  let c := clusterAt s (core / 8)
  if c.lower = some ctx then some 0 else if c.resident && c.upper == some ctx then some 1 else none

/-- Where a task of a context with some groups and window units fits on a core, in its context's bank (R317). -/
def fitsAway? (s : State) (ctx : CtxId) (groups units core : Nat) : Option Fit :=
  (bankOf? s core ctx).bind (fun b => fits? s core b groups units)

/-- A core holds work that it cannot admit for want of places (R310). -/
def wantsRoom (s : State) (core : Nat) : Bool :=
  match servedCtx? s core with
  | none => false
  | some ctx =>
    let fits := fun (groups units : Nat) => (fits? s core (issuingBank s core) groups units).isSome
    (match ((clusterAt s (core / 8)).readmit.head?).bind (coppicedBy? s) with
     | some (x, c) => (bankOf? s core x).isSome && (fitsAway? s x c.task.groups.length c.task.winUnits core).isNone
     | none => false) ||
    ((nextFork? s core ctx).isSome && !fits 1 0) ||
    (match (nextMail? s core ctx).bind (fun h => bindingFor? s ctx h.work) with
     | some b => !fits (2 ^ b.glog) b.window
     | none => false)

/-- The task of a core that is coppiced: the longest stopped of the eligible ones, the lower slot on a tie (R310). -/
def chooseCoppice (s : State) (core : Nat) : Option (Nat × Task × Bool) :=
  ((s.tasks.filter (fun e => e.1 / 32 == core)).filterMap (fun e => (eligible s e.2).map (fun x => (x.1, e.1, e.2, x.2)))).foldl
    (fun b x => match b with
      | none => some x
      | some y => if y.1 < x.1 then some x else some y) none |>.map (fun x => (x.2.1, x.2.2.1, x.2.2.2))

/-- An instruction of a task has sent a request and waits for its answer, a PHASE its markers among them (R312 step 2). -/
def awaits (s : State) (t : Task) : Bool :=
  (strandsOfTask t).any (fun k => match (strandAt s k).wait with
    | .reply _ => true
    | .rop => true
    | .fabric _ => true
    | _ => false)

/-- Every token of a task has nothing outstanding. -/
def tokensFinal (s : State) (t : Task) : Bool :=
  t.groups.all (fun g => (List.range 16).all (fun n => (getK s g (BitVec.ofNat 4 n)).outstanding == 0))

/-- The window address of the fork counter that a task waits for: where its strands wait for several, that of the first of them
(the spec says 'its counter'; DESIGN CHOICE: log 89). -/
def forkCounter? (s : State) (t : Task) : Option Nat :=
  (strandsOfTask t).findSome? (fun k => match (strandAt s k).wait with
    | .cond (.forkZero _ a) _ => some a
    | _ => none)

/-- Takes a task off its core, with its entries; barriers of the cluster keep it as a member (R312 step 5, R314). -/
def leaveCore (s : State) (tk : Nat) (t : Task) (c : Coppiced) : State :=
  let s1 := modCore s (tk / 32) (fun x => { x with
    parked := x.parked.filter (fun e => e.uid != t.uid), sidelog := x.sidelog.filter (fun e => e.uid != t.uid) })
  modCtx (removeTask s1 tk t) t.ctx (fun x => { x with coppiced := AMap.put x.coppiced t.uid c })

/-- The task of a core whose coppicing has begun: each core coppices one at a time (R310). -/
def stoppingOn? (s : State) (core : Nat) : Option (Nat × Task) := s.tasks.find? (fun e => e.1 / 32 == core && e.2.stopping)

/-- The operations of a task that a save waits for have completed (R312 step 2). -/
def settled (s : State) (t : Task) : Bool := !unitsBusy s t && !awaits s t && tokensFinal s t

/-- Every strand of a task that waits in the queue of a lock bit leaves it (R312 step 3). -/
def leaveQueues (s : State) (t : Task) : State := leaveLocks s (strandsOfTask t)

/-- Steps 4 and 5 of R312: the core publishes, takes a frame and saves the task there; without a frame the task stays. -/
def saveFrame (s : State) (tk : Nat) (t : Task) (fork : Bool) : State :=
  let s1 := publish s (tk / 32)
  let list := ((ctxAt? s1 t.ctx).map (fun c => c.coppiceList.toNat)).getD 0
  let r := takeFrame t.ctx list 256 0 s1
  match r.2 with
  | none => noFrame (modTask r.1 tk (fun x => { x with stopping := false })) t.ctx
  | some (i, f) =>
    let s2 := leaveQueues r.1 t
    let c := takeAway r.1 tk t (BitVec.ofNat 52 f) i (if fork then forkCounter? r.1 t else none) false
    let s3 := writeFrame s2 t.ctx f (framePieces s2 tk t c)
    forkReady (leaveCore s3 tk t c)

/-- Coppicing (R312): an eligible task of a core that wants room stops; one that is eligible no longer goes on; one whose
operations have completed is saved. -/
def execCoppice (core : CoreId) (s : State) : Out State :=
  let c := core.toNat
  match stoppingOn? s c with
  | some (tk, t) =>
    match eligible s t with
    | none => .next (modTask s tk (fun x => { x with stopping := false }))
    | some (_, fork) =>
      if !wantsRoom s c then .next (modTask s tk (fun x => { x with stopping := false }))
      else if settled s t then .next (saveFrame s tk t fork)
      else .next s
  | none =>
    if wantsRoom s c then
      match chooseCoppice s c with
      | none => .next s
      | some (tk, _) => .next (modTask s tk (fun x => { x with stopping := true }))
    else .next s

/-! ## Re-admission (R314, R317) -/

/-- The frame of a task can be read: the physical addresses of its two halves, or what stands in the way. -/
def frameAt (s : State) (ctx : CtxId) (f : Nat) : Sum WalkOut (Nat × Nat) :=
  match walked s ctx f false with
  | .page e =>
    match walked s ctx (f + 2 ^ 19) false with
    | .page e' => .inr (e.pa + (f - e.va), e'.pa + (f + 2 ^ 19 - e'.va))
    | o => .inl o
  | o => .inl o

/-- The rights of a frame's pages include R. -/
def frameReadable (s : State) (ctx : CtxId) (f : Nat) : Bool :=
  (match walked s ctx f false with | .page e => e.rights.getLsbD rR | _ => false) &&
  (match walked s ctx (f + 2 ^ 19) false with | .page e => e.rights.getLsbD rR | _ => false)

/-- The frame's list entry goes from in use to free (R317). -/
def freeFrame (s0 : State) (ctx : CtxId) (i : Nat) : State :=
  let list := ((ctxAt? s0 ctx).map (fun c => c.coppiceList.toNat)).getD 0
  let s1 := walkPages s0 ctx [list + 8 * i]
  match walkRW s1 ctx (list + 8 * i) with
  | none => s1
  | some pa =>
    let e := eccCheck s1 (pa / 128)
    let s := e.1
    let w : DWord := BitVec.ofNat 64 (natOfBytes (memBytes s pa 8))
    if !e.2 && w.setWidth 2 == 2#2 then perform s pa (bytesOf 8 (w - 1).toNat) else s

/-- The head of the queue leaves it. -/
def popReadmit (s : State) (cluster : Nat) : State :=
  modCluster s cluster (fun c => { c with readmit := c.readmit.tail })

/-- A core's tables have places for the entries of a frame. The spec asks only for slots and an allocation: that the restore waits
for a core with places in its parked-access table and side log, which R300 and R303 limit, is the model's (DESIGN CHOICE: log 101). -/
def hasPlaces (s : State) (rd : Nat → Nat → Nat) (core : Nat) : Bool :=
  decide ((coreAt s core).parked.length + rd 0x18 2 ≤ 512) && decide ((coreAt s core).sidelog.length + rd 0x1A 2 ≤ 256)

/-- Restores the head of the re-admission queue on the first core that can take it, and replays its entries (R317). -/
def readmit (s : State) (cluster : Nat) (ctx : CtxId) (uid : Nat) (c : Coppiced) (rd : Nat → Nat → Nat) : Out State :=
  let fit := fitsAway? s ctx (frameGroups rd) (frameUnits rd)
  let cores := ((List.range 8).map (fun i => cluster * 8 + i)).filter (fun k => (fit k).isSome && hasPlaces s rd k)
  match choosePlace s.determActive (weightOf s) true cores (clusterAt s cluster).readmitPlace with
  | none => .next s
  | some (core, pl) =>
    match fit core with
    | none => .next s
    | some f =>
      let s1 := modCluster (popReadmit s cluster) cluster (fun k => { k with readmitPlace := pl })
      let s2 := modCtx s1 ctx (fun x => { x with coppiced := AMap.erase x.coppiced uid })
      let s3 := restoreTask rd s2 core f c
      let s4 := if c.saved then s3 else freeFrame s3 ctx c.entry
      let r := replayCore s4 core (fun e => e.uid == uid)
      match r.2 with
      | some o => o
      | none => .next r.1

/-- Re-admits the head of a cluster's queue; a frame that cannot be read keeps the task away, or ends it (R314, R315,
R317). -/
def execReAdmission (cluster : ClusterId) (s : State) : Out State :=
  let cl := cluster.toNat
  match (clusterAt s cl).readmit with
  | [] => .next s
  | uid :: _ =>
    match coppicedBy? s uid with
    | none => .next (popReadmit s cl)
    | some (ctx, c) =>
      if preempted s cl ctx then .next s
      else if c.saved then readmit s cl ctx uid c (fun off n => Mem.nat c.bytes off n)
      else
        let s := walkPages s ctx [c.frame.toNat, c.frame.toNat + 2 ^ 19]
        match frameAt s ctx c.frame.toNat with
        | .inl (.absent a) =>
          let s1 := requestPage (popReadmit s cl) ctx a .read
          .next (modCtx s1 ctx (fun x => { x with coppiced := AMap.modify x.coppiced uid (fun k => { k with frameAbsent := true }) }))
        | .inl _ => .next (trapAway s uid c cREVOKED)
        | .inr (a, b) =>
          if !frameReadable s ctx c.frame.toNat then .next (trapAway s uid c cPROT)
          else
            let units := natOfBytes (memBytes s (a + 0x14) 2)
            let e := eccRange s a (0x4C000 + units * 512)
            let e' := if units = 0 then (e.1, false) else eccRange e.1 b (units * 16384)
            let rd := fun (off n : Nat) => natOfBytes (memBytes e'.1 (if off < 2 ^ 19 then a + off else b + (off - 2 ^ 19)) n)
            if e.2 || e'.2 || rd 0 4 != 0x43504F43 || rd 4 2 != 1 then .next (trapAway e'.1 uid c cDATAERR)
            else readmit e'.1 cl ctx uid c rd

/-! ## The quiescent save (R332) -/

/-- A copy of a task runs, or is to run, unhindered: its queue is not halted, and the queue's first copy is not stopped. -/
def copiesRun (s : State) (uid : Nat) : Bool :=
  s.queues.any (fun q => q.2.halted.isNone && !((q.2.copies.head?.map (fun c => c.stopped.isSome)).getD false) &&
    q.2.copies.any (fun c => c.tok.uid == uid))

/-- Tile tasks or posted remote operations of a task have not landed. -/
def tilesRun (s : State) (t : Task) : Bool :=
  unitsBusy { s with queues := [] } t

/-- A task whose save has begun holds no lock bit and waits for no answer, and its transactions have landed or stand as
replay entries: it is published and saved. -/
def execQuiescentSave (task : Nat) (s : State) : Out State :=
  match AMap.get? s.tasks task with
  | none => .next s
  | some t =>
    let held := (strandsOfTask t).any (fun k => !(strandAt s k).locks.isEmpty)
    if !t.saving || held || awaits s t || copiesRun s t.uid || tilesRun s t then .next s
    else
      let s1 := leaveQueues (publish s (task / 32)) t
      let c := takeAway s1 task t 0 0 none true
      let bytes := (framePieces s1 task t c).foldl (fun m p => Mem.setBytes m p.1 p.2) []
      .next (freezeVt (leaveCore s1 task t { c with bytes := bytes }) t.ctx)

end Sys2Proof.Machine
end

