-- ==== Sys2Proof/Machine/Keccak.lean ====
section
/-! DEFINITION. SHAKE256 with a 512-bit output, the digest of context images and measurements (R334, R410), as FIPS 202 gives
it. -/

namespace Sys2Proof.Machine

/-- Rotation of lane (x, y), at x + 5y. -/
def keccakRot : List Nat :=
  [0, 1, 62, 28, 27, 36, 44, 6, 55, 20, 3, 10, 43, 25, 39, 41, 45, 15, 21, 8, 18, 2, 61, 56, 14]

/-- Round constants. -/
def keccakRc : List DWord :=
  [0x0000000000000001, 0x0000000000008082, 0x800000000000808A, 0x8000000080008000,
   0x000000000000808B, 0x0000000080000001, 0x8000000080008081, 0x8000000000008009,
   0x000000000000008A, 0x0000000000000088, 0x0000000080008009, 0x000000008000000A] ++
  [0x000000008000808B, 0x800000000000008B, 0x8000000000008089, 0x8000000000008003,
   0x8000000000008002, 0x8000000000000080, 0x000000000000800A, 0x800000008000000A,
   0x8000000080008081, 0x8000000000008080, 0x0000000080000001, 0x8000000080008008]

/-- One round over the 25 lanes. -/
def keccakRound (a : List DWord) (rc : DWord) : List DWord :=
  let at' := fun (l : List DWord) (i : Nat) => l.getD i 0
  let c := (List.range 5).map (fun x => at' a x ^^^ at' a (x + 5) ^^^ at' a (x + 10) ^^^ at' a (x + 15) ^^^ at' a (x + 20))
  let d := (List.range 5).map (fun x => at' c ((x + 4) % 5) ^^^ (at' c ((x + 1) % 5)).rotateLeft 1)
  let t := (List.range 25).map (fun i => at' a i ^^^ at' d (i % 5))
  let b := (List.range 25).map (fun i =>
    let j := (i % 5 + 3 * (i / 5)) % 5 + 5 * (i % 5)
    (at' t j).rotateLeft (keccakRot.getD j 0))
  (List.range 25).map (fun i =>
    let y := i / 5 * 5
    let v := at' b i ^^^ (~~~(at' b (y + (i + 1 - y) % 5)) &&& at' b (y + (i + 2 - y) % 5))
    if i = 0 then v ^^^ rc else v)

/-- The permutation of 1,600 bits. -/
def keccakF (a : List DWord) : List DWord := keccakRc.foldl keccakRound a

/-- Lanes of a block of bytes. -/
def lanesOfBytes : Nat → List Byte → List DWord
  | 0, _ => []
  | n + 1, bs => BitVec.ofNat 64 (natOfBytes (bs.take 8)) :: lanesOfBytes n (bs.drop 8)

/-- Absorbs whole blocks of 136 bytes. -/
def absorb : Nat → List DWord → List Byte → List DWord
  | 0, st, _ => st
  | n + 1, st, bs =>
    let l := lanesOfBytes 17 (bs.take 136)
    absorb n (keccakF ((List.range 25).map (fun i => st.getD i 0 ^^^ l.getD i 0))) (bs.drop 136)

/-- The padding after a message of some length: 1111, then 10*1. -/
def shakePad (n : Nat) : List Byte :=
  let k := 136 - n % 136
  if k = 1 then [0x9F] else 0x1F :: (List.replicate (k - 2) 0 ++ [0x80])

/-- SHAKE256, 512 bits of output. -/
def shake256 (bs : List Byte) : BitVec 512 :=
  let m := bs ++ shakePad bs.length
  let st := absorb (m.length / 136) (List.replicate 25 0) m
  BitVec.ofNat 512 (natOfBytes ((st.take 8).flatMap (fun w => bytesOf 8 w.toNat)))

end Sys2Proof.Machine
end

