-- ==== Sys2Proof/Machine/Image.lean ====
section
/-! DEFINITION. Placing contexts on clusters, context images, the context save and the restore (R31, R216, R320, R333 to R336,
R339, R413). The interior of an image's sections is the model's (DESIGN CHOICE: log 24); what the restore needs of them is kept beside the
bytes, found by the digest. -/

namespace Sys2Proof.Machine

/-! ## Ownership of clusters (R31, R216, R320) -/

/-- The clusters of a mask, ascending. -/
def clustersOf (m : BitVec 32) : List ClusterId := ((List.range 32).filter (fun i => m.getLsbD i)).map (BitVec.ofNat 5)

/-- A context can be placed on a cluster: the cluster is of its partition and has a free place (R320, R401). -/
def canOwn (s : State) (ctx : CtxId) (cl : ClusterId) : Bool :=
  match (partOf? s ctx).bind (fun p => AMap.get? s.parts p) with
  | none => false
  | some p =>
    let c := clusterAt s cl.toNat
    p.clusters.getLsbD cl.toNat && (c.lower.isNone || (p.resident && c.upper.isNone))

/-- Zeroes a share: slots, operand memory, counters, planes, accumulators, window, barriers (R31, R216, R427). -/
def zeroShare (s : State) (cl : Nat) (ctx : CtxId) : State :=
  match clusterShare? s cl ctx with
  | none => s
  | some (w, wn, up) =>
    let res := (clusterAt s cl).resident
    let (b0, b1) := if res then (if up then (8, 16) else (0, 8)) else (0, 16)
    let sl := (slotShare? s cl ctx).getD (0, 0)
    let pc := (counterShare? s cl ctx).getD (0, 0)
    let en := (engineShare? s cl ctx).getD (0, 0)
    let s1 := opZero s cl (sl.1 * 8192) (sl.2 * 8192)
    let s2 := modCluster s1 cl (fun c => { c with
      claims := AMap.clear c.claims sl.1 (sl.1 + sl.2), bars := AMap.clear c.bars b0 b1 })
    { s2 with
      cluwin := AMap.clear s2.cluwin (cl * 2 ^ 23 + w) (cl * 2 ^ 23 + w + wn)
      pcs := AMap.clear s2.pcs (cl * 4096 + pc.1) (cl * 4096 + pc.1 + pc.2)
      engines := AMap.clear s2.engines (cl * 16 + en.1) (cl * 16 + en.1 + en.2) }

/-- A context becomes an owner of a cluster: of it all, or in RESIDENT mode of the lower half that is free, else the upper. -/
def own (ctx : CtxId) (s : State) (cl : ClusterId) : State :=
  let res := residentPart s ctx
  let s1 := modCluster s cl.toNat (fun c =>
    if c.lower.isNone then { c with lower := some ctx, resident := res, bank := if c.upper.isSome then c.bank else 0 }
    else { c with upper := some ctx, resident := res })
  zeroShare s1 cl.toNat ctx

/-- A context leaves a cluster. -/
def disown (ctx : CtxId) (s : State) (cl : ClusterId) : State :=
  modCluster s cl.toNat (fun c => { c with
    lower := if c.lower = some ctx then none else c.lower, upper := if c.upper = some ctx then none else c.upper
    preempt := c.preempt.filter (fun x => x != ctx) })

/-- The cores of some clusters. -/
def coresIn (cs : List ClusterId) : List Nat := cs.flatMap (fun c => (List.range 8).map (fun i => c.toNat * 8 + i))

/-- Places a context that has no image (R320). -/
def placeFresh (s : State) (ctx : CtxId) (cs : List ClusterId) : State :=
  let s1 := cs.foldl (own ctx) s
  setWall (freshSlice (modCtx s1 ctx (fun c => { c with clusters := cs })) ctx) ctx

/-! ## Taking a context off the chip (R333, R335) -/

/-- The place of a cluster in a list of clusters. -/
def logical (cs : List ClusterId) (cl : Nat) : Nat := (cs.findIdx (fun c => c.toNat == cl))

/-- The parts of a sparse map that lie in a context's shares, renumbered by logical cluster and place in the share. -/
def takeShares {n : Nat} (m : Sparse n) (size : Nat) (cs : List ClusterId) (share : Nat → Option (Nat × Nat)) : Sparse n :=
  ((List.range cs.length).zip cs).flatMap (fun e =>
    match share e.2.toNat with
    | none => []
    | some (first, k) =>
      (AMap.between m (e.2.toNat * size + first) (e.2.toNat * size + first + k)).map
        (fun x => (x.1 - (e.2.toNat * size + first) + e.1 * size, x.2)))

/-- Writes shares back at a new placement. -/
def putShares {n : Nat} (m : Sparse n) (size : Nat) (cs : List ClusterId) (share : Nat → Option (Nat × Nat))
    (img : Sparse n) : Sparse n :=
  img.foldl (fun m x =>
    let cl := (cs.getD (x.1 / size) 0).toNat
    match share cl with
    | none => m
    | some (first, _) => Sparse.write m (cl * size + first + x.1 % size) x.2) m

/-- The window share as first byte and length. -/
def windowShare? (s : State) (ctx : CtxId) (cl : Nat) : Option (Nat × Nat) :=
  (clusterShare? s cl ctx).map (fun x => (x.1, x.2.1))

/-- The operand share in bytes. -/
def operandShare? (s : State) (ctx : CtxId) (cl : Nat) : Option (Nat × Nat) :=
  (slotShare? s cl ctx).map (fun x => (x.1 * 8192, x.2 * 8192))

/-- A token reference is of a task of a context that is off the cores. -/
def refOf (c : Ctx) (r : TokRef) : Bool := (AMap.get? c.coppiced r.uid).isSome

/-- What an image holds of a context. A SLICE image leaves the Pleach table on the part; the others carry it (R357). -/
def imageOf (s : State) (ctx : CtxId) (c : Ctx) (kind : Nat) : Image :=
  let cs := c.clusters
  let ix := (List.range cs.length).zip cs
  let cores := ((List.range (8 * cs.length)).zip (coresIn cs))
  { kind := kind, owner := s.pl.owner == some ctx, ctxid := ctx, ctx := c, resident := residentPart s ctx, ncl := cs.length, tasks := c.coppiced
    copies := ix.flatMap (fun e => (List.range 12).flatMap (fun q =>
      ((queueAt s (e.2.toNat * 12 + q)).copies.filter (fun x => x.ctx == ctx)).map (fun x => (e.1 * 12 + q, x))))
    halts := ix.flatMap (fun e => (List.range 12).filterMap (fun q =>
      ((queueAt s (e.2.toNat * 12 + q)).halted.filter (refOf c)).map (fun r => (e.1 * 12 + q, r))))
    readmit := ix.flatMap (fun e => ((clusterAt s e.2.toNat).readmit.filter (fun u => (AMap.get? c.coppiced u).isSome)).map
      (fun u => (e.1, u)))
    mail := cores.map (fun e => (e.1, mailbox s e.2 ctx))
    deques := cores.map (fun e => (e.1, dequeOf s e.2 ctx))
    limits := cores.filterMap (fun e => (AMap.get? (coreAt s e.2).mboxLim ctx.toNat).map (fun n => (e.1, n)))
    claims := ix.flatMap (fun e =>
      match slotShare? s e.2.toNat ctx with
      | none => []
      | some (first, n) => ((AMap.between (clusterAt s e.2.toNat).claims first (first + n)).map (fun x => e.1 * 512 + (x.1 - first))))
    engines := ix.flatMap (fun e =>
      match engineShare? s e.2.toNat ctx with
      | none => []
      | some (first, n) => (AMap.between s.engines (e.2.toNat * 16 + first) (e.2.toNat * 16 + first + n)).map
          (fun x => (x.1 - (e.2.toNat * 16 + first) + e.1 * 16, x.2)))
    bars := ix.flatMap (fun e =>
      match barShare? s e.2.toNat ctx with
      | none => []
      | some (first, n) => (AMap.between (clusterAt s e.2.toNat).bars first (first + n)).map
          (fun b => (e.1 * 16 + (b.1 - first), b.2)))
    cluwin := takeShares s.cluwin (2 ^ 23) cs (windowShare? s ctx)
    opmem := takeShares s.opmem (2 ^ 22) cs (operandShare? s ctx)
    pcs := takeShares s.pcs 4096 cs (fun cl => counterShare? s cl ctx)
    pl := if s.pl.owner = some ctx ∧ kind ≠ 1 then some s.pl else none, digest := 0 }

/-- The context leaves its clusters: queues, mailboxes, deques and barriers of it are in the image (R333). -/
def clearChip (s : State) (ctx : CtxId) (c : Ctx) : State :=
  let qs := c.clusters.flatMap (fun x => (List.range 12).map (fun q => x.toNat * 12 + q))
  let s1 := qs.foldl (fun s q => modQueue s q (fun x => { x with
    copies := x.copies.filter (fun y => y.ctx != ctx)
    halted := x.halted.filter (fun r => !refOf c r) })) s
  let s2 := (coresIn c.clusters).foldl (fun s k => modCore s k (fun x => { x with
    mbox := AMap.erase x.mbox ctx.toNat, deque := AMap.erase x.deque ctx.toNat, mboxLim := AMap.erase x.mboxLim ctx.toNat })) s1
  let s3 := c.clusters.foldl (fun s x => modCluster s x.toNat (fun k => { k with
    readmit := k.readmit.filter (fun u => (AMap.get? c.coppiced u).isNone)
    bars := match barShare? s2 x.toNat ctx with
      | none => k.bars
      | some (first, n) => AMap.clear k.bars first (first + n) })) s2
  c.clusters.foldl (disown ctx) s3

/-! ## The bytes of an image (R334, R335) -/

/-- A section: its type, its count, its index and its bytes. -/
structure Section where
  type : Nat
  count : Nat
  index : Nat
  bytes : List Byte
  deriving DecidableEq, Repr

/-- A piece of held work in 128 bytes. -/
def heldBytes (h : Held) : List Byte :=
  fit 128 (match h.work with
    | .message m => messageBytes m
    | .launch i => bytesOf 4 1 ++ bytesOf 4 i.slot.toNat ++ bytesOf 4 i.launch ++ bytesOf 4 i.id.toNat ++
        bytesOf 8 i.arg0.toNat ++ bytesOf 8 i.arg1.toNat ++ bytesOf 8 i.index.toNat
    | _ => [])

/-- A deque entry. -/
def forkBytes (h : Held) : List Byte :=
  match h.work with
  | .fork f =>
    bytesOf 8 f.pc.toNat ++ bytesOf 4 f.id.toNat ++ bytesOf 1 f.domain.toNat ++ bytesOf 1 f.home.toNat ++ bytesOf 4 f.off ++
    bytesOf 2 f.lanes.length ++ f.g.flatMap (fun v => bytesOf 8 v.toNat) ++ f.h.flatMap (fun v => bytesOf 32 v.toNat) ++
    f.lanes.flatMap (fun l => bytesOf 1 l.1 ++ l.2.s.flatMap (fun v => bytesOf 4 v.toNat) ++
      bytesOf 1 l.2.p.toNat ++ bytesOf 1 l.2.ff.toNat ++ bytesOf 1 l.2.priv.toNat)
  | _ => []

/-- A replay entry of a copy, 64 bytes. -/
def replayBytes (halted : Bool) (c : Copy) (queue : Nat) (task : Word) : List Byte :=
  bytesOf 32 c.shape.toNat ++ bytesOf 8 c.src.toNat ++ bytesOf 8 c.dst.toNat ++ bytesOf 4 c.run ++ bytesOf 1 queue ++
    bytesOf 1 c.tok.k.toNat ++ bytesOf 1 (if halted then 1 else 0) ++ bytesOf 1 c.tok.group ++ bytesOf 4 task.toNat ++ bytesOf 4 0

/-- A plane. -/
def planeBytes (p : Plane) : List Byte :=
  bytesOf 4 (p.wfmt.toNat + (if p.sparse then 2 ^ 4 else 0) + (if p.bad then 2 ^ 5 else 0)) ++
  (List.range 256).flatMap (fun n => bytesOf 64 (Sparse.read p.cols n).toNat ++ bytesOf 20 (Sparse.read p.scales n).toNat ++
    bytesOf 16 (Sparse.read p.metadata n).toNat)

/-- An engine: both plane stores, the active pointer, then the accumulator banks in logical order (R158, R370). -/
def engineBytes (e : Engine) : List Byte :=
  (if e.store = 0 then planeBytes e.active ++ planeBytes e.shadow else planeBytes e.shadow ++ planeBytes e.active) ++
    bytesOf 4 e.store.toNat ++ (List.range 65536).flatMap (fun n => bytesOf 4 (Sparse.read e.acc n).toNat)

/-- A page-request queue entry. -/
def pageReqBytes (r : PageReq) : List Byte :=
  bytesOf 8 r.unit ++ bytesOf 2 r.ctx.toNat ++ bytesOf 2 r.dest.toNat ++ bytesOf 1 (reasonCode r.reason) ++
    bytesOf 1 (accessCode r.access) ++ bytesOf 2 ((r.peer.map (·.toNat + 2 ^ 15)).getD 0)

/-- A slot descriptor and entry (R240). -/
def bindingBytes (ctx : CtxId) (slot : Nat) (b? : Option Binding) : List Byte :=
  match b? with
  | none => List.replicate 16 0
  | some b =>
    bytesOf 8 (slot % 64 + b.glog * 2 ^ 8 + b.window * 2 ^ 16 + b.domain.toNat * 2 ^ 22 + (if slot = 64 then 2 ^ 24 else 0) + ctx.toNat * 2 ^ 32) ++
      bytesOf 8 b.entry.toNat

/-- A section of the context's own registers. -/
def contextBytes (ctx : CtxId) (c : Ctx) : List Byte :=
  bytesOf 4 c.parkLim.toNat ++ bytesOf 4 c.budget.toNat ++ bytesOf 4 c.budgetCfg.toNat ++ bytesOf 4 c.expiries ++
  (List.range 65).flatMap (fun n => bindingBytes ctx n (AMap.get? c.binds n)) ++
  bytesOf 4 c.launchPlace.ptr ++ (List.range 256).flatMap (fun n => bytesOf 1 (c.launchPlace.balance n % 256).toNat) ++
  bytesOf 8 c.coppiceList.toNat ++ bytesOf 8 c.ovfBase ++ bytesOf 4 (overflowFirst c) ++ bytesOf 4 c.ovfIndex ++ bytesOf 4 c.ovfLog ++
  bytesOf 4 c.pageQ.length ++ c.pageQ.flatMap pageReqBytes

/-- A saved task's frame. -/
def frameOf (c : Coppiced) : List Byte := Mem.bytes c.bytes 0 (0x80000 + c.task.winUnits * 16384)

/-- A cluster barrier. -/
def barBytes (tasks : List (Nat × Coppiced)) (b? : Option Barrier) : List Byte :=
  match b? with
  | none => bytesOf 16 0
  | some b =>
    let id := fun (u : Nat) => (((AMap.get? tasks u).map (fun c => c.task.taskId.toNat)).getD 0)
    bytesOf 4 b.generation.toNat ++ bytesOf 4 b.members.length ++ bytesOf 4 b.arrived.length ++ bytesOf 4 0 ++
      b.members.flatMap (fun u => bytesOf 4 (id u)) ++ b.arrived.flatMap (fun a => bytesOf 4 (id a.1) ++ bytesOf 4 a.2)

/-- The Pleach table's section. -/
def pleachBytes (p : Pleach) : List Byte :=
  (List.range 512).flatMap (fun n => bytesOf 16 (AMap.getD p.entries n PlEntry.init).bits.toNat ++
    bytesOf 8 (AMap.getD p.entries n PlEntry.init).stamp.toNat) ++
  bytesOf 4 (p.len.toNat + p.head.toNat * 2 ^ 16) ++ bytesOf 4 p.up.toNat ++ bytesOf 4 p.down.toNat ++
  bytesOf 4 (p.status.toNat + p.errIx.toNat * 2 ^ 16) ++ bytesOf 8 p.clock.toNat ++
  p.bubbles.flatMap (fun v => bytesOf 8 v.toNat) ++
  (p.stash ++ p.credA ++ p.credG ++ p.arrA.map (·.length) ++ p.arrG.map (·.length)).flatMap (bytesOf 4)

/-- The sections of an image in the order of their types. -/
def sections (i : Image) : List Section :=
  let none' := 0xFFFFFFFF
  let cl := List.range i.ncl
  let cores := List.range (8 * i.ncl)
  let coreSections := fun (ty : Nat) (l : List (Nat × List Held)) (f : Held → List Byte) =>
    cores.map (fun k => let hs := AMap.getD l k []; (⟨ty, hs.length, k, hs.flatMap f⟩ : Section))
  let saved := i.tasks.filter (fun t => t.2.saved)
  let off := i.tasks.filter (fun t => !t.2.saved)
  let idOf := fun (u : Nat) => ((AMap.get? i.tasks u).map (fun c => c.task.taskId)).getD 0
  let claimMap := fun (k : Nat) => (List.range 64).map (fun b => BitVec.ofNat 8
    ((List.range 8).foldl (fun n j => if i.claims.contains (k * 512 + b * 8 + j) then n + 2 ^ j else n) 0))
  let half := if i.resident then 2 else 1
  [⟨1, 1, none', contextBytes i.ctxid i.ctx⟩] ++
  saved.map (fun t => ⟨2, 1, none', frameOf t.2⟩) ++
  cores.map (fun k =>
    let es := i.copies.filter (fun e => e.1 / 12 == k / 8 && e.2.core % 8 == k % 8)
    ⟨3, es.length, k, es.flatMap (fun e => replayBytes (i.halts.any (fun h => h.1 == e.1)) e.2 (e.1 % 12) (idOf e.2.tok.uid))⟩) ++
  coreSections 4 i.mail heldBytes ++ coreSections 5 i.deques forkBytes ++
  cl.map (fun k => ⟨6, 1, k, Mem.bytes i.cluwin (k * 2 ^ 23) (2 ^ 23 / half)⟩) ++
  cl.map (fun k => ⟨7, 1, k, claimMap k ++ Mem.bytes i.opmem (k * 2 ^ 22) (2 ^ 22 / half)⟩) ++
  cl.map (fun k => ⟨8, 4096 / half, k, (List.range (4096 / half)).flatMap (fun n => bytesOf 4 (Sparse.read i.pcs (k * 4096 + n)).toNat)⟩) ++
  cl.flatMap (fun k => (List.range (16 / half)).map (fun n =>
    ⟨9, 1, k, bytesOf 4 n ++ engineBytes (AMap.getD i.engines (k * 16 + n) Engine.init)⟩)) ++
  cl.map (fun k => ⟨10, 16, k, (List.range 16).flatMap (fun n => barBytes i.tasks (AMap.get? i.bars (k * 16 + n)))⟩) ++
  [⟨11, off.length, none', off.flatMap (fun t => bytesOf 8 t.2.frame.toNat ++ bytesOf 4 t.2.task.taskId.toNat ++
    bytesOf 4 ((if t.2.fork.isSome then 1 else 0) + (if i.readmit.any (fun e => e.2 == t.1) then 2 else 0)))⟩] ++
  (match i.pl with | some p => [⟨12, 1, none', pleachBytes p⟩] | none => [])

/-- A length rounded up to a multiple of 128. -/
def up128 (n : Nat) : Nat := (n + 127) / 128 * 128

/-- Lays out sections from an offset: the table entries, and the bytes with their padding. -/
def layOut : Nat → List Section → List Byte × List Byte
  | _, [] => ([], [])
  | off, x :: r =>
    let n := x.bytes.length
    let t := layOut (off + up128 n) r
    (bytesOf 2 x.type ++ bytesOf 2 1 ++ bytesOf 4 1 ++ bytesOf 8 off ++ bytesOf 8 n ++ bytesOf 4 x.count ++ bytesOf 4 x.index ++ t.1,
     fit (up128 n) x.bytes ++ t.2)

/-- The bytes of an image from its section table on. -/
def imageBody (i : Image) : List Byte :=
  let ss := sections i
  let first := up128 (0x80 + 32 * ss.length)
  let l := layOut first ss
  fit (first - 0x80) l.1 ++ l.2

/-- The image header (R334). -/
def imageHeader (i : Image) (nsect : Nat) (body : List Byte) (digest : BitVec 512) : List Byte :=
  bytesOf 4 0x4D494856 ++ bytesOf 2 1 ++ bytesOf 2 0 ++ bytesOf 4 i.kind ++ bytesOf 4 i.ctxid.toNat ++
  bytesOf 8 (vtime i.ctx).toNat ++ bytesOf 4 nsect ++
  bytesOf 4 ((if i.resident then 1 else 0) + (if i.owner then 2 else 0) + 4) ++
  bytesOf 8 (0x80 + body.length) ++ bytesOf 4 0x80 ++ bytesOf 4 i.ncl ++ List.replicate 16 0 ++ bytesOf 64 digest.toNat

/-! ## The save (R333, R334) -/

/-- The answer to those who asked for a save: a host's SAVE with the image's bytes, its pause with none. An extent that is too
small is reported with the need, in an error record where no host post waits for it (R334; DESIGN CHOICE: log 34). -/
def saveReply (s : State) (ctx : CtxId) (p : SavePlan) (status bytes : Nat) : State :=
  match p.reply with
  | .host fn tag => hostAnswer s fn tag status (BitVec.ofNat 64 (if p.kind = 1 ∧ status = 0 then 0 else bytes))
  | _ => if status = 0 then s else errorRecord s (.need ctx bytes)

/-- The context goes on where it is: its saved tasks wait for their cores (R336, R413). -/
def resumeHere (s : State) (ctx : CtxId) (c : Ctx) : State :=
  let s1 := c.clusters.foldl (fun s x => modCluster s x.toNat (fun k => { k with preempt := k.preempt.filter (fun y => y != ctx) })) s
  let s2 := modCtx s1 ctx (fun c => { c with plan := none })
  setWall ((c.coppiced.filter (fun t => t.2.saved)).foldl (fun s t => queueReadmit s t.2.cluster t.1) s2) ctx

/-- The context that follows one in its partition's rotation (R331, R402). -/
def nextInRotation (s : State) (ctx : CtxId) (c : Ctx) : Option CtxId :=
  match AMap.get? s.parts c.part with
  | none => none
  | some p =>
    let n := min 64 (natOfBytes ((p.block.drop 0x80).take 2))
    let l := (List.range n).map (fun i => natOfBytes ((p.block.drop (2 * i)).take 2))
    if l.contains ctx.toNat then
      (l[(l.findIdx (· == ctx.toNat) + 1) % n]?).map (BitVec.ofNat 12)
    else l.head?.map (BitVec.ofNat 12)

/-- A mask of clusters. -/
def maskOfClusters (cs : List ClusterId) : BitVec 32 := cs.foldl (fun m c => m ||| (1#32 <<< c.toNat)) 0

/-- Firmware places the next context of the rotation on the clusters that a slice end has freed (R331). -/
def rotateSlices (s : State) (ctx : CtxId) (c : Ctx) : State :=
  match nextInRotation s ctx c with
  | none => s
  | some n =>
    match ctxAt? s n with
    | none => s
    | some x =>
      if !x.clusters.isEmpty then s
      else if (AMap.get? s.images x.imageBase).isSome then
        { s with agenda := s.agenda ++ [.event (.contextRestore (BitVec.ofNat 44 x.imageBase) (maskOfClusters c.clusters))] }
      else if c.clusters.all (canOwn s n) then placeFresh s n c.clusters
      else s

/-- A context ends: its number is free (R401), and the messages that the message router holds for it find no context (R235). -/
def dropCtx (s0 : State) (ctx : CtxId) : State :=
  let base := ((ctxAt? s0 ctx).map (·.imageBase)).getD 0
  let held := ((ctxAt? s0 ctx).map (·.routerHeld)).getD []
  let s := dropSpace false s0 ctx.toNat
  held.foldl arriveTask { s with
    ctxs := AMap.erase s.ctxs ctx.toNat
    images := if ((AMap.get? s.images base).map (·.ctxid)) = some ctx then AMap.erase s.images base else s.images
    calls := s.calls.filter (fun c => c.2.ctx != ctx) }

/-- A saved context leaves the chip (R333): a SLICE pauses it, a MIGRATE or DUMP image that it does not resume from ends it; the
image stays in its extent (R336, R397). -/
def leaveChip (s : State) (ctx : CtxId) (c : Ctx) (kind : Nat) (img : Image) : State :=
  let s1 := modCtx (clearChip s ctx c) ctx (fun c => { c with clusters := [], plan := none, coppiced := [] })
  if kind = 1 then s1
  else
    let s2 := dropCtx s1 ctx
    { s2 with images := AMap.put s2.images c.imageBase img }

/-- The records of a context have completed, those of its trapped tasks too, and so have the copies that run (R36, R158, R332,
R370). -/
def allLanded (s : State) (ctx : CtxId) : Bool :=
  !s.posts.any (fun p => p.2.any (fun r => r.ctx == ctx)) &&
  !s.engines.any (fun e => (e.2.runs.map (·.record) ++ e.2.pending.toList).any (fun r => r.ctx == ctx)) &&
  !s.queues.any (fun q => q.2.halted.isNone && ((q.2.copies.head?.map (fun c => c.ctx == ctx && c.stopped.isNone && !savedOff s c.tok.uid)).getD false))

/-- Every task of a context has ended or been saved on its pre-empted clusters: the context is saved into its image and leaves
the chip, or goes on (R330, R333, R334, R336). A request for some of its clusters spreads to all of them once they are clear, since
an image is of a whole context (DEDUCED: log 47). -/
def execContextSave (ctx : CtxId) (s : State) : Out State :=
  match ctxAt? s ctx with
  | none => .next s
  | some c0 =>
    match c0.plan with
    | none => .next s
    | some p =>
      let inHand := c0.clusters.filter (fun x => preempted s x.toNat ctx)
      if c0.stuck || inHand.isEmpty || (tasksOf s ctx).any (fun e => preempted s (clusterOfCore (e.1 / 32)) ctx) then .next s
      else if inHand.length < c0.clusters.length then .next (requestPreempt s ctx 0xFFFFFFFF p)
      else if !allLanded s ctx then .next s
      else
        let s1 := (coresIn c0.clusters).foldl (fun s k => acquire (publish s k) k)
          (modCtx s ctx (fun c => { c with vtFrozen := true }))
        let c : Ctx := { c0 with vtFrozen := true }
        let img := imageOf s1 ctx c p.kind
        let body := imageBody img
        let total := 0x80 + body.length
        if c.imageSize < total then .next (saveReply (modCtx s1 ctx (fun c => { c with stuck := true })) ctx p 0x22 total)
        else
          match paStops? [c.imageBase, c.imageBase + total - 1] with
          | some o => o
          | none =>
            let d := shake256 body
            let s2 := perform s1 c.imageBase (imageHeader img (sections img).length body d ++ body)
            let s3 := { s2 with
              images := AMap.put s2.images c.imageBase { img with digest := d }
              pl := if s2.pl.owner = some ctx ∧ p.kind ≠ 1 then { s2.pl with owner := none } else s2.pl }
            if p.kind ≠ 1 ∧ p.resume then .next (saveReply (resumeHere s3 ctx c) ctx p 0 total)
            else
              let s5 := saveReply (leaveChip s3 ctx c p.kind { img with digest := d }) ctx p 0 total
              .next (if p.resume then rotateSlices s5 ctx c else s5)

/-! ## The restore (R336) -/

/-! An image of another part: the model's own numbers in it are moved up, so that none is in use here. -/

def Message.shift (k : Nat) (m : Message) : Message := { m with serial := if m.serial = 0 then 0 else m.serial + k }

def Work.shift (n k : Nat) : Work → Work
  | .launch i => .launch { i with launch := i.launch + n }
  | .message m => .message (m.shift k)
  | w => w

def Held.shift (n k : Nat) (h : Held) : Held := { h with work := h.work.shift n k, heldFor := h.heldFor.map (· + k) }

def Barrier.shift (n : Nat) (b : Barrier) : Barrier :=
  { b with members := b.members.map (· + n), arrived := b.arrived.map (fun a => (a.1 + n, a.2)) }

def Coppiced.shift (n k : Nat) (c : Coppiced) : Coppiced :=
  { c with
    task := { c.task with
      uid := c.task.uid + n, work := c.task.work.shift n k, bars := c.task.bars.map (fun b => (b.1, b.2.shift n)) }
    parked := c.parked.map (fun e => { e with uid := e.uid + n })
    sidelog := c.sidelog.map (fun e => { e with uid := e.uid + n }) }

/-- A token reference of an automatic send names an entry and no task (R350). -/
def TokRef.shift (n : Nat) (r : TokRef) : TokRef := if r.uid = 0 then r else { r with uid := r.uid + n }

/-- The entries of a Pleach table whose tasks have trapped name their traps (R355). -/
def Pleach.shift (k : Nat) (p : Pleach) : Pleach :=
  { p with entries := p.entries.map (fun e => (e.1, { e.2 with issued := e.2.issued.map (fun x =>
      match x with
      | .trapped n => .trapped (if n = 0 then 0 else n + k)
      | x => x) })) }

/-- An image with its task and launch numbers moved up by n, its trap numbers by k. -/
def Image.shift (n k : Nat) (i : Image) : Image :=
  { i with
    tasks := i.tasks.map (fun t => (t.1 + n, t.2.shift n k))
    ctx := { i.ctx with
      coppiced := i.ctx.coppiced.map (fun t => (t.1 + n, t.2.shift n k)), ovf := i.ctx.ovf.map (fun e => (e.1, e.2.shift k)) }
    pl := i.pl.map (Pleach.shift k)
    copies := i.copies.map (fun e => (e.1, { e.2 with tok := e.2.tok.shift n }))
    halts := i.halts.map (fun e => (e.1, e.2.shift n))
    readmit := i.readmit.map (fun e => (e.1, e.2 + n))
    mail := i.mail.map (fun e => (e.1, e.2.map (Held.shift n k)))
    deques := i.deques.map (fun e => (e.1, e.2.map (Held.shift n k)))
    bars := i.bars.map (fun b => (b.1, b.2.shift n)) }

/-- A bound of the numbers in an image. -/
def Image.top (i : Image) : Nat :=
  let held : List Held := (i.mail ++ i.deques).flatMap (fun (e : Nat × List Held) => e.2)
  let works : List Work := held.map Held.work ++ i.tasks.map (fun (t : Nat × Coppiced) => t.2.task.work)
  let uids : List Nat := i.tasks.map (fun (t : Nat × Coppiced) => t.1) ++ i.copies.map (fun (c : Nat × Copy) => c.2.tok.uid) ++
    i.halts.map (fun (h : Nat × TokRef) => h.2.uid)
  let others : List Nat := works.map (fun (w : Work) => match w with | .launch x => x.launch | .message m => m.serial | _ => 0) ++
    held.map (fun (h : Held) => h.heldFor.getD 0) ++ i.ctx.ovf.map (fun (e : Nat × Message) => e.2.serial) ++
    (i.pl.map (fun p => p.entries.map (fun (e : Nat × PlEntry) => match e.2.issued with | some (.trapped n) => n | _ => 0))).getD []
  (uids ++ others).foldl max 0

/-- The host writes an image that another Vexhorn has saved into an extent: an image is valid on every Vexhorn (R158, R336,
R370). -/
def putImage (s : State) (pa : Nat) (i : Image) : Out State :=
  let j := i.shift s.uid s.serial
  let body := imageBody j
  match paStops? [pa, pa + 0x80 + body.length - 1] with
  | some o => o
  | none =>
    let d := shake256 body
    let s1 := perform s pa (imageHeader j (sections j).length body d ++ body)
    .next { s1 with
      images := AMap.put s1.images pa { j with digest := d }, uid := s.uid + i.top + 1, serial := s.serial + i.top + 1 }

/-- A section-table entry that a loader must refuse: REQUIRED, of an unknown TYPE. -/
def badSection (s : State) (a : Nat) : Bool :=
  let ty := natOfBytes (memBytes s a 2)
  (ty == 0 || decide (13 < ty)) && natOfBytes (memBytes s (a + 4) 1) % 2 == 1

/-- The image at an address, if a loader accepts it (R336). Its contents are found by the digest of its bytes (DESIGN CHOICE: log 24). -/
def loadable? (s : State) (a : Nat) : Option Image :=
  let rd := fun (o n : Nat) => natOfBytes (memBytes s (a + o) n)
  let total := rd 0x20 8
  let secs := rd 0x28 4
  let d : BitVec 512 := BitVec.ofNat 512 (rd 0x40 64)
  if !plainMem a || !plainMem (a + total) || rd 0 4 != 0x4D494856 || rd 4 2 != 1 || rd 8 4 == 3 ||
      (List.range (rd 0x18 4)).any (fun i => badSection s (a + secs + 32 * i)) ||
      shake256 (memBytes s (a + secs) (total - secs)) != d then none
  else (s.images.find? (fun e => e.2.digest == d && e.2.kind == rd 8 4)).map (·.2)

/-- Where an absolute address of a cluster's window or counters stands on the new placement. -/
def moved (old new : List ClusterId) (size half : Nat) (first : Nat → Nat) (a : Nat) : Nat :=
  let cl := (new.getD (logical old (a / size)) 0).toNat
  cl * size + first cl + a % size % half

/-- A fork image on the new placement. -/
def moveFork (mv : Nat → Nat) (f : ForkImage) : ForkImage :=
  { f with off := mv f.off, home := BitVec.ofNat 5 (mv f.off / 2 ^ 23) }

def moveWork (mv : Nat → Nat) : Work → Work
  | .fork f => .fork (moveFork mv f)
  | w => w

/-- The context's own queues and rings. An image that has left the part brings them back, before what has come for the context since; a
SLICE leaves them on the part (R305, R323, R336). -/
def Ctx.reload (i : Image) (c : Ctx) : Ctx :=
  if i.kind = 1 then c
  else
    { c with
      pageQ := i.ctx.pageQ ++ c.pageQ, coppiceList := i.ctx.coppiceList, ovfBase := i.ctx.ovfBase, ovfLog := i.ctx.ovfLog
      ovf := i.ctx.ovf ++ ((List.range c.ovf.length).zip c.ovf).map (fun e => (i.ctx.ovfIndex + e.1, e.2.2))
      ovfIndex := i.ctx.ovfIndex + c.ovf.length }

/-- Restores what an image holds to the clusters that the context now owns (R336). -/
def loadImage (s : State) (i : Image) (cs : List ClusterId) : State :=
  let ctx := i.ctxid
  let old := i.ctx.clusters
  let half := if i.resident then 2 else 1
  let mv := moved old cs (2 ^ 23) (2 ^ 23 / half) (fun cl => ((windowShare? s ctx cl).map (·.1)).getD 0)
  let mvc := moved old cs 4096 (4096 / half) (fun cl => ((counterShare? s cl ctx).map (·.1)).getD 0)
  let phys := fun (k : Nat) => (cs.getD (k / 8) 0).toNat * 8 + k % 8
  let cl := fun (k : Nat) => (cs.getD k 0).toNat
  let tasks := i.tasks.map (fun t => (t.1, { t.2 with
    cluster := cs.getD (logical old t.2.cluster.toNat) 0, fork := t.2.fork.map mv
    task := { t.2.task with
      work := moveWork mv t.2.task.work
      fromCore := phys (logical old (t.2.task.fromCore / 8) * 8 + t.2.task.fromCore % 8) } }))
  let s1 := i.mail.foldl (fun s e => modCore s (phys e.1) (fun c => { c with mbox := AMap.put c.mbox ctx.toNat e.2 })) s
  let s2 := i.deques.foldl (fun s e => modCore s (phys e.1) (fun c => { c with
    deque := AMap.put c.deque ctx.toNat (e.2.map (fun h => { h with work := moveWork mv h.work })) })) s1
  let s3 := i.limits.foldl (fun s e => modCore s (phys e.1) (fun c => { c with mboxLim := AMap.put c.mboxLim ctx.toNat e.2 })) s2
  let s4 := i.claims.foldl (fun s e =>
    let first := ((slotShare? s (cl (e / 512)) ctx).map (·.1)).getD 0
    modCluster s (cl (e / 512)) (fun c => { c with claims := AMap.put c.claims (first + e % 512) ctx })) s3
  let s5 := i.bars.foldl (fun s e =>
    let first := ((barShare? s (cl (e.1 / 16)) ctx).map (·.1)).getD 0
    modCluster s (cl (e.1 / 16)) (fun c => { c with bars := AMap.put c.bars (first + e.1 % 16) e.2 })) s4
  let s6 := i.copies.foldl (fun s e => modQueue s (cl (e.1 / 12) * 12 + e.1 % 12) (fun q => { q with copies := q.copies ++ [e.2] })) s5
  let s7 := i.halts.foldl (fun s e => modQueue s (cl (e.1 / 12) * 12 + e.1 % 12) (fun q => { q with halted := some e.2 })) s6
  let s8 := { s7 with
    cluwin := putShares s7.cluwin (2 ^ 23) cs (windowShare? s7 ctx) i.cluwin
    opmem := putShares s7.opmem (2 ^ 22) cs (operandShare? s7 ctx) i.opmem
    pcs := putShares s7.pcs 4096 cs (fun c => counterShare? s7 c ctx) i.pcs
    engines := i.engines.foldl (fun m e =>
      let first := ((engineShare? s7 (cl (e.1 / 16)) ctx).map (·.1)).getD 0
      AMap.put m (cl (e.1 / 16) * 16 + first + e.1 % 16) e.2) s7.engines
    launches := s7.launches.map (fun l => (l.1,
      if l.2.ctx = ctx then { l.2 with dec0 := l.2.dec0.map mvc, dec1 := l.2.dec1.map mvc } else l.2))
    pl := match i.pl with
      | some p => if s7.pl.owner.isNone then { p with owner := some ctx } else s7.pl
      | none => s7.pl }
  let s9 := modCtx (freshSlice s8 ctx) ctx (fun c => { c.reload i with
    clusters := cs, coppiced := tasks, parkLim := i.ctx.parkLim, budget := i.ctx.budget, budgetCfg := i.ctx.budgetCfg
    expiries := i.ctx.expiries, binds := i.ctx.binds, launchPlace := i.ctx.launchPlace, vtBase := i.ctx.vtBase
    vtCycles := i.ctx.vtCycles, vtFrozen := true, plan := none, stuck := false })
  let s10 := i.readmit.foldl (fun s e => queueReadmit s (cs.getD e.1 0) e.2) s9
  let s10 := (tasks.filter (fun t => t.2.saved)).foldl (fun s t => queueReadmit s t.2.cluster t.1) s10
  forkReady ((coresIn cs).foldl acquire s10)

/-- A loader's restore of an image on clusters; none when it refuses (R320, R336). -/
def restoreImage (s : State) (a : Nat) (mask : BitVec 32) : Option State :=
  match loadable? s a with
  | none => none
  | some i =>
    let cs := clustersOf mask
    let placed := ((ctxAt? s i.ctxid).map (fun c => c.clusters.isEmpty)).getD false
    if cs.length ≠ i.ncl ∨ residentPart s i.ctxid ≠ i.resident ∨ !placed ∨ !cs.all (canOwn s i.ctxid) then none
    else some (setWall (loadImage (cs.foldl (own i.ctxid) s) i cs) i.ctxid)

/-- A loader checks an image and restores its context on a new placement (R336). -/
def execContextRestore (image : BitVec 44) (clusters : BitVec 32) (s : State) : Out State :=
  match restoreImage s image.toNat clusters with
  | none => .next s
  | some s1 => .next s1

end Sys2Proof.Machine
end

