-- ==== Sys2Proof/Machine/PleachEvents.lean ====
section
/-! DEFINITION. The Pleach table at work: its walk, the ends of its tasks, and the messages it takes (R344 to R357). -/

namespace Sys2Proof.Machine

/-! ## The fields of an entry (R343) -/

def enCset (b : BitVec 128) : BitVec 32 := b.extractLsb' 96 32
def enSlot (b : BitVec 128) : BitVec 6 := b.extractLsb' 90 6
def enMb (b : BitVec 128) : BitVec 8 := b.extractLsb' 82 8
def enVstage (b : BitVec 128) : BitVec 4 := b.extractLsb' 78 4
def enTstage (b : BitVec 128) : BitVec 4 := b.extractLsb' 74 4
def enKind (b : BitVec 128) : BitVec 3 := b.extractLsb' 71 3
def enOvt (b : BitVec 128) : Bool := b.getLsbD 70
def enHlt (b : BitVec 128) : Bool := b.getLsbD 69
def enIn (b : BitVec 128) : BitVec 2 := b.extractLsb' 62 2
def enOut (b : BitVec 128) : BitVec 2 := b.extractLsb' 60 2
def enStop (b : BitVec 128) : BitVec 2 := b.extractLsb' 58 2
def enScnt (b : BitVec 128) : Nat := (b.extractLsb' 51 7).toNat
def enAsend (b : BitVec 128) : Bool := b.getLsbD 50

/-- Bits of an N entry that may be set: KIND, OVT, HLT. -/
def enNBits : BitVec 128 := 0x3E00000000000000000#128

/-- The clusters on which a context is placed. -/
def placedMask (s : State) (ctx : CtxId) : BitVec 32 :=
  (((ctxAt? s ctx).map (·.clusters)).getD []).foldl (fun m c => m ||| (1#32 <<< c.toNat)) 0

/-- An invalid entry (R344). -/
def invalidEntry (s : State) (owner : CtxId) (b : BitVec 128) : Bool :=
  b.extractLsb' 64 5 != 0 || b.extractLsb' 0 47 != 0 || decide (4 < (enKind b).toNat) || enIn b == 3 || enStop b == 3 ||
  decide (64 < enScnt b) || (enAsend b && enOut b == 0) || (enHlt b && enKind b != 4) ||
  (if enKind b = 4 then b &&& ~~~enNBits != 0
   else enCset b == 0 || enCset b &&& ~~~placedMask s owner != 0)

/-! ## Whether an entry can issue (R347) -/

/-- Issued TURN entries for a stage that have not arrived. -/
def turnsOut (p : Pleach) (st : BitVec 4) : Nat :=
  (p.entries.filter (fun e => e.2.issued.isSome && enOut e.2.bits == 3 && enTstage e.2.bits == st)).length

/-- The work of an entry's task. -/
def entryWork (owner : CtxId) (ix : Nat) (b : BitVec 128) (id : Word) : Work :=
  .pleach (BitVec.ofNat 9 ix) owner (enSlot b) (enMb b) (enVstage b) id

/-- The binding of an entry's slot. -/
def entryBinding? (s : State) (owner : CtxId) (b : BitVec 128) : Option Binding :=
  (ctxAt? s owner).bind (fun c => AMap.get? c.binds (enSlot b).toNat)

/-- The cores that can admit an entry's task now (R347, R349). -/
def entryCores (s : State) (owner : CtxId) (b : BitVec 128) (bd : Binding) : List Nat :=
  (coresOf s owner).filter (fun c =>
    (enCset b).getLsbD (c / 8) && admitting? s c == some owner &&
    (fits? s c (issuingBank s c) (2 ^ bd.glog) bd.window).isSome)

/-- The first condition of R347 that an entry fails. -/
inductive Stall where
  | input
  | stash
  | output
  | busy
  deriving DecidableEq, Repr

def entryInput (p : Pleach) (b : BitVec 128) : Bool :=
  match (enIn b).toNat with
  | 1 => !(p.arrA.getD (enVstage b).toNat []).isEmpty
  | 2 => !(p.arrG.getD (enVstage b).toNat []).isEmpty
  | _ => true

def entryStash (p : Pleach) (b : BitVec 128) : Bool :=
  enStop b != 1 || decide (enScnt b ≤ p.stash.getD (enVstage b).toNat 0)

def entryOutput (p : Pleach) (b : BitVec 128) : Bool :=
  match (enOut b).toNat with
  | 1 => p.credA.getD (enTstage b).toNat 0 != 0
  | 2 => p.credG.getD (enTstage b).toNat 0 != 0
  | 3 => decide ((p.arrG.getD (enTstage b).toNat []).length + turnsOut p (enTstage b) < 16)
  | _ => true

/-- What keeps an entry from issuing; an entry that is still issued is BUSY (R348). -/
def stallOf? (s : State) (owner : CtxId) (e : PlEntry) : Option Stall :=
  if e.issued.isSome then some .busy
  else if enKind e.bits = 4 then none
  else if !entryInput s.pl e.bits then some .input
  else if !entryStash s.pl e.bits then some .stash
  else if !entryOutput s.pl e.bits then some .output
  else
    match entryBinding? s owner e.bits with
    | none => some .busy
    | some bd => if (entryCores s owner e.bits bd).isEmpty then some .busy else none

/-! ## Issue (R347 to R349) -/

/-- Starts the task of an entry on a core of the placement order (R349). -/
def startEntry (s : State) (owner : CtxId) (ix : Nat) (b : BitVec 128) (bd : Binding) : State :=
  match choosePlace s.determActive (weightOf s) true (entryCores s owner b bd) s.pl.place with
  | none => s
  | some (c, pl) =>
    match fits? s c (issuingBank s c) (2 ^ bd.glog) bd.window with
    | none => s
    | some f =>
      let w := entryWork owner ix b (dieId kPleach 65 s.plIds)
      let s1 := modEntry (modPl { s with plIds := s.plIds + 1 } (fun p => { p with place := pl })) ix
        (fun e => { e with issued := some .running })
      admitTask s1 c c f (startOf owner w bd)

/-- The counts that an entry consumes as it issues, all in one cycle (R347). -/
def consumeFor (b : BitVec 128) (p : Pleach) : Pleach :=
  let v := (enVstage b).toNat
  let t := (enTstage b).toNat
  let p1 : Pleach := match (enIn b).toNat with
    | 1 => { p with arrA := p.arrA.set v (p.arrA.getD v []).tail }
    | 2 => { p with arrG := p.arrG.set v (p.arrG.getD v []).tail }
    | _ => p
  let p2 : Pleach := if enStop b = 1 then { p1 with stash := p1.stash.set v (p1.stash.getD v 0 - enScnt b) } else p1
  match (enOut b).toNat with
  | 1 => { p2 with credA := p2.credA.set t (p2.credA.getD t 0 - 1) }
  | 2 => { p2 with credG := p2.credG.set t (p2.credG.getD t 0 - 1) }
  | _ => p2

/-- The source of the arrival that an entry consumes: the oldest. -/
def consumedBy (p : Pleach) (b : BitVec 128) : Option ArrSource :=
  match (enIn b).toNat with
  | 1 => (p.arrA.getD (enVstage b).toNat []).head?
  | 2 => (p.arrG.getD (enVstage b).toNat []).head?
  | _ => none

/-- An entry issues: its timestamp is the walk clock; an N entry starts no task, and with HLT halts the walk (R344, R351). -/
def issueEntry (s : State) (owner : CtxId) (ix : Nat) : State :=
  let e := plEntry s ix
  let s1 := modEntry s ix (fun x => { x with stamp := s.pl.clock, consumed := consumedBy s.pl e.bits })
  if enKind e.bits = 4 then
    if enHlt e.bits then modPl s1 (fun p => { p with running := false }) else s1
  else
    match entryBinding? s owner e.bits with
    | none => s1
    | some bd => startEntry (modPl s1 (consumeFor e.bits)) owner ix e.bits bd

/-- The entry after one in the walk. -/
def afterEntry (p : Pleach) (ix : Nat) : Nat := (ix + 1) % p.len.toNat

/-- The head advances past its entry, and past the next when that has overtaken it (R348). -/
def advanceHead (p : Pleach) : Pleach :=
  let n := afterEntry p p.head.toNat
  let two := n != p.head.toNat && (AMap.getD p.entries n PlEntry.init).overtaken
  { p with
    head := BitVec.ofNat 9 (if two then afterEntry p n else n)
    entries := if two then AMap.modify p.entries n (fun e => { e with overtaken := false }) else p.entries }

/-- The entry after the head may issue in its place (R348); an N entry needs nothing (R344) (DEDUCED: log 56). -/
def canOvertake (s : State) (owner : CtxId) (n : Nat) : Bool :=
  let e := plEntry s n
  n != s.pl.head.toNat && enOvt e.bits && !e.overtaken && !invalidEntry s owner e.bits &&
  (stallOf? s owner e).isNone

/-! ## Charging a stalled cycle (R353) -/

/-- The entry of a table task. -/
def entryOf? (t : Task) : Option Nat := match t.work with | .pleach e .. => some e.toNat | _ => none

/-- A pre-emption of the owner is pending on a cluster of the head's CSET, or a table task is saved. -/
def stallPreempt (s : State) (owner : CtxId) (head : BitVec 128) : Bool :=
  (List.range 32).any (fun c => (enCset head).getLsbD c && preempted s c owner) ||
  (((ctxAt? s owner).map (·.coppiced)).getD []).any (fun e => e.2.saved && (entryOf? e.2.task).isSome)

/-- A table task is coppiced or fault-parked, or waits to start again. -/
def stallFault (s : State) (owner : CtxId) : Bool :=
  (((ctxAt? s owner).map (·.coppiced)).getD []).any (fun e => !e.2.saved && (entryOf? e.2.task).isSome) ||
  s.tasks.any (fun t => (entryOf? t.2).isSome &&
    t.2.groups.any (fun g => ((AMap.get? s.groups g).bind (·.parked)).isSome)) ||
  s.pl.entries.any (fun e =>
    match e.2.issued with
    | some (.trapped n) => n != 0
    | some .restart => true
    | _ => false)

/-- The bubble counter that a stalled cycle advances: IN 0, OUT 1, STASH 2, BUSY 3, FAULT 4, PREEMPT 5. -/
def bubbleOf (s : State) (owner : CtxId) (head : BitVec 128) (w : Stall) : Nat :=
  if stallPreempt s owner head then 5
  else if stallFault s owner then 4
  else match w with | .input => 0 | .output => 1 | .stash => 2 | .busy => 3

/-- A bubble counter advances. -/
def bubble (p : Pleach) (n : Nat) : Pleach := { p with bubbles := p.bubbles.set n (p.bubbles.getD n 0 + 1) }

/-- The head stalls on an unbound slot: an UNBOUND message for each 2^20 cycles of the stall, which are cycles of the running walk
(R347). -/
def unboundStall (s : State) (owner : CtxId) (head : PlEntry) (w : Stall) : State :=
  if w = .busy ∧ head.issued.isNone ∧ (entryBinding? s owner head.bits).isNone then
    match (coresOf s owner).head? with
    | none => s
    | some core =>
      if 2 ^ 20 ≤ s.pl.unboundFor + 1 then
        let id := dieId kUnbound 65 s.plIds
        let s1 := modPl { s with plIds := s.plIds + 1 } (fun p => { p with unboundFor := 0 })
        inject s1 { supvMessage core owner id ((enSlot head.bits).setWidth 64) 0 none 0 with agent := .pleachTable }
      else modPl s (fun p => { p with unboundFor := p.unboundFor + 1 })
  else modPl s (fun p => { p with unboundFor := 0 })

/-! ## One cycle of the walk (R348, R352) -/

/-- The walk clock advances. -/
def tickClock (s : State) : State := modPl s (fun p => { p with clock := p.clock + 1 })

/-- A cycle of the running walk: the head issues, or the entry after it, or one counter advances; an invalid head halts the
walk (DEDUCED: log 57). -/
def walkCycle (s : State) (owner : CtxId) : State :=
  let h := s.pl.head.toNat
  let e := plEntry s h
  if invalidEntry s owner e.bits then plFlag s plENTRYERR s.pl.head
  else
    match stallOf? s owner e with
    | none => tickClock (modPl (issueEntry s owner h) (fun p => { advanceHead p with unboundFor := 0 }))
    | some w =>
      let n := afterEntry s.pl h
      if canOvertake s owner n then
        tickClock (modEntry (issueEntry s owner n) n (fun x => { x with overtaken := true }))
      else tickClock (modPl (unboundStall s owner e w) (fun p => bubble p (bubbleOf s owner e.bits w)))

/-- Trapped tasks whose supervisor has ended start again once a core can admit them (R355). -/
def restartEntries (s : State) (owner : CtxId) : State :=
  (s.pl.entries.filter (fun e => e.2.issued == some .restart)).foldl (fun s e =>
    match entryBinding? s owner e.2.bits with
    | none => s
    | some bd => startEntry s owner e.1 e.2.bits bd) s

/-- Messages that PEERERR held back are sent once their neighbour is connected (R354). -/
def sendStalled (s : State) : State :=
  s.pl.stalled.foldl (fun s e =>
    if connected s e.1 then
      plSendTo (modPl s (fun p => { p with stalled := p.stalled.erase e })) e.1 e.2.1 e.2.2
    else s) s

/-- One cycle of the table: messages held back go once their neighbour is there. While its owner is resident, restarts follow, then
the walk; while a flag is set HALT counts instead (R352, R354, R355, R357). -/
def tableCycle (s0 : State) : State :=
  let s := sendStalled s0
  match s.pl.owner with
  | none => s
  | some owner =>
    if placedMask s owner = 0 then s
    else
      let s1 := restartEntries s owner
      if s1.pl.status ≠ 0 then modPl s1 (fun p => bubble p 6)
      else if s1.pl.running then walkCycle s1 owner
      else s1

/-- A cycle of the table by itself; those of time that passes come with it (R352). -/
def execPleachWalkCycle (s : State) : Out State := .next (tableCycle s)

/-- Cycles of the table. -/
def tableCycles : Nat → State → State
  | 0, s => s
  | n + 1, s => tableCycles n (tableCycle s)

/-! ## The end of a table task (R350) -/

/-- Adds an arrival at a stage; one past 16 is dropped and sets OVERRUN (R346). -/
def addArrival (s : State) (g : Bool) (st : BitVec 4) (src : ArrSource) : State :=
  let l := if g then s.pl.arrG else s.pl.arrA
  let q := l.getD st.toNat []
  if 16 ≤ q.length then plFlag s plOVERRUN s.pl.head
  else
    modPl s (fun p =>
      if g then { p with arrG := p.arrG.set st.toNat (q ++ [src]) } else { p with arrA := p.arrA.set st.toNat (q ++ [src]) })

/-- Adds to a credit, held at 16; a sum past it sets OVERRUN (R346). -/
def addCredit (s : State) (g : Bool) (st : BitVec 4) (n : Nat) : State :=
  let v := (if g then s.pl.credG else s.pl.credA).getD st.toNat 0 + n
  let s1 := modPl s (fun p =>
    if g then { p with credG := p.credG.set st.toNat (min 16 v) } else { p with credA := p.credA.set st.toNat (min 16 v) })
  if 16 < v then plFlag s1 plOVERRUN s1.pl.head else s1

/-- A PEER side of an automatic send under DOWN or UP names a part outside the connected group (R354). -/
def sendLost (s : State) (b : BitVec 128) (sh : BitVec 256) : Bool :=
  (enOut b == 1 || enOut b == 2) && (shSrc sh == 4 || shDst sh == 4) && !connected s (shPeer sh)

/-- An automatic send ends in error: SENDERR, and PEERERR too when it names an absent neighbour (R354). -/
def sendFailed (s : State) (ix : Nat) (sh : BitVec 256) : State :=
  let e9 := BitVec.ofNat 9 ix
  let s1 := plFlag s plSENDERR e9
  modEntry (if sendLost s (plEntry s ix).bits sh then plFlag s1 plPEERERR e9 else s1) ix (fun e => { e with issued := none })

/-- Step 5: the output is recorded, unless the send ended in error, and the entry stops being issued (R350, R354). -/
def entryOutputDone (s : State) (ix : Nat) : State :=
  let b := (plEntry s ix).bits
  let e9 := some (BitVec.ofNat 9 ix)
  let s1 := match (enOut b).toNat with
    | 1 => plSend s true (.arrive (enTstage b) false 0) e9
    | 2 => plSend s false (.arrive (enTstage b) true 0) e9
    | 3 => addArrival s true (enTstage b) .turn
    | _ => s
  modEntry s1 ix (fun e => { e with issued := none })

/-- Step 2: stash slots are freed. -/
def entryFreeStash (s : State) (b : BitVec 128) : State :=
  if enStop b = 2 then
    modPl s (fun p =>
      { p with stash := p.stash.set (enVstage b).toNat (min 64 (p.stash.getD (enVstage b).toNat 0 + enScnt b)) })
  else s

/-- Step 3: the slot of the consumed arrival goes back to its source; a TURN arrival returns nothing. -/
def entryGive (s : State) (ix : Nat) (e : PlEntry) : State :=
  if enIn e.bits = 0 then s
  else
    let k := fun (down : Bool) => MsgKind.slotgive (enVstage e.bits) (enIn e.bits == 2) down 1
    match e.consumed with
    | some .upstream => plSend s false (k false) (some (BitVec.ofNat 9 ix))
    | some .downstream => plSend s true (k true) (some (BitVec.ofNat 9 ix))
    | _ => s

/-- The automatic send of an entry, as a copy without a token: its marker is a reference to task number 0, which no task
has. -/
def autoSend (owner : CtxId) (ix core : Nat) (sh : BitVec 256) (src dst : DWord) : Copy :=
  { shape := sh, src := src, dst := dst, tok := ⟨0, ix, 0⟩, ctx := owner, task := 0, core := core, group := 0, winBase := 0,
    since := 0, run := 0, stopped := none, retry := false, done := false, error := false, peerOut := 0, peerSent := 0,
    peerData := none }

/-- The task as which an automatic send is checked: it has no allocation. -/
def sendTask (owner : CtxId) : Task :=
  { uid := 0, taskId := 0, ctx := owner, supv := false, work := .service 0 0 0 0, fromCore := 0, groups := [], winBase := 0,
    winUnits := 0, domain := 0, msgId := 0, spinCount := 0, trap := none, held := [], refused := false,
    discardWork := false, budget := 0, budgetLeft := 0, budgetTrap := false, budgetOn := false, expired := false, bars := [],
    saving := false, stopping := false }

/-- The checks of R205 for an automatic send; a side in COREWIN always fails. -/
def sendFails (s : State) (owner : CtxId) (core : Nat) (sh : BitVec 256) (src dst : DWord) : Bool :=
  shSrc sh == 1 || shDst sh == 1 ||
  (copyFault { s with issue := { s.issue with core := core } } (sendTask owner) sh src dst).isSome

/-- Steps 2 to 5, or up to the queueing of the automatic send. -/
def entrySteps (s : State) (ix : Nat) : State :=
  let e := plEntry s ix
  match s.pl.owner, e.issued with
  | some owner, some (.ended sh src dst core) =>
    let s1 := entryGive (entryFreeStash s e.bits) ix e
    if enAsend e.bits then
      if sendFails s1 owner core sh src dst then sendFailed s1 ix sh
      else
        let q := clusterOfCore core * 12 + shQueue sh
        modQueue (modEntry s1 ix (fun x => { x with issued := some .sending })) q
          (fun x => { x with copies := x.copies ++ [autoSend owner ix core sh src dst] })
    else entryOutputDone s1 ix
  | _, _ => s

/-- The end of an entry's task: its publication at FABRIC under an output, whose markers are waited for, then the other steps
(R350). -/
def execPleachEntryEnd (entry : BitVec 9) (s : State) : Out State :=
  let ix := entry.toNat
  let e := plEntry s ix
  match e.issued with
  | some (.ended _ _ _ core) =>
    if s.fab.releases.any (fun r => r.done == .entry ix) then .next s
    else if enOut e.bits = 0 then .next (entrySteps s ix)
    else
      let r := fabricFlush s core (.entry ix)
      .next (if r.2 then entrySteps r.1 ix else r.1)
  | _ => .next s

/-! ## Messages that the table takes (R346) -/

/-- The direction a Pleach message comes from: its peer's, or in loopback upstream for A and downstream for G. -/
def plSource (s : State) (m : Message) (g : Bool) : ArrSource :=
  match m.origin.peer with
  | none => if g then .downstream else .upstream
  | some p =>
    if plPeer? s s.pl.up == some p && plPeer? s s.pl.down == some p then (if g then .downstream else .upstream)
    else if plPeer? s s.pl.down == some p then .downstream
    else .upstream

/-- A SLOTGIVE message: a credit grows; a table without an owner discards it. -/
def execSlotgiveMsg (n : Nat) (s : State) : Out State :=
  match meshAt? s n with
  | none => .next s
  | some m =>
    match m.kind, m.peer with
    | .slotgive st g _ count, none =>
      let s1 := takeMesh s n
      .next (acked (if s1.pl.owner.isNone || !featureOn s1 1 then s1 else addCredit s1 g st count.toNat) m)
    | _, _ => .next s

/-- An ARRIVE message: an arrival is recorded with the direction it came from. -/
def execArrive (n : Nat) (s : State) : Out State :=
  match meshAt? s n with
  | none => .next s
  | some m =>
    match m.kind, m.peer with
    | .arrive st g _, none =>
      let s1 := takeMesh s n
      .next (acked (if s1.pl.owner.isNone || !featureOn s1 1 then s1 else addArrival s1 g st (plSource s m g)) m)
    | _, _ => .next s

/-- PLCTL.CLR (R342). -/
def execPlctlClr (s : State) : Out State := .next (modPl s plClear)

end Sys2Proof.Machine
end

