-- ==== Sys2Proof/Machine/CopyEvents.lean ====
section
/-! DEFINITION. The copy engines: a run of a copy, its transforms, and the end of a copy (R206 to R210, R369). -/

namespace Sys2Proof.Machine

/-! ## Bytes of a side -/

/-- The pieces of an extent that lie in one 512 KiB unit each. -/
def unitPieces (a n : Nat) : Nat → List (Nat × Nat)
  | 0 => []
  | fuel + 1 =>
    if n = 0 then [] else
      let here := min n (2 ^ 19 - a % 2 ^ 19)
      (a, here) :: unitPieces (a + here) (n - here) fuel

/-- What an access of an engine meets. -/
inductive Met (α : Type) where
  | ok (v : α)
  | absent (a : Absent)
  | error
  | stop (o : Out State)

/-- The physical places of pieces of GLOBAL, each in one unit. -/
def placesOf (caches : List Nat) (ctx : CtxId) (right : Nat) (write : Bool) :
    State → List (Nat × Nat) → State × Met (List (Nat × Nat))
  | s, [] => (s, .ok [])
  | s, (a, n) :: r =>
    let f := checkPage s caches ctx (BitVec.ofNat 64 a) right write
    match f.2 with
    | .absent x => (f.1, .absent x)
    | .page pa =>
      match paStops? [pa, pa + (n - 1)] with
      | some o => (f.1, .stop o)
      | none =>
        let q := placesOf caches ctx right write f.1 r
        match q.2 with
        | .ok l => (q.1, .ok ((pa, n) :: l))
        | x => (q.1, x)
    | _ => (f.1, .error)

/-- A GLOBAL read of an engine, at the coherence point; an uncorrectable line fails it (R208, R209). -/
def globalRead (s : State) (caches : List Nat) (ctx : CtxId) (a n : Nat) : State × Met (List Byte) :=
  let p := placesOf caches ctx rR false s (unitPieces a n (n / 2 ^ 19 + 2))
  match p.2 with
  | .ok l =>
    let e := l.foldl (fun (x : State × Bool) q => let r := eccRange x.1 q.1 q.2; (r.1, x.2 || r.2)) (p.1, false)
    if e.2 then (e.1, .error) else (hbmMoves e.1 ctx l, .ok (l.flatMap (fun q => memBytes e.1 q.1 q.2)))
  | .absent x => (p.1, .absent x)
  | .error => (p.1, .error)
  | .stop o => (p.1, .stop o)

/-- The store of a window side: the first byte of the task's allocation or of the context's share (R29, R31). A trap frees the
task's run at once (R32) while a copy that it left running still performs (R36): the copy goes on in that run, even when another
task holds it by then (DESIGN CHOICE: log 87). -/
def sideBase? (s : State) (c : Copy) (cluster sp : Nat) : Option (Bool × Nat) :=
  if sp = 1 then some (false, c.core * 2 ^ 19 + c.winBase * 16384)
  else (clusterShare? s cluster c.ctx).map (fun x => (true, cluster * 2 ^ 23 + x.1))

/-- The first byte of a context's operand memory. -/
def slotBase (s : State) (cluster : Nat) (ctx : CtxId) : Nat := (((slotShare? s cluster ctx).map (·.1)).getD 0) * 8192

/-- A local read of a piece of a side. -/
def sideRead (s : State) (c : Copy) (cluster cache sp a n : Nat) : State × Met (List Byte) :=
  match sp with
  | 1 | 2 =>
    match sideBase? s c cluster sp with
    | some (cl, b) => (s, .ok (winBytes s cl (b + a) n))
    | none => (s, .error)
  | 3 =>
    let r := opRead s cluster (slotBase s cluster c.ctx + a) n
    (s, if r.2 then .error else .ok r.1)
  | _ => globalRead s [cache] c.ctx a n

/-- The bytes of the pieces of a side, in order. -/
def sideReads (c : Copy) (cluster cache sp : Nat) : State → List (Int × Nat) → State × Met (List Byte)
  | s, [] => (s, .ok [])
  | s, (a, n) :: r =>
    let f := sideRead s c cluster cache sp a.toNat n
    match f.2 with
    | .ok bs =>
      let q := sideReads c cluster cache sp f.1 r
      match q.2 with
      | .ok l => (q.1, .ok (bs ++ l))
      | x => (q.1, x)
    | x => (f.1, x)

/-! ## Transforms (R140, R142, R148, R206, R207) -/

/-- Numbers of n bytes each. -/
def chunks (n : Nat) : Nat → List Byte → List Nat
  | 0, _ => []
  | fuel + 1, bs => if bs.isEmpty || n = 0 then [] else natOfBytes (bs.take n) :: chunks n fuel (bs.drop n)

/-- Lists of n elements each, the last perhaps shorter. -/
def groupsOf {α : Type} (n : Nat) : Nat → List α → List (List α)
  | 0, _ => []
  | fuel + 1, l => if l.isEmpty || n = 0 then [] else l.take n :: groupsOf n fuel (l.drop n)

/-- The element width of a KX format, in bits. -/
def kxW (f : Nat) : Nat := kxN f + 1

/-- The values of a row of bytes with its scale vector: KX blocks by position, other formats element by element (R145,
R146). -/
def rowValues (f : Nat) (row scale : List Byte) : List Fp :=
  if isKX f then
    let v := natOfBytes row
    let bytes := 2 * kxW f
    (List.range (kPerRow f * (row.length / 64))).map (fun i =>
      let b := i / 16
      kxValue f ((scale.getD (2 * b) 0).toNat) ((scale.getD (2 * b + 1) 0).toNat / 4 ^ (i % 16 / 4) % 4)
        (v / 2 ^ (8 * bytes * b + kxW f * (i % 16)) % 2 ^ kxW f))
  else (chunks (elemBytes f) row.length row).map (valueOf f)

/-- A KX operand row, 64 bytes, and its scale vector, of up to K-per-row values; blocks past them are zero blocks (R148). -/
def kxRowBytes (f : Nat) (xs : List Fp) : List Byte × List Byte :=
  let blocks := (groupsOf 16 (kPerRow f / 16) xs).map (fun b =>
    toKx f (b ++ List.replicate (16 - b.length) (.fin false 0 0)))
  (fit 64 (blocks.flatMap (fun b => bytesOf (2 * kxW f) (packCodes (kxW f) b.codes))),
   fit (scaleBytes f) (blocks.flatMap (fun b => [BitVec.ofNat 8 b.ex, BitVec.ofNat 8 b.quads])))

/-- The bytes of one element in a format that is no KX format: RNE, bytes always saturated (R142). -/
def elemOut (f : Nat) (sat : Bool) (x : Fp) : List Byte :=
  bytesOf (elemBytes f)
    (match f with
     | 5 => (convertInt true .rne x).1
     | 6 => convertByte true x
     | 7 => convertByte false x
     | _ => ((fmtOf f).convert .rne sat x).1)

/-- The elements of a source run (R206, R207): its bytes, for a KX side followed by its scale vector. -/
def runValues (f : Nat) (bs : List Byte) : List Fp :=
  if isKX f then rowValues f (bs.take 64) (bs.drop 64) else rowValues f bs []

/-- What a run writes: places and bytes (R206). -/
def runWrites (h : BitVec 256) (base : DWord) (i1 i2 : Nat) (run : List Byte) : List (Nat × List Byte) :=
  let ps := runPieces h true base i1 i2
  match shXform h with
  | 1 =>
    let xs := runValues (shSfmt h) run
    if isKX (shDfmt h) then
      let r := kxRowBytes (shDfmt h) xs
      (ps ++ runScale h true base (i2 * shRuns1 h + i1)).zip [r.1, r.2] |>.map (fun p => (p.1.1.toNat, p.2))
    else ps.map (fun p => (p.1.toNat, xs.flatMap (elemOut (shDfmt h) (shSat h))))
  | 2 => (ps.zip (groupsOf 2 run.length run)).map (fun p => (p.1.1.toNat, p.2))
  | _ => ps.map (fun p => (p.1.toNat, run))

/-! ## Writes of an engine -/

/-- Writes bytes at physical places, in order. -/
def performAll : State → List (Nat × Nat) → List Byte → State
  | s, [], _ => s
  | s, (pa, n) :: r, bs => performAll (perform s pa (bs.take n)) r (bs.drop n)

/-- Writes pieces to a local side; every GLOBAL page is checked before a byte is written (R209). -/
def sideWrites (s : State) (c : Copy) (cluster cache sp : Nat) (ws : List (Nat × List Byte)) : State × Met Unit :=
  match sp with
  | 1 | 2 =>
    match sideBase? s c cluster sp with
    | some (cl, b) => (ws.foldl (fun s w => winWrite s cl (b + w.1) w.2) s, .ok ())
    | none => (s, .error)
  | 3 => (ws.foldl (fun s w => opWrite s cluster (slotBase s cluster c.ctx + w.1) w.2) s, .ok ())
  | _ =>
    let ps := ws.flatMap (fun w => unitPieces w.1 w.2.length (w.2.length / 2 ^ 19 + 2))
    let p := placesOf [cache] c.ctx rW true s ps
    match p.2 with
    | .ok l => (performAll (hbmMoves p.1 c.ctx l) l (ws.flatMap (·.2)), .ok ())
    | .absent x => (p.1, .absent x)
    | .error => (p.1, .error)
    | .stop o => (p.1, .stop o)

/-! ## The progress of a copy -/

/-- Changes the first copy of a queue. -/
def modHead (s : State) (q : Nat) (f : Copy → Copy) : State :=
  modQueue s q (fun x => { x with copies := match x.copies with | [] => [] | c :: r => f c :: r })

/-- A copy ends in error (R209). -/
def copyFails (s : State) (q : Nat) : State :=
  modHead s q (fun c => { c with done := true, error := true, stopped := none, retry := false, peerData := none })

/-- A copy stops at its run on an absent page, with a page request unless it already waits for that page (R209, R304). -/
def copyStops (s : State) (q : Nat) (c : Copy) (a : Absent) : State :=
  modHead (requestPage s c.ctx a .copy) q (fun c =>
    { c with stopped := some a, retry := false, peerData := none, peerSent := 0, peerOk := 0 })

/-- The present run has been written. -/
def runDone (s : State) (q : Nat) : State :=
  modHead s q (fun c =>
    { c with run := c.run + 1, done := decide (shRuns c.shape ≤ c.run + 1), stopped := none, retry := false,
             peerData := none, peerSent := 0, peerOk := 0 })

/-- The peer of a copy's PEER side; its own number is this part (R389). -/
def copyPeer? (s : State) (h : BitVec 256) : Option (BitVec 10) :=
  if (shSrc h == 4 || shDst h == 4) && shPeer h != s.fab.self then some (shPeer h) else none

/-! ## PEER sides (R384, R391) -/

/-- Pieces of at most 1,024 bytes, each in one unit, with its offset among all of them. -/
def peerPieces : Nat → List (Nat × Nat) → List (Nat × Nat × Nat)
  | _, [] => []
  | off, (a, n) :: r =>
    ((List.range ((n + 1023) / 1024)).map (fun i => (off + i * 1024, a + i * 1024, min 1024 (n - i * 1024)))) ++
      peerPieces (off + n) r

/-- The first pieces whose pages the port caches hold with a right (R391). -/
def translated (s : State) (p : BitVec 10) (ctx : CtxId) (right : Nat) (ps : List (Nat × Nat × Nat)) : List (Nat × Nat × Nat) :=
  ps.takeWhile (fun x => ((remoteFind? s p ctx x.2.1).map (fun r => r.rights.getLsbD right)).getD false)

/-- Asks the peer for the translation of a page (R391). -/
def askPage (s : State) (q : Nat) (c : Copy) (p : BitVec 10) (va right : Nat) : State :=
  sendPacket (modHead s q (fun c => { c with peerOut := 1 })) p 0x07 .sys (xreqBody c.ctx va right) (.xreqCopy q c.tok)

/-- The node handle that a packet for a page of a peer carries. -/
def handleFor (s : State) (p : BitVec 10) (ctx : CtxId) (va : Nat) : Nat :=
  ((remoteFind? s p ctx va).map (·.handle.toNat)).getD 0

/-- The packets of a run. The pages of all its pieces are first found present, one after the other, so that a run that meets an
absent or revoked page is not written; the caches need not hold all of them at once. Then packets go out for the pieces that are left
(from the first not yet sent), as far as their pages are held, and the page of the next is asked for again (R209, R391). -/
def peerStep (s : State) (q : Nat) (c : Copy) (p : BitVec 10) (right : Nat) (ps : List (Nat × Nat × Nat))
    (send : State → List (Nat × Nat × Nat) → State) : State :=
  let k := if 0 < c.peerSent then ps.length else c.peerOk + (translated s p c.ctx right (ps.drop c.peerOk)).length
  let s1 := modHead s q (fun c => { c with peerOk := k })
  match ps.drop k, ps.drop c.peerSent with
  | x :: _, _ => askPage s1 q c p x.2.1 right
  | [], [] => s1
  | [], x :: r =>
    let now := translated s p c.ctx right (x :: r)
    if now.isEmpty then askPage s1 q c p x.2.1 right else send s1 now

/-- Sends READs of a run: their tags are offsets in the run's bytes. -/
def sendReads (q : Nat) (c : Copy) (p : BitVec 10) (total : Nat) (s : State) (now : List (Nat × Nat × Nat)) : State :=
  let s1 := modHead s q (fun c => { c with
    peerOut := now.length, peerSent := c.peerSent + now.length, peerData := some (c.peerData.getD (List.replicate total 0)) })
  now.foldl (fun s x =>
    sendPacket s p 0x03 .req
      (bytesOf 2 c.ctx.toNat ++ bytesOf 8 x.2.1 ++ bytesOf 4 (handleFor s p c.ctx x.2.1) ++ bytesOf 2 x.2.2 ++ bytesOf 4 x.1)
      (.copyRead q c.tok)) s1

/-- The first pieces of a list that have no byte in common with each other (R387). -/
def apart (sent : List (Nat × Nat × Nat)) : List (Nat × Nat × Nat) → List (Nat × Nat × Nat)
  | [] => []
  | x :: r => if sent.any (fun y => meets y.2.1 y.2.2 x.2.1 x.2.2) then [] else x :: apart (x :: sent) r

/-- Sends WRITEs of a run, up to one that overlaps an earlier one, which waits for its acknowledgement (R387). The core has written
the peer (R270). -/
def sendWrites (q : Nat) (c : Copy) (p : BitVec 10) (bs : List Byte) (s : State) (ps : List (Nat × Nat × Nat)) : State :=
  let now := apart [] ps
  let s1 := modHead (peerWritten s c.core p) q (fun c => { c with peerOut := now.length, peerSent := c.peerSent + now.length })
  now.foldl (fun s x =>
    sendPacket s p 0x02 .bulk
      (bytesOf 2 c.ctx.toNat ++ bytesOf 8 x.2.1 ++ bytesOf 4 (handleFor s p c.ctx x.2.1) ++ (bs.drop x.1).take x.2.2)
      (.copyWrite q c.tok)) s1

/-- Pieces of addresses split at units. -/
def unitsOf (ps : List (Nat × Nat)) : List (Nat × Nat) := ps.flatMap (fun p => unitPieces p.1 p.2 (p.2 / 2 ^ 19 + 2))

/-- Writes a run to a peer. A page withdrawn after it has been found present stops or fails the run at its own WRITE, and the others
stand (DESIGN CHOICE: log 90). -/
def peerWrites (s : State) (q : Nat) (c : Copy) (p : BitVec 10) (ws : List (Nat × List Byte)) : State :=
  let ps := peerPieces 0 (unitsOf (ws.map (fun w => (w.1, w.2.length))))
  if ps.length ≤ c.peerSent then runDone s q else peerStep s q c p rW ps (sendWrites q c p (ws.flatMap (·.2)))

/-- The pieces of a run that is read from a peer. -/
def readPieces (src : List (Int × Nat)) : List (Nat × Nat × Nat) := peerPieces 0 (unitsOf (src.map (fun x => (x.1.toNat, x.2))))

/-- Reads a run from a peer. -/
def peerReads (s : State) (q : Nat) (c : Copy) (p : BitVec 10) (src : List (Int × Nat)) : State :=
  peerStep s q c p rR (readPieces src) (sendReads q c p (src.map (·.2)).sum)

/-! ## A run (R206) -/

/-- Writes a run whose bytes are there. -/
def writeRun (s : State) (q : Nat) (c : Copy) (i1 i2 : Nat) (bs : List Byte) : Out State :=
  let ws := (runWrites c.shape c.dst i1 i2 bs).filter (fun w => !w.2.isEmpty)
  match copyPeer? s c.shape, shDst c.shape == 4 with
  | some p, true => .next (peerWrites (modHead s q (fun c => { c with peerData := some bs })) q c p ws)
  | _, _ =>
    let r := sideWrites s c (q / 12) (288 + q / 12 * 3 + q % 12 / 4) (shDst c.shape) ws
    match r.2 with
    | .ok _ => .next (runDone r.1 q)
    | .absent a => .next (copyStops r.1 q c a)
    | .error => .next (copyFails r.1 q)
    | .stop o => o

/-- Reads a run and writes it. -/
def performRun (s : State) (q : Nat) (c : Copy) : Out State :=
  let i1 := c.run % shRuns1 c.shape
  let i2 := c.run / shRuns1 c.shape
  let src := runPieces c.shape false c.src i1 i2 ++ runScale c.shape false c.src c.run
  match copyPeer? s c.shape, c.peerData, shSrc c.shape == 4 with
  | some p, d, true =>
    if c.peerSent < (readPieces src).length then .next (peerReads s q c p src) else writeRun s q c i1 i2 (d.getD [])
  | some _, some bs, false => writeRun s q c i1 i2 bs
  | _, _, _ =>
    let r := sideReads c (q / 12) (288 + q / 12 * 3 + q % 12 / 4) (shSrc c.shape) s src
    match r.2 with
    | .ok bs => writeRun r.1 q c i1 i2 bs
    | .absent a => .next (copyStops r.1 q c a)
    | .error => .next (copyFails r.1 q)
    | .stop o => o

/-- A copy can move on: it is not done, waits for no packet, and is not stopped on a page. -/
def copyReady (c : Copy) : Bool := !c.done && c.peerOut == 0 && (c.stopped.isNone || c.retry)

/-- A copy that waits for no packet has a peer that has left the connected group, which ends it in error (R209). -/
def copyLost (s : State) (c : Copy) : Bool :=
  !c.done && c.peerOut == 0 && (copyPeer? s c.shape).isSome && !connected s (shPeer c.shape)

/-- The engine performs one run of the first copy of a queue (R206). One of a saved task stands still until its task is back (R332). -/
def execCopyRun (cluster : ClusterId) (queue : BitVec 4) (s : State) : Out State :=
  let q := cluster.toNat * 12 + queue.toNat
  if 12 ≤ queue.toNat then .next s
  else
    match (queueAt s q).halted, (queueAt s q).copies with
    | none, c :: _ =>
      if savedOff s c.tok.uid then .next s
      else if copyReady c && shLen c.shape == 0 then .next (modHead s q (fun c => { c with done := true }))
      else if copyLost s c then .next (copyFails s q)
      else if copyReady c then performRun s q c
      else .next s
    | _, _ => .next s

/-! ## The end of a copy (R209, R210) -/

/-- The first copy of a queue has ended and its writes have performed: it leaves the queue, its token is updated, and an error
halts the queue until that token's TSET. An automatic send has no token; its end goes to its entry (R350). -/
def execCopyComplete (cluster : ClusterId) (queue : BitVec 4) (s : State) : Out State :=
  let q := cluster.toNat * 12 + queue.toNat
  if 12 ≤ queue.toNat then .next s
  else
    match (queueAt s q).copies with
    | c :: r =>
      if !c.done || c.peerOut != 0 || (queueAt s q).halted.isSome then .next s
      else
        let s1 := modQueue s q (fun x => { x with copies := r })
        if c.tok.uid = 0 then .next (if c.error then sendFailed s1 c.tok.group c.shape else entryOutputDone s1 c.tok.group)
        else
          let s2 := tokenUpdate s1 c.tok c.error
          .next (if c.error && tokLives s2 c.tok then modQueue s2 q (fun x => { x with halted := some c.tok }) else s2)
    | [] => .next s

end Sys2Proof.Machine
end

