-- ==== Sys2Proof/Machine/EngineEvents.lean ====
section
/-! DEFINITION. The tile scheduler and the matrix engines: handing out records, plane loads, streams, drains and completion
(R149 to R158, R221 to R228, R362 to R369). -/

namespace Sys2Proof.Machine

/-! ## Operands (R221) -/

/-- The operand memory of a record's context: cluster, first byte and length of its share. -/
structure Operands where
  cluster : Nat
  base : Nat
  size : Nat
  deriving DecidableEq, Repr

def operandsOf (s : State) (e : Nat) (ctx : CtxId) : Operands :=
  match slotShare? s (e / 16) ctx with
  | none => ⟨e / 16, 0, 0⟩
  | some (first, n) => ⟨e / 16, first * 8192, n * 8192⟩

/-- Bytes of a context's operand memory, and whether a word of them has an error (R369). Bytes past the share, which only an
MSTREAM against a sparse plane can name, are free values (DESIGN CHOICE: log 25). -/
def operandBytes (s : State) (o : Operands) (a n : Nat) : List Byte × Bool :=
  if a + n ≤ o.size then opRead s o.cluster (o.base + a) n
  else
    let r := opRead s o.cluster (o.base + a) (o.size - a)
    (r.1 ++ (List.range (n - (o.size - a))).map (fun i => Config.openOperand (o.cluster * 2 ^ 40 + max a o.size + i)), r.2)

/-! ## Planes (R149 to R151, R224, R362) -/

/-- Loads one store of a plane from operand memory, column by column until a read fails. -/
def loadColumns (s : State) (o : Operands) (a n : Nat) {w : Nat} : List Nat → Sparse w → Sparse w × Bool
  | [], m => (m, false)
  | c :: r, m =>
    let b := operandBytes s o (a + c * n) n
    if b.2 then (m, true) else loadColumns s o a n r (Sparse.write m c (BitVec.ofNat w (natOfBytes b.1)))

/-- The nibble of a group of four (R150). -/
def nibble (p : Plane) (c g : Nat) : Nat := ((Sparse.read p.metadata c).toNat / 16 ^ g) % 16

/-- A nibble that keeps two positions (R150, R151). -/
def nibbleOk (n : Nat) : Bool := decide (n % 4 < n / 4)

/-- Groups of four of a sparse column. -/
def groupsIn (f : Nat) : Nat := if elemBytes f == 2 then 16 else 32

/-- A plane holds an invalid nibble (R151). -/
def badNibble (p : Plane) : Bool :=
  p.sparse && (List.range 256).any (fun c => (List.range (groupsIn p.wfmt.toNat)).any (fun g => !nibbleOk (nibble p c g)))

/-- The shadow plane after a load of chunk k of a record, and whether a read failed: format, scales and metadata stand before
the columns (R224, R362). -/
def loadPlane (s : State) (o : Operands) (r : BitVec 512) (k : Nat) (old : Plane) : Plane × Bool :=
  let st := rcBstr r * k
  let cs := List.range 256
  let v := vScale (rcWfmt r) (rcSparse r)
  let m := mdBytes (rcWfmt r) (rcSparse r)
  let p0 : Plane := { old with wfmt := BitVec.ofNat 4 (rcWfmt r), sparse := rcSparse r }
  let sc := if v = 0 then ([], false) else loadColumns s o (rcBsc r + st) v cs p0.scales
  let p1 : Plane := { p0 with scales := sc.1 }
  if sc.2 then (p1, true)
  else
    let md := if m = 0 then ([], false) else loadColumns s o (rcMd r + st) m cs p1.metadata
    let p2 : Plane := { p1 with metadata := md.1 }
    if md.2 then (p2, true)
    else
      let w := loadColumns s o (rcBsrc r + st) 64 cs p2.cols
      if w.2 then ({ p2 with cols := w.1 }, true) else ({ p2 with cols := w.1, bad := false }, false)

/-! ## Elements along K (R143, R146, R149, R221) -/

/-- The n stored elements of a sparse column, before their positions are known: bytes or halfwords. -/
def storedAt (f : Nat) (col : BitVec 512) (j : Nat) : Nat :=
  if elemBytes f == 2 then (col.extractLsb' (16 * j) 16).toNat else (col.extractLsb' (8 * j) 8).toNat

/-- The value of a stored element of a sparse column in group g: for KX7 with its block's exponent and its quad's (R149). -/
def sparseValue (f : Nat) (scale : BitVec 160) (g el : Nat) : Fp :=
  if isKX f then
    let b := g / 4
    kxValue f (scale.extractLsb' (16 * b) 8).toNat ((scale.extractLsb' (16 * b + 8) 8).toNat / 4 ^ (g % 4) % 4) el
  else valueOf f el

/-- A column's elements at their logical K positions; a group with an invalid nibble has none (R149 to R152). -/
def columnOf {α : Type} (p : Plane) (c : Nat) (dense : List Byte → List Byte → List α) (one : Nat → Nat → α) :
    List (Nat × α) :=
  let f := p.wfmt.toNat
  let col := Sparse.read p.cols c
  if p.sparse then
    (List.range (groupsIn f)).flatMap (fun g =>
      let n := nibble p c g
      if nibbleOk n then
        [(4 * g + n % 4, one g (storedAt f col (2 * g))), (4 * g + n / 4, one g (storedAt f col (2 * g + 1)))]
      else [])
  else
    let vs := dense (bytesOf 64 col.toNat) (bytesOf 20 (Sparse.read p.scales c).toNat)
    (List.range vs.length).zip vs

/-- An 8-bit integer element (R138). -/
def int8Of (f n : Nat) : Int := if f = 6 then (BitVec.ofNat 8 n).toInt else (n % 256 : Nat)

/-- The weights of a column in a floating-point pairing. -/
def columnFp (p : Plane) (c : Nat) : List (Nat × Fp) :=
  columnOf p c (fun row sc => rowValues p.wfmt.toNat row sc)
    (fun g el => sparseValue p.wfmt.toNat (Sparse.read p.scales c) g el)

/-- The weights of a column in an integer pairing. -/
def columnInt (p : Plane) (c : Nat) : List (Nat × Int) :=
  columnOf p c (fun row _ => row.map (fun b => int8Of p.wfmt.toNat b.toNat)) (fun _ el => int8Of p.wfmt.toNat el)

/-! ## Exact row summation (R154, R155) -/

/-- The exact sum of finite values as a number and an exponent. -/
def exactSum (xs : List Fp) : Int × Int :=
  let e0 : Int := xs.foldl (fun (a : Int) (x : Fp) => match x with | .fin _ _ e => min a e | _ => a) 0
  (xs.foldl (fun (t : Int) (x : Fp) => match x with | .fin n m e => t + scaled n m e e0 | _ => t) 0, e0)

def isNegZero : Fp → Bool
  | .fin n m _ => n && m == 0
  | _ => false

def isInf (neg : Bool) : Fp → Bool
  | .inf n => n == neg
  | _ => false

/-- RowAccumulate (R154); a product that does not exist is NaN. -/
def rowAccumulate (c : Nat) (ps : List (Option Fp)) : Nat :=
  let v := f32.value c
  let xs := v :: ps.filterMap id
  if ps.any Option.isNone || xs.any Fp.isNan then 0x7FC00000
  else if xs.any (isInf true) && xs.any (isInf false) then 0x7FC00000
  else if xs.any (isInf true) then 0xFF800000
  else if xs.any (isInf false) then 0x7F800000
  else
    let t := exactSum xs
    if t.1 = 0 then (if xs.all isNegZero then 0x80000000 else 0)
    else (f32.convert .rne false (.fin (decide (t.1 < 0)) t.1.natAbs t.2)).1

/-- Products of a row's elements with a column's weights. -/
def products (row : List Fp) (col : List (Nat × Fp)) : List (Option Fp) :=
  col.map (fun w => mulExact (row.getD w.1 (.fin false 0 0)) w.2)

/-- The sum of an integer row and column, added to a cell mod 2^32 (R155). -/
def intAccumulate (c : Word) (row : List Int) (col : List (Nat × Int)) : Word :=
  c + BitVec.ofInt 32 (col.foldl (fun (t : Int) w => t + row.getD w.1 0 * w.2) 0)

/-! ## Streams (R224) -/

/-- The key of an accumulator cell. -/
def cellKey (bank row col : Nat) : Nat := bank * 32768 + row * 256 + col

/-- Cells of a row with an error. -/
def badIn (e : Engine) (bank row : Nat) : List Nat := e.badCells.filter (fun k => k / 256 == bank * 128 + row)

/-- A read of a bad cell fails its record, and the cell is rewritten (R369). -/
def rewriteBad (e : Engine) (bank row : Nat) : Engine :=
  let bad := badIn e bank row
  { e with
    acc := bad.foldl (fun a k => Sparse.write a k 0x7FC00000) e.acc
    badCells := e.badCells.filter (fun k => !bad.contains k) }

/-- Writes a row of cells. -/
def writeRow (e : Engine) (bank row : Nat) (vs : List Word) : Engine :=
  { e with
    acc := ((List.range vs.length).zip vs).foldl (fun a x => Sparse.write a (cellKey bank row x.1) x.2) e.acc
    badCells := e.badCells.filter (fun k => k / 256 != bank * 128 + row) }

/-- The columns of a plane, decoded once for a stream. -/
structure Columns where
  fp : List (List (Nat × Fp))
  int : List (List (Nat × Int))

/-- Integer formats. -/
def isInt8 (f : Nat) : Bool := f == 6 || f == 7

def columnsOf (p : Plane) : Columns :=
  if isInt8 p.wfmt.toNat then ⟨[], (List.range 256).map (columnInt p)⟩ else ⟨(List.range 256).map (columnFp p), []⟩

/-- One row of a stream: the new cells. -/
def streamRow (cs : Columns) (f : Nat) (old : List Word) (row scale : List Byte) : List Word :=
  if isInt8 f then
    let r := row.map (fun b => int8Of f b.toNat)
    (old.zip cs.int).map (fun x => intAccumulate x.1 r x.2)
  else
    let r := rowValues f row scale
    (old.zip cs.fp).map (fun x => BitVec.ofNat 32 (rowAccumulate x.1.toNat (products r x.2)))

/-- Streams rows of chunk k against the active plane, up to a row whose read fails; whether one did. -/
def streamRows (s : State) (o : Operands) (r : BitVec 512) (k : Nat) (acc : Bool) (cs : Columns) (sparse : Bool) :
    List Nat → Engine → Engine × Bool
  | [], e => (e, false)
  | i :: rest, e =>
    let row := rcRow0 r + i
    let st := rcAstr r * k
    let v := vScale (rcAfmt r) sparse
    let a := operandBytes s o (rcAsrc r + st + i * aRow sparse) (aRow sparse)
    let sc := operandBytes s o (rcAsc r + st + i * v) v
    if acc && !(badIn e (rcBank r) row).isEmpty then (rewriteBad e (rcBank r) row, true)
    else if a.2 || sc.2 then (e, true)
    else
      let old := (List.range 256).map (fun c => if acc then Sparse.read e.acc (cellKey (rcBank r) row c) else 0)
      streamRows s o r k acc cs sparse rest (writeRow e (rcBank r) row (streamRow cs (rcAfmt r) old a.1 sc.1))

/-- The stream of a record against the active plane: it fails when the plane is unusable or does not pair (R226, R369). -/
def stream (s : State) (o : Operands) (r : BitVec 512) (k : Nat) (acc : Bool) (e : Engine) : Engine × Bool :=
  if e.active.bad || !pairs (rcAfmt r) e.active.wfmt.toNat then (e, true)
  else streamRows s o r k acc (columnsOf e.active) e.active.sparse (List.range (rcRows r)) e

/-- The planes exchange (R363). -/
def Engine.swap (e : Engine) : Engine :=
  { e with active := e.shadow, shadow := e.active, store := if e.store = 0 then 1 else 0 }

/-- Rows of a bank are +0 (R224). -/
def zeroRows (e : Engine) (bank row n : Nat) : Engine :=
  { e with
    acc := AMap.clear e.acc (cellKey bank row 0) (cellKey bank (row + n) 0)
    badCells := e.badCells.filter (fun k => k / 256 < bank * 128 + row || bank * 128 + row + n ≤ k / 256) }

/-- The chunks of a GEMM from chunk k on; whether it failed, and whether a nibble was invalid (DEDUCED: log 58). -/
def gemmChunks (s : State) (o : Operands) (r : BitVec 512) : List Nat → Bool → Engine → Engine × Bool × Bool
  | [], bad, e => (e, false, bad)
  | k :: rest, bad, e =>
    let p := loadPlane s o r k e.shadow
    if p.2 then ({ e with shadow := p.1 }, true, bad)
    else
      let f := stream s o r k true ({ e with shadow := p.1 }).swap
      if f.2 then (f.1, true, bad) else gemmChunks s o r rest (bad || badNibble p.1) f.1

/-! ## Drains (R225, R226, R366) -/

/-- A cell as the drain reads it. -/
def drainValue (f : Nat) (c : Word) : Fp := if isInt8 f || f == 5 then fpOfInt c.toInt else f32.value c.toNat

/-- The bytes of a drained row, and of its scales (R225). -/
def drainBytes (f : Nat) (sat : Bool) (cells : List Word) : List Byte × List Byte :=
  let xs := cells.map (drainValue f)
  if isKX f then
    let rows := (groupsOf (kPerRow f) 4 xs).map (kxRowBytes f)
    (rows.flatMap (·.1), rows.flatMap (·.2))
  else (xs.flatMap (elemOut f sat), [])

/-- The writes of row i of a drain: places and bytes. -/
def drainWrites (e : Engine) (r : BitVec 512) (i : Nat) : List (Int × List Byte) :=
  let cells := (List.range 256).map (fun c => Sparse.read e.acc (cellKey (rcBank r) (rcRow0 r + i) c))
  let b := drainBytes (rcDfmt r) (rcSat r) cells
  ((drainPieces r i).zip [b.1, b.2]).map (fun x => (x.1.1, x.2))

/-- A piece lies in no context space: it begins below address 0 or ends past 2^52. -/
def outsideSpace (w : Int × List Byte) : Bool := decide (w.1 < 0) || decide ((2 ^ 52 : Int) < w.1 + w.2.length)

/-- Writes a drained row. GLOBAL goes through the cluster's cache; for a row or a scale vector whose bytes would lie below address
0 or at 2^52 and above the spec names no outcome, and the record fails (DESIGN CHOICE: log 91). -/
def drainRowTo (s : State) (e : Nat) (rec_ : Record) (iws : List (Int × List Byte)) : State × Met Unit :=
  let cl := e / 16
  let ws := iws.map (fun w => (w.1.toNat, w.2))
  match rcDsp rec_.words with
  | 1 =>
    match clusterShare? s cl rec_.ctx with
    | some x => (ws.foldl (fun s w => winWrite s true (cl * 2 ^ 23 + x.1 + w.1) w.2) s, .ok ())
    | none => (s, .error)
  | 2 => (ws.foldl (fun s w => opWrite s cl (slotBase s cl rec_.ctx + w.1) w.2) s, .ok ())
  | _ =>
    if iws.any outsideSpace then (s, .error)
    else
      let ps := ws.flatMap (fun w => unitPieces w.1 w.2.length (w.2.length / 2 ^ 19 + 2))
      let p := placesOf [256 + cl] rec_.ctx rW true s ps
      match p.2 with
      | .ok l => (performAll (hbmMoves p.1 rec_.ctx l) l (ws.flatMap (·.2)), .ok ())
      | .absent x => (p.1, .absent x)
      | .error => (p.1, .error)
      | .stop o => (p.1, .stop o)

/-- Changes the executing record of an engine. -/
def modRunning (s : State) (e : Nat) (f : Running → Running) : State :=
  modEngine s e (fun x => { x with executing := x.executing.map f })

/-- A record is done, perhaps having failed. -/
def Running.end_ (error : Bool) (r : Running) : Running :=
  { r with done := true, error := r.error || error, stopped := none, retry := false, rowOut := [] }

/-- The executing record is done, perhaps having failed. -/
def recordDone (s : State) (e : Nat) (error : Bool) : State := modRunning s e (Running.end_ error)

/-- Drains rows from row i on: to the end, to a failure, or to an absent page, for which a page request is made; the row read then
waits to be written (R226). The drain's progress, and a stop. -/
def drainRows (e : Nat) (q : Running) : List Nat → State → State × Running × Option (Out State)
  | [], s => (s, q.end_ false, none)
  | i :: rest, s =>
    let r := q.record.words
    let x := engineAt s e
    if q.rowOut.isEmpty && !(badIn x (rcBank r) (rcRow0 r + i)).isEmpty then
      (modEngine s e (fun x => rewriteBad x (rcBank r) (rcRow0 r + i)), q.end_ true, none)
    else
      let ws := if q.rowOut.isEmpty then drainWrites x r i else q.rowOut
      let w := drainRowTo s e q.record ws
      match w.2 with
      | .ok _ => drainRows e { q with drained := i + 1, rowOut := [] } rest w.1
      | .error => (w.1, q.end_ true, none)
      | .stop o => (w.1, q, some o)
      | .absent a =>
        (requestPage w.1 q.record.ctx a .drain,
          { q with drained := i, rowOut := ws, streamed := true, stopped := some a, retry := false }, none)

/-- The drain of a record, from the row it has reached; the record's progress is put back. -/
def drainRun (s : State) (e : Nat) (q : Running) (put : State → Running → State) : Out State :=
  let d := drainRows e q ((List.range (rcRows q.record.words)).drop q.drained) s
  match d.2.2 with
  | some o => o
  | none => .next (put d.1 d.2.1)

/-- Puts back the progress of the executing record. -/
def putRunning (e : Nat) (s : State) (q : Running) : State := modRunning s e (fun _ => q)

/-! ## Release (R364) -/

/-- The executing record is past its release point: it has done its work, or every row of its drain has been read. -/
def Running.released (q : Running) : Bool :=
  q.done || ((rcKind q.record.words == 4 || rcKind q.record.words == 5) && q.streamed && q.stopped.isSome &&
    decide (rcRows q.record.words ≤ q.drained + 1))

/-- A record as it begins to execute. -/
def Running.start (r : Record) : Running := ⟨r, 0, [], false, none, false, false, false⟩

/-- A record past its release point keeps its own unit alone, and the pending record becomes the executing one. -/
def Engine.advance (x : Engine) : Engine :=
  match x.executing with
  | some q =>
    if q.released then { x with executing := x.pending.map Running.start, pending := none, units := x.units ++ [q] } else x
  | none => x

/-- The drain unit writes the last row of a released drain that waits on a page. -/
def Engine.draining (x : Engine) : Option Running :=
  x.units.find? (fun q => !q.done && (rcKind q.record.words == 4 || rcKind q.record.words == 5))

/-- Puts back the progress of the record in the drain unit. -/
def putDraining (e : Nat) (s : State) (q : Running) : State :=
  modEngine s e (fun x => { x with units := x.units.map (fun y => if y.done then y else q) })

/-! ## The scheduler (R223, R364) -/

/-- An engine is idle, or its pending place is empty (R223, R364). -/
def engineIdle (s : State) (e : Nat) : Bool :=
  (engineAt s e).advance.executing.isNone && (engineAt s e).advance.pending.isNone
def engineTakes (s : State) (e : Nat) : Bool := (engineAt s e).advance.pending.isNone

/-- The predecessor of a record reads zero, or it has none. -/
def recordReady (s : State) (cl : Nat) (r : Record) : Bool :=
  match r.pred with
  | none => true
  | some i => Sparse.read s.pcs (cl * 4096 + i) == 0

/-- The engine of a named record. -/
def namedEngine (cl : Nat) (r : Record) : Nat := cl * 16 + r.share + rcEng r.words

/-- The engine that can take a record now, given the named records posted before it. -/
def engineFor? (s : State) (cl : Nat) (before : List Record) (r : Record) : Option Nat :=
  if !recordReady s cl r then none
  else if rcAny r.words then
    let n := ((engineShare? s cl r.ctx).map (·.2)).getD 0
    ((List.range n).map (fun i => cl * 16 + r.share + i)).find? (engineIdle s)
  else
    let e := namedEngine cl r
    if engineTakes s e && !before.any (fun b => !rcAny b.words && namedEngine cl b == e) then some e else none

/-- The first record in post order that an engine can take: the records before it, it, those after it, and the engine. -/
def firstReady? (s : State) (cl : Nat) : List Record → List Record → Option (List Record × Record × List Record × Nat)
  | _, [] => none
  | before, r :: rest =>
    match engineFor? s cl before r with
    | some e => some (before, r, rest, e)
    | none => firstReady? s cl (before ++ [r]) rest

/-- The tile scheduler hands one record to an engine (R223). -/
def execRecordIssue (cluster : ClusterId) (s : State) : Out State :=
  let cl := cluster.toNat
  match firstReady? s cl [] (AMap.getD s.posts cl []) with
  | none => .next s
  | some (before, r, rest, e) =>
    let s1 := { s with posts := AMap.put s.posts cl (before ++ rest) }
    .next (modEngine s1 e (fun y =>
      let x := y.advance
      match x.executing with
      | none => { x with executing := some (Running.start r) }
      | some _ => { x with pending := some r }))

/-- Work of an engine for a kind: the drain that waits in the drain unit goes on, if its record is of the kind; else the executing
record does what it does, once one past its release point has made room. -/
def withRunning (s : State) (e kind : Nat) (go : State → Running → Operands → Out State) : Out State :=
  match (engineAt s e).draining.filter (fun q => rcKind q.record.words == kind && q.retry) with
  | some q => drainRun s e q (putDraining e)
  | none =>
    let s1 := if ((engineAt s e).executing.map Running.released).getD false then modEngine s e Engine.advance else s
    match (engineAt s1 e).executing with
    | none => .next s1
    | some q =>
      if q.done || rcKind q.record.words != kind then .next s1 else go s1 q (operandsOf s1 e q.record.ctx)

/-- The executing record drains, while the drain unit is free. -/
def drainNext (s : State) (e : Nat) (q : Running) : Out State :=
  if (q.stopped.isNone || q.retry) && (engineAt s e).draining.isNone then drainRun s e q (putRunning e)
  else .next (putRunning e s q)

/-! ## The kinds (R224) -/

/-- WLOAD: the shadow store takes a plane. -/
def execWload (engine : BitVec 9) (s : State) : Out State :=
  let e := engine.toNat
  withRunning s e 1 (fun s q o =>
    let p := loadPlane s o q.record.words 0 (engineAt s e).shadow
    .next (recordDone (modEngine s e (fun x => { x with shadow := p.1 })) e (p.2 || badNibble p.1)))

/-- SWAP: the planes exchange. -/
def execSwap (engine : BitVec 9) (s : State) : Out State :=
  let e := engine.toNat
  withRunning s e 2 (fun s _ _ => .next (recordDone (modEngine s e Engine.swap) e false))

/-- The multiply-accumulates of a stream of a record are counted by its format (R331; DESIGN CHOICE: log 100). -/
def countMacs (s : State) (q : Running) (chunks : Nat) : State :=
  let r := q.record.words
  addActivity s q.record.ctx (64 + rcAfmt r) (chunks * rcRows r * 256 * kPerRow (rcAfmt r))

/-- MSTREAM: rows against the active plane. -/
def execMstream (engine : BitVec 9) (s : State) : Out State :=
  let e := engine.toNat
  withRunning s e 3 (fun s q o =>
    let f := stream s o q.record.words 0 (rcAcc q.record.words) (engineAt s e)
    .next (recordDone (modEngine (countMacs s q 1) e (fun _ => f.1)) e f.2))

/-- GEMM: chunks of load, swap and stream, then perhaps a drain; a drain that waits goes on from its row. -/
def execGemm (engine : BitVec 9) (s : State) : Out State :=
  let e := engine.toNat
  withRunning s e 4 (fun s q o =>
    let r := q.record.words
    if q.streamed then drainNext s e q
    else
      let x := engineAt s e
      let x0 := if rcAcc r then x else zeroRows x (rcBank r) (rcRow0 r) (rcRows r)
      let f := gemmChunks s o r (List.range (rcNk r)) false x0
      let s1 := modEngine (countMacs s q (rcNk r)) e (fun _ => f.1)
      if f.2.1 || !rcDrn r then .next (recordDone s1 e (f.2.1 || f.2.2))
      else drainNext s1 e { q with streamed := true, error := q.error || f.2.2, drained := 0 })

/-- DRAIN: rows converted and written, from the row that waited for its page. -/
def execDrain (engine : BitVec 9) (s : State) : Out State :=
  let e := engine.toNat
  withRunning s e 5 (fun s q _ => drainNext s e q)

/-- The completion of a record: its counters, then its token (R227). -/
def completeRecord (s : State) (e : Nat) (q : Running) : State :=
  let cl := e / 16
  let first := ((counterShare? s cl q.record.ctx).map (·.1)).getD 0
  let key := fun (o : Option Nat) => o.map (fun i => cl * 4096 + first + i)
  tokenUpdate (decCounter (decCounter s (key (rcD0 q.record.words))) (key (rcD1 q.record.words))) q.record.tok q.error

/-- A record that is done completes: the oldest that has been released, or else the executing one, whose place the pending record
takes (R227, R364). -/
def execRecordComplete (engine : BitVec 9) (s : State) : Out State :=
  let e := engine.toNat
  let x := engineAt s e
  match x.units.find? (·.done), x.executing.filter (·.done) with
  | some q, _ => .next (completeRecord (modEngine s e (fun x => { x with units := x.units.erase q })) e q)
  | none, some q =>
    .next (completeRecord (modEngine s e (fun x => { x with executing := x.pending.map Running.start, pending := none })) e q)
  | none, none => .next s

end Sys2Proof.Machine
end

