-- ==== Sys2Proof/Machine/FabricEvents.lean ====
section
/-! DEFINITION. Packets between parts: what this part takes from a peer and answers, what an answer completes, resending and
the loss of a peer (R270, R383 to R392). Bodies of packets, where the spec names their fields only, are laid out little-endian in
the order of R384's table, and an answer begins with the SEQ of the packet it answers (DESIGN CHOICE: log 13). -/

namespace Sys2Proof.Machine

/-! ## Fields of a packet (R383) -/

/-- A number in some bytes of a list. -/
def numAt (bs : List Byte) (a n : Nat) : Nat := natOfBytes ((bs.drop a).take n)

def pkSeq (p : List Byte) : BitVec 32 := BitVec.ofNat 32 (numAt p 0 4)
def pkSrc (p : List Byte) : BitVec 10 := BitVec.ofNat 10 (numAt p 4 2)
def pkKind (p : List Byte) : Nat := numAt p 8 1
def pkLen (p : List Byte) : Nat := numAt p 10 2
def pkOseq (p : List Byte) : BitVec 32 := BitVec.ofNat 32 (numAt p 12 4)
def pkBody (p : List Byte) : List Byte := (p.drop 16).take (pkLen p)

/-- A remote operation with flags that its encoding gives it (R194): words of 4 to 16 bytes, additions of 4 or 8, at most eight hops. -/
def ropOk (aop fl : Nat) : Bool :=
  match aop with
  | 0 => decide (fl ≤ 2)
  | 1 => decide (fl ≤ 2)
  | 2 => decide (fl ≤ 1)
  | 3 => fl == 0
  | 4 => fl == 0
  | 5 => decide (fl ≤ 7)
  | _ => false

/-- A body has the length of its kind, and its fields are ones that the kind has. -/
def bodyOk (kind : Nat) (b : List Byte) : Bool :=
  let n := b.length
  match kind with
  | 0x01 => decide (16 ≤ n) && decide (n ≤ 128)
  | 0x02 => decide (15 ≤ n) && decide (n ≤ 14 + 1024)
  | 0x03 => n == 20 && decide (1 ≤ numAt b 14 2) && decide (numAt b 14 2 ≤ 1024)
  | 0x04 => decide (9 ≤ n) && decide (n ≤ 9 + 1024)
  | 0x05 => n == 30 && ropOk (numAt b 8 1) (numAt b 9 1)
  | 0x06 => n == 29
  | 0x07 => n == 11 && decide (numAt b 10 1 < 4)
  | 0x08 => n == 19
  | 0x09 => n == 84
  | 0x0A => n == 8
  | 0x0B => n == 8
  | 0x0C => n == 8
  | 0x0D => n == 12
  | _ => false

/-- A well-formed packet for this part (R383, R384). -/
def packetOk (s : State) (p : List Byte) : Bool :=
  decide (16 ≤ p.length) && numAt p 4 2 < 1024 && numAt p 6 2 == s.fab.self.toNat && numAt p 9 1 == 0 &&
  decide (pkLen p ≤ 1056) && (pkBody p).length == pkLen p && bodyOk (pkKind p) (pkBody p) && (pkKind p == 1 || pkOseq p == 0) &&
  (pkKind p != 0x0D || pkSeq p == 0)

/-- The wait that a not-present answer stands for (R196, R209, R306). -/
def statusAbsent? (st : Nat) (p : BitVec 10) (ctx : CtxId) (va : Nat) : Option Absent :=
  if st = stUnmapped then some ⟨va / 2 ^ 19 * 2 ^ 19, .unmapped, ctx, none, some p, true⟩
  else if st = stUnbacked then some ⟨va / 2 ^ 19 * 2 ^ 19, .unbacked, ctx, none, some p, true⟩
  else none

/-- The n-th received packet, if it is of a kind. -/
def rxAt? (s : State) (n kind : Nat) : Option (Nat × Nat × List Byte) :=
  match s.fab.rx[n]? with
  | none => none
  | some p => if pkKind p.2.2 = kind then some p else none

/-- Takes a received packet away. -/
def dropRx (s : State) (n : Nat) : State := { s with fab := { s.fab with rx := s.fab.rx.eraseIdx n } }

/-- A duplicate makes the part acknowledge again, or send its answer again while it keeps it (R385); so too the answer of a WRITE
that has failed. -/
def answerAgain (s : State) (p : BitVec 10) (q : BitVec 32) (kind : Nat) : State :=
  let kept := if [2, 3, 5, 7, 9, 11].contains kind then
      (peerAt s p).unacked.find? (fun x => x.use == .answer && numAt x.bytes 16 4 == q.toNat)
    else none
  match kept with
  | some x => route s p x.seq.toNat (pktVnet x.kind .sys) x.bytes
  | none => if [3, 7, 9, 11].contains kind then s else sendEack s p q

/-! ## Taking a packet -/

/-- A packet of a kind is taken once: what it does gets the state, the source, SEQ, port and body. Markers that waited for it are
answered after it. -/
def withPacket (s : State) (n kind : Nat) (go : State → BitVec 10 → BitVec 32 → Nat → List Byte → Out State) : Out State :=
  match rxAt? s n kind with
  | none => .next s
  | some (port, _, b) =>
    let p := pkSrc b
    let q := pkSeq b
    if received (peerAt s p) q then .next (answerAgain (dropRx s n) p q kind)
    else
      match go (modPeer (dropRx s n) p (fun x => markSeq x q)) p q port (pkBody b) with
      | .next t => .next (answerMarkers t p)
      | o => o

/-! ## The end of a packet at its source (R385, R386, R392) -/

/-- Packets that wait for a place are sent while there is one. -/
def sendWaiting (p : BitVec 10) : Nat → State → State
  | 0, s => s
  | n + 1, s =>
    match (peerAt s p).waiting with
    | [] => s
    | (k, b, u, port) :: r =>
      if (peerAt s p).unacked.length < 4096 then
        let v : VNet := match u with | .message m => m.vnet | _ => .sys
        sendWaiting p n (sendPacketOn (modPeer s p (fun x => { x with waiting := r })) port p k v b u)
      else s

/-- Invalidations taken from a peer whose packets have been acknowledged are acknowledged (R392). -/
def answerInvals (s : State) (p : BitVec 10) : State :=
  let ready := s.fab.remoteInvals.filter (fun v => v.peer == p && v.waits.isEmpty)
  ready.foldl (fun s v => answer s p 0x0A v.seq (bytesOf 4 v.handle.toNat))
    { s with fab := { s.fab with remoteInvals := s.fab.remoteInvals.filter (fun v => !(v.peer == p && v.waits.isEmpty)) } }

/-- A packet is acknowledged or answered: it is kept no longer. What it was for, if it was still kept. -/
def finishPacket (s : State) (p : BitVec 10) (q : BitVec 32) : State × Option PktUse :=
  match (peerAt s p).unacked.find? (fun x => x.seq == q) with
  | none => (s, none)
  | some x =>
    let s1 := modPeer s p (fun y => { y with unacked := y.unacked.filter (fun z => z.seq != q) })
    let s2 := { s1 with fab := { s1.fab with remoteInvals := s1.fab.remoteInvals.map (fun v =>
      if v.peer == p then { v with waits := v.waits.filter (fun w => w != q) } else v) } }
    (sendWaiting p 1 (answerInvals s2 p), some x.use)

/-! ## What answers do -/

/-- Changes the copy at the head of a queue, while it is the one with a token. -/
def modCopyOf (s : State) (q : Nat) (tok : TokRef) (f : Copy → Copy) : State :=
  modHead s q (fun c => if c.tok = tok then f c else c)

/-- A packet of a copy run has been answered. -/
def copyAnswered (s : State) (q : Nat) (tok : TokRef) : State :=
  modCopyOf s q tok (fun c => { c with peerOut := c.peerOut - 1 })

/-- The head of a queue, if it has the token. -/
def copyOf? (s : State) (q : Nat) (tok : TokRef) : Option Copy :=
  match (queueAt s q).copies with
  | c :: _ => if c.tok = tok then some c else none
  | [] => none

/-- A packet of a copy run has failed at the peer: the copy stops on an absent page, or ends in error (R209, R391). -/
def copyFailed (s : State) (q : Nat) (tok : TokRef) (p : BitVec 10) (st va : Nat) : State :=
  match copyOf? s q tok with
  | none => s
  | some c =>
    let s1 := copyAnswered s q tok
    match statusAbsent? st p c.ctx va with
    | some a => if c.done then s1 else copyStops s1 q c a
    | none => copyFails s1 q

/-- A failed or absent outcome of a ROP, as its status says. -/
def ropStatus (s : State) (e : Entry) (k core : Nat) (p : BitVec 10) (st : Nat) (value : DWord) : State :=
  match statusAbsent? st p e.ctx (value.toNat % 2 ^ 52) with
  | some a => if e.kind = .ropSt || ropWaits s e k core then ropAway s e k core a else s
  | none => ropFails s e k core (BitVec.ofNat 8 st) (if value.toNat = e.ea.toNat % 2 ^ 52 then e.ea else value)

/-- What follows a FABRIC release whose markers are all acknowledged (R244, R270, R350). -/
def releaseDone (s : State) (r : FabRelease) : State :=
  match r.done with
  | .phase g acq =>
    let ks := (strandsOfGroup g).filter (fun k => (strandAt s k).wait == .fabric r.id)
    if ks.isEmpty then s else modStrands (if acq then acquire s r.core else s) ks Strand.past
  | .launchTask l => launchTaskDone s l
  | .launchEnd l => launchFinish s l
  | .entry ix => entrySteps s ix

/-- A peer's marker of a release is acknowledged. -/
def markerAcked (s : State) (p : BitVec 10) (id : Nat) : State :=
  match s.fab.releases.find? (fun r => r.id == id) with
  | none => s
  | some r =>
    let ps := r.peers.filter (fun x => x != p)
    let rest := s.fab.releases.filter (fun x => x.id != id)
    if ps.isEmpty then releaseDone { s with fab := { s.fab with releases := rest } } r
    else { s with fab := { s.fab with releases := s.fab.releases.map (fun x => if x.id == id then { x with peers := ps } else x) } }

/-- A peer has acknowledged the invalidation of a node (R392). -/
def peerInvalAcked (s : State) (p : BitVec 10) (node : Nat) : State :=
  settleInvals { s with map := { s.map with invals := s.map.invals.map (fun v =>
    { v with peers := v.peers.filter (fun x => !(x.1 == p && x.2 == node)) }) } }

/-- A bare acknowledgement: what the packet was for is done. -/
def ackUse (s : State) (u : PktUse) : State :=
  match u with
  | .copyWrite q tok => copyAnswered s q tok
  | .message m => noteDelivered s m
  | .ropSt e core => ropStDone s e core
  | _ => s

/-! ## Requests of peers (R384, R391, R394) -/

/-- The handle of a packet lets its port use its own cache: the node is live, of that generation, and not cut (R391). -/
def handleLive (s : State) (h : Nat) : Bool :=
  match byHandle? s.map (BitVec.ofNat 64 h) with
  | none => false
  | some (i, _) => !isCut s.map i

/-- The translations of a port's own pages leave room for those of peers' pages (R287). -/
def portTrim (s : State) (port : Nat) : State :=
  let c := portCache port
  let n := (s.fab.remote.filter (fun x => portCache x.port == c)).length
  if n = 0 then s else { s with tlbs := AMap.modify s.tlbs c (fun l => l.take (256 - n)) }

/-- A walk at the port: its own cache only under a live handle; a cut node answers REVOKED. -/
def portWalk (s : State) (port : Nat) (ctx : CtxId) (va h : Nat) (write : Bool) : State × WalkOut :=
  let r := if handleLive s h then translate s [portCache port] ctx va write
    else
      let w := walkRead s ctx va write
      (match w.2 with | .page e => tlbFill w.1 e (portCache port) | _ => w.1, w.2)
  match r.2 with
  | .page e => (portTrim r.1 port, if isCut s.map e.node then .revoked else r.2)
  | _ => r

/-- The outcome of a walk for an access with a right: a physical address, or a status. -/
def portAccess (s : State) (port : Nat) (ctx : CtxId) (va h right : Nat) : State × Sum Nat Nat :=
  if 2 ^ 52 ≤ va then (s, .inr cPROT.toNat)
  else
    let r := portWalk s port ctx va h (right != rR)
    match r.2 with
    | .revoked => (r.1, .inr cREVOKED.toNat)
    | .absent a => (r.1, .inr (absentStatus a))
    | .page e => (r.1, if e.rights.getLsbD right then .inl (e.pa + (va - e.va)) else .inr cPROT.toNat)

/-- The places of an extent that a peer names, unit by unit; or the status of the first that is no place, and its address. -/
def portPlaces (port : Nat) (ctx : CtxId) (h right : Nat) : State → List (Nat × Nat) → State × Sum (List (Nat × Nat)) (Nat × Nat)
  | s, [] => (s, .inl [])
  | s, (va, n) :: r =>
    let f := portAccess s port ctx va h right
    match f.2 with
    | .inr st => (f.1, .inr (st, va))
    | .inl pa =>
      let q := portPlaces port ctx h right f.1 r
      match q.2 with
      | .inl l => (q.1, .inl ((pa, n) :: l))
      | x => (q.1, x)

/-- A WRITE is performed at the coherence point and acknowledged; one that cannot be is answered with its status. -/
def execWrite (n : Nat) (s : State) : Out State :=
  withPacket s n 0x02 (fun s p q port b =>
    let va := numAt b 2 8
    let data := b.drop 14
    let r := portPlaces port (BitVec.ofNat 12 (numAt b 0 2)) (numAt b 10 4) rW s (unitPieces va data.length 3)
    match r.2 with
    | .inr (st, a) => .next (answer r.1 p 0x08 q (BitVec.ofNat 8 st :: bytesOf 8 a ++ bytesOf 6 0))
    | .inl l =>
      match paStops? (l.flatMap (fun x => [x.1, x.1 + (x.2 - 1)])) with
      | some o => o
      | none => .next (sendEack (performAll r.1 l data) p q))

/-- A READ is answered with its data, or with a status. -/
def execRead (n : Nat) (s : State) : Out State :=
  withPacket s n 0x03 (fun s p q port b =>
    let va := numAt b 2 8
    let len := numAt b 14 2
    let tag := numAt b 16 4
    let r := portPlaces port (BitVec.ofNat 12 (numAt b 0 2)) (numAt b 10 4) rR s (unitPieces va len 3)
    let reply := fun (s : State) (st : Nat) (data : List Byte) =>
      answer s p 0x04 q (bytesOf 4 tag ++ [BitVec.ofNat 8 st] ++ data)
    match r.2 with
    | .inr (st, _) => .next (reply r.1 st [])
    | .inl l =>
      match paStops? (l.flatMap (fun x => [x.1, x.1 + (x.2 - 1)])) with
      | some o => o
      | none =>
        let e := l.foldl (fun (x : State × Bool) y => let z := eccRange x.1 y.1 y.2; (z.1, x.2 || z.2)) (r.1, false)
        if e.2 then .next (reply e.1 cDATAERR.toNat [])
        else .next (reply e.1 stOk (l.flatMap (fun x => memBytes e.1 x.1 x.2))))

/-- A ROP of a peer is on its way to its unit, or there. -/
def ropTaken (s : State) (p : BitVec 10) (q : BitVec 32) : Bool :=
  (s.mesh.filterMap (fun m => match m.kind with | .ropReq j => some j | .ropRes j _ => some j | _ => none) ++ s.units.flatMap (·.2)).any
    (fun j => match j.source with | .peer p' q' _ => p' == p && q' == q | .strand .. => false)

/-- The operation that a ROP packet asks for. -/
def peerRop (b : List Byte) : Entry :=
  let aop := numAt b 8 1
  { kind := if aop = 1 then .ropSt else .ropR, ea := BitVec.ofNat 64 (numAt b 0 8 % 2 ^ 52), data := wordsOf 4 (numAt b 10 16), size := 0
    aop := BitVec.ofNat 5 aop, fl := BitVec.ofNat 4 (numAt b 9 1), d := 0, sign := false, strand := 0, order := 0
    away := ⟨0, .unmapped, 0, none, none, false⟩, ctx := BitVec.ofNat 12 (numAt b 0 8 / 2 ^ 52), uid := 0, taskId := 0, msgId := 0
    discarded := false, sent := false }

/-- A ROP goes from its port to its unit, where its hops stay on this part; it is answered when it has performed. One that fails the
checks of its address is answered at once; a copy of one that is on its way is dropped (R194, R385, R391, R394). -/
def execRop (n : Nat) (s : State) : Out State :=
  match rxAt? s n 0x05 with
  | none => .next s
  | some (port, _, b) =>
    let p := pkSrc b
    let q := pkSeq b
    let e := peerRop (pkBody b)
    let s0 := dropRx s n
    if received (peerAt s p) q then .next (answerAgain s0 p q 0x05)
    else if ropTaken s p q then .next s0
    else
      let gate := portAccess s0 port e.ctx e.ea.toNat (numAt (pkBody b) 26 4) (ropRight e.aop.toNat)
      match gate.2 with
      | .inr st => .next (peerRopReply gate.1 p q st e.ea [])
      | .inl _ => .next (unitSend gate.1 [portCache port] e (.peer p q port) (.opticalPort (BitVec.ofNat 5 port)))

/-- A translation request is walked and answered; a granted one sets the peer's bit of REMOTE (R290, R391). -/
def execXreq (n : Nat) (s : State) : Out State :=
  withPacket s n 0x07 (fun s p q port b =>
    let ctx : CtxId := BitVec.ofNat 12 (numAt b 0 2)
    let va := numAt b 2 8
    let right := numAt b 10 1
    let reply := fun (s : State) (st a z rights h : Nat) =>
      answer s p 0x08 q ([BitVec.ofNat 8 st] ++ bytesOf 8 a ++ bytesOf 1 z ++ bytesOf 1 rights ++ bytesOf 4 h)
    if 2 ^ 52 ≤ va then .next (reply s cPROT.toNat va 0 0 0)
    else
      let r := portWalk s port ctx va 0xFFFFFFFF (right != rR)
      match r.2 with
      | .revoked => .next (reply r.1 cREVOKED.toNat va 0 0 0)
      | .absent a => .next (reply r.1 (absentStatus a) va 0 0 0)
      | .page e =>
        if !e.rights.getLsbD right then .next (reply r.1 cPROT.toNat va 0 0 0)
        else
          let m : MapEngine := { r.1.map with nodes := AMap.modify r.1.map.nodes e.node (fun x =>
            { x with remote := x.remote ||| (1#64 <<< (p.toNat % 64)) }) }
          let h := ((AMap.get? m.nodes e.node).map (handleOf e.node)).getD 0
          .next (reply { r.1 with map := m } stOk e.va e.psize.toNat e.rights.toNat h))

/-- A WRITE, READ or ROP packet touches an extent of a context that a filter holds. -/
def packetIn (x : SentPkt) (filter : BitVec 512) (va len : Nat) : Bool :=
  let b := x.bytes.drop 16
  let ctx := if x.kind = 5 then numAt b 0 8 / 2 ^ 52 else numAt b 0 2
  let a := if x.kind = 5 then numAt b 0 8 % 2 ^ 52 else numAt b 2 8
  let n := if x.kind = 2 then b.length - 14 else if x.kind = 3 then numAt b 14 2 else 1
  (x.kind == 2 || x.kind == 3 || x.kind == 5) && filter.getLsbD (ctx % 512) && meets a n va len

/-- An invalidation of a peer: the translations of the extent go, and it is acknowledged once every packet sent under them is
(R392). -/
def execInval (n : Nat) (s : State) : Out State :=
  withPacket s n 0x09 (fun s p q _ b =>
    let va := numAt b 68 8
    let len := numAt b 76 8
    let filter : BitVec 512 := BitVec.ofNat 512 (numAt b 0 64)
    let hit := fun (r : RemoteTr) => r.peer == p && filter.getLsbD (r.ctx.toNat % 512) && meets r.va (pageBytes r.psize) va len
    let waits := ((peerAt s p).unacked.filter (fun x => packetIn x filter va len)).map (·.seq)
    let s1 := { s with fab := { s.fab with
      remote := s.fab.remote.filter (fun r => !hit r)
      remoteInvals := s.fab.remoteInvals ++
        [⟨p, q, BitVec.ofNat 32 (numAt b 64 4), waits⟩] } }
    .next (answerInvals s1 p))

/-- A marker is answered once the packets up to M have performed (R388). -/
def execMarker (n : Nat) (s : State) : Out State :=
  withPacket s n 0x0B (fun s p q _ b =>
    .next (modPeer s p (fun x => { x with
      markersIn := x.markersIn ++ [(q, BitVec.ofNat 32 (numAt b 0 4), BitVec.ofNat 32 (numAt b 4 4))] })))

/-! ## Answers of peers -/

/-- An answer to a packet of this part: it is acknowledged, and what the packet was for goes on, once; then ROPs that waited for
their turn behind it (R195). -/
def withAnswer (s : State) (n kind : Nat) (go : State → BitVec 10 → PktUse → Nat → List Byte → State) : Out State :=
  withPacket s n kind (fun s p q port b =>
    let s1 := sendEack s p q
    let f := finishPacket s1 p (BitVec.ofNat 32 (numAt b 0 4))
    .next (match f.2 with
      | none => f.1
      | some u => ropsNext (go f.1 p u port (b.drop 4)) p))

/-- Data of a READ: the bytes stand at the tag's offset of their run. -/
def execRdata (n : Nat) (s : State) : Out State :=
  withAnswer s n 0x04 (fun s p u _ b =>
    match u with
    | .copyRead q tok =>
      let off := numAt b 0 4
      let st := numAt b 4 1
      let data := b.drop 5
      if st = stOk then
        modCopyOf (copyAnswered s q tok) q tok (fun c => { c with
          peerData := c.peerData.map (fun d => d.take off ++ data ++ d.drop (off + data.length)) })
      else
        let va := ((copyOf? s q tok).map (fun c =>
          let src := runPieces c.shape false c.src (c.run % shRuns1 c.shape) (c.run / shRuns1 c.shape) ++
            runScale c.shape false c.src c.run
          (((readPieces src).find? (fun x => x.1 == off)).map (fun x => x.2.1)).getD 0)).getD 0
        copyFailed s q tok p st va
    | _ => s)

/-- The answer of a ROP: its data, a trap, an absent page (R195, R196). -/
def execRoprep (n : Nat) (s : State) : Out State :=
  withAnswer s n 0x06 (fun s p u _ b =>
    let st := numAt b 0 1
    let value : DWord := BitVec.ofNat 64 (numAt b 1 8)
    match u with
    | .rop e k core =>
      if st = stOk then
        ropDone s e k core (wordsOf (if e.aop = 0 ∨ e.aop = 2 then 2 ^ e.fl.toNat else 2) (numAt b 9 16)) none
      else ropStatus s e k core p st value
    | .ropSt e core => if st = stOk then ropStDone s e core else ropStatus s e 0 core p st value
    | _ => s)

/-- The cache of a port takes the translation of a peer's page: of its 256 places at least half are for such translations, and it
drops the oldest (R287; DESIGN CHOICE: log 77). -/
def portFill (s : State) (r : RemoteTr) : State :=
  let c := portCache r.port
  let mine := (r :: s.fab.remote.filter (fun x => x.port == r.port && !(x.peer == r.peer && x.ctx == r.ctx && x.va == r.va))).take
    (max 128 (256 - (tlbAt s c).length))
  { s with
    fab := { s.fab with remote := mine ++ s.fab.remote.filter (fun x => x.port != r.port) }
    tlbs := AMap.modify s.tlbs c (fun l => l.take (256 - mine.length)) }

/-- The answer of a translation request: the port cache takes it and the access goes on, or it fails; or the failure of a
WRITE (R391). -/
def execXrep (n : Nat) (s : State) : Out State :=
  withAnswer s n 0x08 (fun s p u port b =>
    let st := numAt b 0 1
    let va := numAt b 1 8
    let hold := fun (ctx : CtxId) =>
      if st = stOk then
        portFill s ⟨port, p, ctx, va, BitVec.ofNat 2 (numAt b 9 1), BitVec.ofNat 4 (numAt b 10 1), BitVec.ofNat 32 (numAt b 11 4)⟩
      else s
    match u with
    | .xreqRop e k core =>
      if st = stOk then
        if e.kind = .ropSt || ropWaits s e k core then ropSendNow (hold e.ctx) p e k core else hold e.ctx
      else ropStatus s e k core p st e.ea
    | .xreqCopy q tok =>
      match copyOf? s q tok with
      | none => s
      | some c => if st = stOk then copyAnswered (hold c.ctx) q tok else copyFailed s q tok p st va
    | .copyWrite q tok => copyFailed s q tok p st va
    | _ => s)

/-- A peer's acknowledgement of an invalidation is counted (R392). -/
def execInvack (n : Nat) (s : State) : Out State :=
  withAnswer s n 0x0A (fun s p u _ _ =>
    match u with
    | .inval node => peerInvalAcked s p node
    | _ => s)

/-- A marker's acknowledgement: one for a peer is enough for a release (R388). -/
def execMarkack (n : Nat) (s : State) : Out State :=
  withAnswer s n 0x0C (fun s p u _ _ =>
    match u with
    | .marker _ id => markerAcked s p id
    | _ => s)

/-- An acknowledgement: each packet that its bitmap names is completed once (R385, R386). -/
def execEack (n : Nat) (s : State) : Out State :=
  match rxAt? s n 0x0D with
  | none => .next s
  | some (_, _, b) =>
    let p := pkSrc b
    let body := pkBody b
    let base : BitVec 32 := BitVec.ofNat 32 (numAt body 0 4)
    let qs := ((List.range 64).filter (fun i => (BitVec.ofNat 64 (numAt body 4 8)).getLsbD i)).map (fun i => base + BitVec.ofNat 32 i)
    .next (qs.foldl (fun s q =>
      let f := finishPacket s p q
      match f.2 with
      | none => f.1
      | some u => ropsNext (ackUse f.1 u) p) (dropRx s n))

/-! ## Messages of peers (R234, R384, R387) -/

/-- The VNET of a code. -/
def vnetOf (c : Nat) : VNet := match c with | 0 => .req | 1 => .bulk | 2 => .sys | _ => .reply

/-- The message of a MSG packet: a reply returns to the core and context that its origin field names. -/
def messageOf (src : BitVec 10) (v : VNet) (b : List Byte) : Message :=
  let dw : DWord := BitVec.ofNat 64 (numAt b 0 8)
  let o := numAt b 8 4
  let core : CoreId := BitVec.ofNat 8 (o / 2 ^ 10)
  let ctx : CtxId := BitVec.ofNat 12 (o / 2 ^ 18)
  let id : Word := BitVec.ofNat 32 (numAt b 12 4)
  let a0 : DWord := BitVec.ofNat 64 (numAt b 16 8)
  let a1 : DWord := BitVec.ofNat 64 (numAt b 24 8)
  let window : Option (BitVec 6) := if id.getLsbD 19 && !id.getLsbD 18 then some (id.extractLsb' 12 6) else none
  let m : Message :=
    { toDest dw ⟨some src, core, ctx, none⟩ id a0 a1 (words64 (b.drop 32)) with peer := none, vnet := v, agent := .messageRouter }
  if kindOf id = kPleach then
    let st : BitVec 4 := a0.setWidth 4
    { m with kind := if a0.getLsbD 16 then .arrive st (a0.getLsbD 8) 0 else .slotgive st (a0.getLsbD 8) false (a1.setWidth 5) }
  else if v = .reply then
    { m with core := core, ctx := ctx, slot := dw.extractLsb' 8 6, origin := ⟨some src, 0, ctx, window⟩ }
  else m

/-- The message next in order of its source and VNET goes from the message router over the mesh to its receiver; its packet is
acknowledged as it is delivered to a mailbox, an overflow mailbox or a refusal. A copy of one that is still on its way is dropped. Of
early ones 64 are kept (R384, R387). -/
def execMsg (n : Nat) (s : State) : Out State :=
  match rxAt? s n 0x01 with
  | none => .next s
  | some (_, v, b) =>
    let p := pkSrc b
    let x := peerAt s p
    let ahead := (pkOseq b - x.oseqIn.getD v 0).toNat
    if received x (pkSeq b) then .next (answerAgain (dropRx s n) p (pkSeq b) 1)
    else if ahead = 0 then
      .next (inject (modPeer (dropRx s n) p (fun y => { y with oseqIn := y.oseqIn.set v (pkOseq b + 1) }))
        { messageOf p (vnetOf v) (pkBody b) with ack := some (p, pkSeq b) })
    else if 2 ^ 31 ≤ ahead then .next (dropRx s n)
    else
      let before := (s.fab.rx.take n).filter (fun y => pkKind y.2.2 == 1 && pkSrc y.2.2 == p && y.2.1 == v)
      .next (if before.length < 64 && !before.any (fun y => pkSeq y.2.2 == pkSeq b) then s else dropRx s n)

/-! ## The loss of a peer (R385, R389) -/

/-- A fabric event record of 32 bytes goes to its ring, signalled by vector 2 (R382, R397). -/
def fabricEvent (s : State) (rec_ : List Byte) : State :=
  let r := s.mgmt.fevRing
  let i := s.mgmt.fevOut.length % 2 ^ (r.toNat % 16)
  let s1 := writeHost s (r.toNat / 4096 * 4096 + i * 32) rec_
  msix { s1 with mgmt := { s1.mgmt with fevOut := s1.mgmt.fevOut ++ [rec_] } } 0 2

/-- Nanoseconds of fabric time since module reset (R2, R382). -/
def fabricNs (s : State) : Nat := s.fab.time / 8

/-- CONN of a peer is cleared (R385). -/
def clearConn (s : State) (p : BitVec 10) : State :=
  { s with fab := { s.fab with table := AMap.modify s.fab.table p.toNat (fun w => w &&& 0x7FFFFFFFFFFFFFFF) } }

/-- A packet unacknowledged for 200 µs is sent again on any usable path; at the eighth expiry the peer is given up (R385). -/
def execE2eRetransmit (peer : BitVec 10) (seq : BitVec 32) (s : State) : Out State :=
  match (peerAt s peer).unacked.find? (fun x => x.seq == seq) with
  | none => .next s
  | some x =>
    if decide (s.now < x.sentAt + 160000) || !connected s peer then .next s
    else if x.expiries = 7 then
      .next (fabricEvent (clearConn s peer)
        ([0xFF, 4] ++ bytesOf 6 0 ++ bytesOf 8 (fabricNs s) ++ bytesOf 16 0))
    else
      let s1 := modPeer s peer (fun y => { y with unacked := y.unacked.map (fun z =>
        if z.seq == seq then { z with sentAt := s.now, expiries := z.expiries + 1 } else z) })
      let v : VNet := match x.use with | .message m => m.vnet | _ => .sys
      .next (route s1 peer seq.toNat (pktVnet x.kind v) x.bytes)

/-- The end of one operation of a peer that has left (R389). A message of this part comes back to its sender; a refusal or reply
whose sender is at a peer has none to come back to. -/
def peerLost (p : BitVec 10) (s : State) (u : PktUse) : State :=
  match u with
  | .message m =>
    match m.kind with
    | .task => if m.origin.peer.isSome then s else sendOut s { refusal m kNoctx with agent := .messageRouter }
    | .forkDone .. => s
    | k => plHold s p k m.forEntry
  | .copyWrite q tok => if (copyOf? s q tok).isSome then modHead (copyFails s q) q (fun c => { c with peerOut := 0 }) else s
  | .copyRead q tok => if (copyOf? s q tok).isSome then modHead (copyFails s q) q (fun c => { c with peerOut := 0 }) else s
  | .xreqCopy q tok => if (copyOf? s q tok).isSome then modHead (copyFails s q) q (fun c => { c with peerOut := 0 }) else s
  | .rop e k core => ropFails s e k core cFABRIC (p.setWidth 64)
  | .xreqRop e k core => ropFails s e k core cFABRIC (p.setWidth 64)
  | .ropSt e core => ropFails s e 0 core cFABRIC (p.setWidth 64)
  | .marker _ id => markerAcked s p id
  | .answer => s
  | .inval node => peerInvalAcked s p node

/-- ROPs that waited for their turn to go to a peer that has left fail (R389). -/
def heldLost (s : State) (p : BitVec 10) : State :=
  let hs := s.fab.ropsHeld.filter (fun h => h.1 == p)
  hs.foldl (fun s h => ropFails s h.2.1 h.2.2.1 h.2.2.2 cFABRIC (p.setWidth 64))
    { s with fab := { s.fab with ropsHeld := s.fab.ropsHeld.filter (fun h => h.1 != p) } }

/-- The peer of a ROP that waits as a parked access or in a side log. -/
def entryPeer? (s : State) (e : Entry) : Option (BitVec 10) :=
  if e.kind = .ropR ∨ e.kind = .ropSt then ropPeer? s e.ea else none

/-- Parked ROPs, and rop.st in the side logs, whose peer has left fail (R389). -/
def parkedLost (s : State) (p : BitVec 10) : State :=
  (s.cores.map (·.1)).foldl (fun s c =>
    (replayWhere s c (fun e => entryPeer? s e == some p) (fun e => entryPeer? s e == some p)).1) s

/-- The peers that are not in the connected group while operations to them are outstanding (R389). -/
def lostPeers (s : State) : List (BitVec 10) :=
  let busy := (s.fab.peers.filter (fun e => !e.2.unacked.isEmpty || !e.2.waiting.isEmpty)).map (·.1) ++
    s.fab.ropsHeld.map (fun h => h.1.toNat) ++
    s.cores.flatMap (fun c => (c.2.parked ++ c.2.sidelog).filterMap (fun e => (entryPeer? s e).map BitVec.toNat))
  ((once busy).map (BitVec.ofNat 10)).filter (fun p => !connected s p)

/-- Clearing CONN ends the peer's outstanding operations (R389). -/
def execPeerDisconnect (peer : BitVec 10) (s : State) : Out State :=
  if connected s peer then .next s
  else
    let x := peerAt s peer
    let us := x.unacked.map (·.use) ++ x.waiting.map (fun w => w.2.2.1)
    let s1 := modPeer s peer (fun y => { y with unacked := [], waiting := [], markersIn := [] })
    let s2 := { s1 with
      fab := { s1.fab with
        remote := s1.fab.remote.filter (fun r => r.peer != peer)
        remoteInvals := s1.fab.remoteInvals.filter (fun v => v.peer != peer) }
      map := { s1.map with invals := s1.map.invals.map (fun v => { v with peers := v.peers.filter (fun y => y.1 != peer) }) } }
    .next (settleInvals (parkedLost (heldLost (us.foldl (peerLost peer) s2) peer) peer))

end Sys2Proof.Machine
end

