-- ==== Sys2Proof/Machine/LinkEvents.lean ====
section
/-! DEFINITION. The optical ports: link flits, replay, and the restripe of a direction (R376 to R382). -/

namespace Sys2Proof.Machine

/-! ## Flits (R377) -/

def flType (f : List Byte) : Nat := numAt f 0x80 2 / 4096
def flLseq (f : List Byte) : Nat := numAt f 0x80 2 % 4096
def flVnet (f : List Byte) : Nat := numAt f 0x82 2 / 8192 % 4
def flAckv (f : List Byte) : Bool := numAt f 0x82 2 / 4096 % 2 == 1
def flLack (f : List Byte) : Nat := numAt f 0x82 2 % 4096

/-- A corrupt flit: a failing CRC, a reserved type or a reserved bit (R377). -/
def corruptFlit (f : List Byte) : Bool :=
  f.length != 144 || numAt f 0x8C 4 != (crc32 (f.take 0x8C)).toNat || decide (3 < flType f) ||
  numAt f 0x82 2 / 2 ^ 15 != 0 || numAt f 0x84 8 != 0 || (flType f != 1 && flLseq f != 0)

/-! ## Striping (R376, R378) -/

/-- The wavelengths of a direction that its usable laser sources feed, ascending. -/
def usableWaves (d : LinkDir) : List Nat := (List.range 16).filter (fun i => d.dark.extractLsb' (i / 4 * 4) 4 == 0)

/-- The stripes of a flit: each usable wavelength of a direction with its bits, the first the least significant. -/
def stripes (d : LinkDir) (flit : List Byte) : List (Nat × Nat) :=
  let ws := usableWaves d
  let b := 1152 / ws.length
  ((List.range ws.length).zip ws).map (fun e => (e.2, natOfBytes flit / 2 ^ (e.1 * b) % 2 ^ b))

/-- The flit that stripes carry, put together again. -/
def unstripe (l : List (Nat × Nat)) : List Byte :=
  let b := 1152 / l.length
  bytesOf 144 (((List.range l.length).zip l).foldl (fun n e => n + e.2.2 * 2 ^ (e.1 * b)) 0)

/-! ## The sender (R379) -/

/-- The sender replays every unacknowledged flit, in order (R379). -/
def linkReplay (s : State) (p : Nat) : State := modPort s p (fun x => { x with tx := { x.tx with again := x.tx.replay.length } })

/-- LACK frees the flits up to it (R379). -/
def lackFrees (lack : Nat) (x : Port) : Port :=
  if x.tx.replay.any (fun f => f.1 == lack) then
    let rest := (x.tx.replay.dropWhile (fun f => f.1 != lack)).tail
    { x with tx := { x.tx with
      replay := rest, times := x.tx.times.drop (x.tx.replay.length - rest.length), again := min x.tx.again rest.length } }
  else x

/-! ## The receiver (R379, R380) -/

/-- The receiver sends an RREQ that names the expected LSEQ (R377, R379). -/
def sendRreq (now : Nat) (x : Port) : Port :=
  { sendCtl 2 now (bytesOf 2 x.rx.expect) x with rx := { x.rx with rreqAt := some now } }

/-- An RREQ has been sent 1 µs ago or earlier, so that another is due. -/
def rreqDue (now : Nat) (d : LinkDir) : Bool := (d.rreqAt.map (fun t => decide (t + 8000 ≤ now))).getD false

/-- One RREQ for the expected flit, and another at most once per 1 µs (R379). -/
def askReplay (now : Nat) (x : Port) : Port := if x.rx.rreqAt.isNone || rreqDue now x.rx then sendRreq now x else x

/-- A packet that is complete is kept for its step, or discarded and counted (R384). -/
def takePacket (s : State) (port vnet : Nat) (p : List Byte) : State :=
  if packetOk s p then { s with fab := { s.fab with rx := s.fab.rx ++ [(port, vnet, p)] } }
  else { s with fab := { s.fab with discarded := s.fab.discarded + 1 } }

/-- The payload of an accepted flit joins its packet (R383). -/
def joinPayload (s : State) (port vnet : Nat) (payload : List Byte) : State :=
  let b := AMap.getD (portAt s port).parts vnet [] ++ payload
  if 16 + pkLen b ≤ b.length then
    takePacket (modPort s port (fun x => { x with parts := AMap.erase x.parts vnet })) port vnet (b.take (16 + pkLen b))
  else modPort s port (fun x => { x with parts := AMap.put x.parts vnet b })

/-- Of two LSEQs, the first lies before the second. -/
def lseqBefore (a b : Nat) : Bool := a != b && decide ((b + 4096 - a) % 4096 < 2048)

/-- A copy of a DATA flit that is still to come was corrupt. A second copy makes the error lasting, and the wavelengths whose parity
failed in both are kept (R380). -/
def copyCorrupt (d : LinkDir) (c : Nat × BitVec 16) : LinkDir :=
  if lseqBefore c.1 d.expect then d
  else
    match AMap.get? d.corrupt c.1 with
    | none => { d with corrupt := AMap.put d.corrupt c.1 c.2 }
    | some p => { d with corrupt := AMap.put d.corrupt c.1 (p &&& c.2), lasting := some (p &&& c.2) }

/-- The numbers of the corrupt flits that have come since the last sound DATA flit, as the next one tells them, since DATA flits are
sent in order: those just before it, as many as are missing there; where there are more, a replay has begun in between, and the first
of those that read as DATA follow the last one (R380; DEDUCED: log 60). -/
def corruptCopies (d : LinkDir) (n : Nat) : List (Nat × BitVec 16) :=
  let k := if !lseqBefore n ((d.last + 1) % 4096) then (n + 4095 - d.last) % 4096
    else if lseqBefore d.expect n then (n + 4096 - d.expect) % 4096 else 0
  let l := (if d.since.length ≤ k then d.since else d.since.filter (·.1)).map (·.2)
  ((List.range k).zip l).map (fun e => ((n + 4095 - e.1) % 4096, e.2)) ++
    ((List.range 512).zip (l.drop k).reverse).map (fun e => ((d.last + 1 + e.1) % 4096, e.2))

/-- A DATA flit that is not corrupt has come. -/
def soundFlit (n : Nat) (d : LinkDir) : LinkDir :=
  let e := (corruptCopies d n).foldl copyCorrupt d
  { e with last := n, since := [] }

/-- The expected DATA flit is accepted; each corrupt flit of which it is the sound copy was a transient error (R379, R380). -/
def acceptFlit (s : State) (port : Nat) (f : List Byte) : State :=
  let s1 := modPort s port (fun x =>
    let d := soundFlit (flLseq f) x.rx
    { x with
      transient := if (AMap.get? d.corrupt (flLseq f)).isSome then x.transient + 1 else x.transient
      rx := { d with
        expect := (d.expect + 1) % 4096, rreqAt := none, corrupt := AMap.erase d.corrupt (flLseq f), lasting := none } })
  joinPayload s1 port (flVnet f) (f.take 128)

/-- A flit of LSEQ n has been received before: it lies in the 512 before the expected one. -/
def seenBefore (expect n : Nat) : Bool :=
  let d := (expect + 4096 - n) % 4096
  decide (1 ≤ d) && decide (d ≤ 512)

/-- A DATA flit that is not the expected one is discarded; unless it has been received before, the receiver asks for a replay. -/
def discardFlit (lseq now : Nat) (x : Port) : Port :=
  let y := { x with rx := soundFlit lseq x.rx }
  if seenBefore x.rx.expect lseq then y else askReplay now y

/-- A corrupt flit is discarded, and the receiver asks for a replay. Its own LSEQ cannot be trusted: the DATA flits around it tell
which it was; where none has come until the RREQ has to be repeated, it and the first one are copies of the expected flit (R379,
R380; DEDUCED: log 60). -/
def corruptAt (s : State) (port : Nat) (isData : Bool) (parity : BitVec 16) : State :=
  let now := s.fab.time
  modPort s port (fun x =>
    let d :=
      if rreqDue now x.rx && isData then
        let e := (((x.rx.since.filter (·.1)).getLast?.map (·.2)).toList ++ [parity]).foldl
          (fun d p => copyCorrupt d (d.expect, p)) x.rx
        { e with since := [] }
      else { x.rx with since := ((isData, parity) :: x.rx.since).take 512 }
    askReplay now { x with rx := d })

/-! ## Restripes (R378, R380 to R382, R425) -/

/-- The laser sources none of whose wavelengths is dark (R381), and the others as bits. -/
def sourcesUp (dark : BitVec 16) : Nat := ((List.range 4).filter (fun k => dark.extractLsb' (4 * k) 4 == 0)).length
def sourcesDown (dark : BitVec 16) : Nat :=
  (List.range 4).foldl (fun n k => if dark.extractLsb' (4 * k) 4 == 0 then n else n + 2 ^ k) 0

/-- An LCTL flit carries over the control lane the dark wavelengths of a direction, in bytes 0 and 1; in byte 2 whether its sender
agrees and whether the error was lasting; and in bytes 3 and 4 of an agreement the sender's next LSEQ (R377, R381; the layout is the
model's, DESIGN CHOICE: log 26). -/
def lctlPayload (dark : BitVec 16) (agree lasting : Bool) (next : Nat) : List Byte :=
  bytesOf 2 dark.toNat ++ bytesOf 1 ((if agree then 1 else 0) + (if lasting then 2 else 0)) ++ bytesOf 2 next

/-- The receiving end states the wavelengths of its direction, while a wavelength of the reverse direction carries the control lane
(R381). -/
def stateLanes (now : Nat) (x : Port) : Port :=
  match x.rx.restripe with
  | none => x
  | some r => if x.tx.width = 0 then x else sendCtl 3 now (lctlPayload x.rx.dark false r.lasting 0) x

/-- A restripe begins, or takes in a further change: it keeps the first declaration, and the exchange starts anew (R381). Flits
discarded until then count neither as transient nor as lasting errors (R425). -/
def beginRestripe (now : Nat) (lasting : Bool) (dark : BitVec 16) (d : LinkDir) : LinkDir :=
  let r : Restripe :=
    match d.restripe, d.awaits with
    | some r, _ => { r with lasting := r.lasting || lasting }
    | none, some r => { r with lasting := r.lasting || lasting }
    | none, none => ⟨now, d.width, lasting⟩
  { d with dark := dark, corrupt := [], lasting := none, since := [], restripe := some r, agreed := none, awaits := none }

/-- The direction has a new state of its wavelengths, as its receiving end has declared: that end states it; the transmitting end
agrees, and quiesces (R381). -/
def declareLanes (now : Nat) (transmit lasting : Bool) (dark : BitVec 16) (x : Port) : Port :=
  if transmit then
    sendCtl 3 now (lctlPayload dark true lasting x.tx.nextSeq) { x with tx := beginRestripe now lasting dark x.tx }
  else stateLanes now { x with rx := beginRestripe now lasting dark x.rx }

/-- The event record of a restripe (R382) (DESIGN CHOICE: log 26). -/
def restripeRecord (port : Nat) (transmit : Bool) (d : LinkDir) (r : Restripe) (now replayed : Nat) : List Byte :=
  let neww := 4 * sourcesUp d.dark
  bytesOf 1 port ++
  bytesOf 1 ((if transmit then 1 else 0) + (if r.lasting then 2 else 0) + (if neww = 0 then 4 else 0)) ++
  bytesOf 2 d.dark.toNat ++ bytesOf 1 r.width ++ bytesOf 1 neww ++ bytesOf 2 0 ++ bytesOf 8 (r.time / 8) ++ bytesOf 4 replayed ++
  bytesOf 4 ((now - r.time) / 8) ++ bytesOf 4 (sourcesDown d.dark) ++ bytesOf 4 0

/-- A direction has the width of its usable laser sources again. -/
def LinkDir.restart (d : LinkDir) : LinkDir := { d with width := 4 * sourcesUp d.dark, restripe := none }

/-- The sender restarts: it replays every unacknowledged DATA flit, and writes its record with the first of them. A receiver that
had no lane for its own statement makes it now (R381, R382). -/
def restartTx (s : State) (p : Nat) (r : Restripe) : State :=
  let d := (portAt s p).tx
  let replayed := if sourcesUp d.dark = 0 then 0 else d.replay.length
  let s1 := modPort s p (fun x => stateLanes s.fab.time { x with tx := { x.tx.restart with again := x.tx.replay.length } })
  fabricEvent s1 (restripeRecord p true d r s.fab.time replayed)

/-- The receiver restarts once the sender has agreed; of a direction that is dark no agreement can come (DESIGN CHOICE: log 26). Its record
waits for the first restriped flit, where there will be one (R381, R382). -/
def restartRx (s : State) (p : Nat) (r : Restripe) : State :=
  let d := (portAt s p).rx
  if sourcesUp d.dark = 0 then
    fabricEvent (modPort s p (fun x => { x with rx := { x.rx.restart with agreed := none } })) (restripeRecord p false d r s.fab.time 0)
  else if d.agreed.isNone then s
  else modPort s p (fun x => { x with rx := { x.rx.restart with awaits := some r } })

/-- The direction restarts at the agreed width (R381). -/
def execRestripeRestart (port : BitVec 5) (transmit : Bool) (s : State) : Out State :=
  let p := port.toNat
  match (if transmit then (portAt s p).tx else (portAt s p).rx).restripe with
  | none => .next s
  | some r => if !featureOn s 4 then .next s else .next (if transmit then restartTx s p r else restartRx s p r)

/-- The first restriped flit: the receiving end writes its record. The replay that the flit begins ends at the sender's next LSEQ
(R382, R425). -/
def firstRestriped (s : State) (p : Nat) (f : List Byte) : State :=
  let d := (portAt s p).rx
  match d.awaits with
  | none => s
  | some r =>
    let replayed := if flType f = 1 then (d.agreed.getD 0 + 4096 - flLseq f) % 4096 else 0
    fabricEvent (modPort s p (fun x => { x with rx := { x.rx with awaits := none, agreed := none } }))
      (restripeRecord p false d r s.fab.time replayed)

/-- An LCTL flit comes: the other end's statement about this end's transmit direction, or its agreement to the last statement about
the receive direction (R381). A statement that changes nothing is agreed to. -/
def takeLctl (now : Nat) (f : List Byte) (x : Port) : Port :=
  let b := numAt f 2 1
  let dark : BitVec 16 := BitVec.ofNat 16 (numAt f 0 2)
  if b % 2 = 1 then
    if x.rx.restripe.isSome && dark == x.rx.dark then { x with rx := { x.rx with agreed := some (numAt f 3 2 % 4096) } } else x
  else if x.tx.restripe.isNone && dark == x.tx.dark && b / 2 % 2 == 0 then
    sendCtl 3 now (lctlPayload dark true false x.tx.nextSeq) x
  else declareLanes now true (b / 2 % 2 == 1) dark x

/-! ## Events of a port -/

/-- A DATA flit comes: the expected one is accepted, and any other discarded; none while the direction is being restriped (R379,
R381). -/
def takeData (s : State) (p : Nat) (f : List Byte) : State :=
  let d := (portAt s p).rx
  if d.restripe.isSome then s
  else if flLseq f = d.expect then acceptFlit s p f
  else modPort s p (discardFlit (flLseq f) s.fab.time)

/-- A receive direction that has the agreement of the other end restarts, at the latest as a flit comes. -/
def restartLate (s : State) (p : Nat) : State :=
  match (portAt s p).rx.restripe, (portAt s p).rx.agreed with
  | some r, some _ => restartRx s p r
  | _, _ => s

/-- A link flit arrives (R379): its LACK frees flits; DATA is accepted in order or discarded, with an RREQ; an RREQ makes this
end replay; an LCTL carries the exchange of a restripe, on wavelengths that have light even while the direction has no width. A corrupt
flit of a direction that is being restriped asks for nothing (R381, R425). -/
def execLinkFlit (port : BitVec 5) (bytes : List Byte) (parity : BitVec 16) (s : State) : Out State :=
  let p := port.toNat
  if !featureOn s 4 then .next s
  else if corruptFlit bytes then
    let d := (portAt s p).rx
    .next (if d.width = 0 || d.restripe.isSome then s else corruptAt s p (flType bytes == 1) parity)
  else if flType bytes = 3 then
    .next (modPort s p (fun x => takeLctl s.fab.time bytes (if flAckv bytes then lackFrees (flLack bytes) x else x)))
  else
    let s0 := restartLate s p
    if (portAt s0 p).rx.width = 0 then .next s0
    else
      let s1 := firstRestriped (if flAckv bytes then modPort s0 p (lackFrees (flLack bytes)) else s0) p bytes
      match flType bytes with
      | 1 => .next (takeData s1 p bytes)
      | 2 => .next (linkReplay s1 p)
      | _ => .next s1

/-- A replay request arrives (R379). -/
def execRreq (port : BitVec 5) (s : State) : Out State := .next (if featureOn s 4 then linkReplay s port.toNat else s)

/-- A receiver that still waits asks again (R379). -/
def execRreqResend (port : BitVec 5) (s : State) : Out State :=
  let d := (portAt s port.toNat).rx
  if rreqDue s.fab.time d && d.restripe.isNone && featureOn s 4 then .next (modPort s port.toNat (sendRreq s.fab.time)) else .next s

/-- The oldest flit was sent 2 µs ago or earlier, and has not been acknowledged; the timer stands still during a restripe (R379,
R381). -/
def replayDue (now : Nat) (d : LinkDir) : Bool :=
  d.width != 0 && d.restripe.isNone && decide (d.again < d.replay.length) && decide (d.times.headD now + 16000 ≤ now)

/-- 2 µs without acknowledgement of the oldest flit make the sender replay (R379). -/
def execLinkReplayTimeout (port : BitVec 5) (s : State) : Out State :=
  if replayDue s.fab.time (portAt s port.toNat).tx then .next (linkReplay s port.toNat) else .next s

/-- The dark wavelengths of a direction. -/
def darkAt (s : State) (p : Nat) (transmit : Bool) : BitVec 16 := if transmit then (portAt s p).tx.dark else (portAt s p).rx.dark

/-- The wavelengths of a direction of a port become those of a declaration; a port that the fabric's feature keeps down runs no
exchange (R381, R407). -/
def declare (s : State) (p : Nat) (transmit lasting : Bool) (dark : BitVec 16) : State :=
  modPort s p (fun x =>
    if featureOn s 4 then declareLanes s.fab.time transmit lasting dark x
    else if transmit then { x with tx := { x.tx with dark := dark } }
    else { x with rx := { x.rx with dark := dark } })

/-- A power monitor declares loss of light; the declaration reaches the transmitting end over the control lane (R381, R425). -/
def execLossOfLight (port : BitVec 5) (transmit : Bool) (waves : BitVec 16) (s : State) : Out State :=
  let d := darkAt s port.toNat transmit
  if d ||| waves = d then .next s else .next (declare s port.toNat transmit false (d ||| waves))

/-- A lost wavelength returns (R381). -/
def execWavelengthReturn (port : BitVec 5) (transmit : Bool) (waves : BitVec 16) (s : State) : Out State :=
  let d := darkAt s port.toNat transmit
  if d &&& waves = 0 then .next s else .next (declare s port.toNat transmit false (d &&& ~~~waves))

/-- A replayed flit was corrupt again: its wavelengths have lost light, or the direction is reset at its width (R380). -/
def execLastingLinkError (port : BitVec 5) (s : State) : Out State :=
  match (portAt s port.toNat).rx.lasting with
  | none => .next s
  | some waves => .next (declare s port.toNat false true (darkAt s port.toNat false ||| waves))

end Sys2Proof.Machine
end

