-- ==== Sys2Proof/Machine/Host.lean ====
section
/-! DEFINITION. The operations of the message windows (R397 to R403, R407, R410). Each is the handling of the post at the head
of a window. -/

namespace Sys2Proof.Machine

/-! ## Posts and their entries (R397, R398) -/

/-- A send slot's fields. -/
structure Slot where
  dw : DWord
  op : Nat
  words : Nat
  rsv : Nat
  tag : Word
  a0 : DWord
  a1 : DWord
  payload : List DWord
  deriving DecidableEq, Repr

def slotOf (p : Post) : Slot :=
  let b := fit 128 p.bytes
  let rd := fun (o n : Nat) => natOfBytes ((b.drop o).take n)
  { dw := BitVec.ofNat 64 (rd 0 8), op := rd 8 2, words := rd 10 1, rsv := rd 11 1, tag := BitVec.ofNat 32 (rd 12 4)
    a0 := BitVec.ofNat 64 (rd 16 8), a1 := BitVec.ofNat 64 (rd 24 8), payload := words64 (b.drop 32) }

/-- A payload word of a slot. -/
def Slot.word (x : Slot) (n : Nat) : DWord := x.payload.getD n 0

/-- What becomes of a post: its entry at once, a message on its way, an entry later; or it waits. -/
inductive PostEnd where
  | entry (status : Nat) (a0 : DWord)
  | sent
  | later
  | wait
  deriving DecidableEq, Repr

def hOk : Nat := 0x00
def hBadop : Nat := 0x20
def hDenied : Nat := 0x21
def hBadarg : Nat := 0x22
def hBusy : Nat := 0x23

/-- The operations of the table of R397. -/
def allocatedOp (op : Nat) : Bool := decide (op ≤ 0x07) || (decide (0x10 ≤ op) && decide (op ≤ 0x17))

/-- Operations open to the PF alone. -/
def pfOnly (op : Nat) : Bool := [0x05, 0x06, 0x10, 0x11, 0x14, 0x15, 0x17].contains op

/-- Operations that a PF that is not the owner may not post (R404). -/
def ownerOnly (op : Nat) : Bool := op == 0x05 || op == 0x06 || decide (0x10 ≤ op)

/-- The partition of a virtual function. -/
def partOfFn? (s : State) (fn : BitVec 6) : Option (Nat × Part) :=
  if fn = 0 then none else s.parts.find? (fun p => p.2.vfs.getLsbD fn.toNat)

/-- The context as which a window's posts act (R397); none for a function of no partition. -/
def issuerOf? (s : State) (fn : BitVec 6) : Option CtxId :=
  if fn = 0 then some 0 else (partOfFn? s fn).map (fun p => p.2.guest)

/-- A virtual function's post names a context of another partition (R397). -/
def otherPart (s : State) (fn : BitVec 6) (ctx : CtxId) : Bool :=
  fn != 0 &&
  (match partOf? s ctx, partOfFn? s fn with
   | some p, some q => p != q.1
   | some _, none => true
   | none, _ => false)

/-- The word kept for an entry that comes later: the identifier, then the TAG. -/
def laterTag (id tag : Word) : DWord := id ++ tag

/-- Whether the post has no right to its operation (R397, R404, R407). -/
def postDenied (s : State) (fn : BitVec 6) (op : Nat) : Bool :=
  (issuerOf? s fn).isNone || (fn != 0 && pfOnly op) || (fn == 0 && ownerOnly op && s.mgmt.owner != 1) ||
  (decide (0x10 ≤ op) && !s.mgmt.negotiated)

/-- The outcome of a post: its checks, then its operation. -/
def postOutcome (s : State) (fn : BitVec 6) (x : Slot) (id : Word) (go : State → Slot → Word → CtxId → State × PostEnd) :
    State × PostEnd :=
  if !allocatedOp x.op || x.rsv != 0 || decide (12 < x.words) then (s, .entry hBadop 0)
  else if postDenied s fn x.op then (s, .entry hDenied 0)
  else go s x id ((issuerOf? s fn).getD 0)

/-- Takes the head post off its window and writes, or owes, its entry. -/
def closePost (s : State) (fn : BitVec 6) (x : Slot) (id : Word) (e : PostEnd) : State :=
  let s1 := modWindow s fn (fun w => { w with
    posts := w.posts.tail, idCount := w.idCount + 1, tags := Sparse.write w.tags (id.toNat % 4096) x.tag })
  match e with
  | .entry st a0 => hostReply s1 fn true (replyEntry id x.tag st a0 0 [])
  | .sent => modWindow s1 fn (fun w => { w with sends := w.sends ++ [(id, x.tag)] })
  | .later => modWindow s1 fn (fun w => { w with laters := w.laters ++ [laterTag id x.tag] })
  | .wait => s

/-- Handles the head post of a window, if it names an operation, or no operation of the table (R396, R398). -/
def handlePost (fn : BitVec 6) (op : Nat) (s : State) (go : State → Slot → Word → CtxId → State × PostEnd) : Out State :=
  match (windowAt s fn).posts with
  | [] => .next s
  | p :: _ =>
    let x := slotOf p
    if x.op ≠ op ∧ allocatedOp x.op then .next s
    else
      let id := dieId kReq fn.toNat (windowAt s fn).idCount
      let r := postOutcome s fn x id go
      .next (if r.2 = .wait then r.1 else closePost r.1 fn x id r.2)

/-! ## Messages and mapping -/

/-- A SEND (R232, R233, R397, R398). A window has no trap: a word that is no destination is an argument out of range, and a
peer outside the connected group forbids the operation now (DEDUCED: log 29). -/
def hostSendOp (fn : BitVec 6) (s : State) (x : Slot) (id : Word) (issuer : CtxId) : State × PostEnd :=
  if badDest x.dw x.words || (x.dw.getLsbD 52 && badPc (x.word 0)) then (s, .entry hBadarg 0)
  else
    let m := toDest x.dw ⟨none, 0, issuer, some fn⟩ id x.a0 x.a1 (x.payload.take x.words)
    let here := m.peer.isNone || m.peer == some s.fab.self
    if here && otherPart s fn m.ctx then (s, .entry hDenied 0)
    else if !here && !connected s (m.peer.getD 0) then (s, .entry hBusy 0)
    else (sendOut s m, .sent)

def execHostSend (fn : BitVec 6) (s : State) : Out State := handlePost fn 0x00 s (hostSendOp fn)

/-- A request for the mapping engine, which reads some nodes for it: it waits for ever at one that has stopped (R318). -/
def askMap (s : State) (fn : BitVec 6) (x : Slot) (id : Word) (reads : List Nat) (go : State → ReplyTo → State × MapDone) :
    State × PostEnd :=
  let s1 := readNodes s reads
  if s1.map.stopped then (s1, .wait)
  else
    let r := go s1 (.host fn (laterTag id x.tag))
    match r.2 with
    | .reply v => (r.1, .entry hOk v)
    | .later => (r.1, .later)

/-- The bytes of the map request in a payload (R397). -/
def slotRequest (x : Slot) : MapReq := mapReq ((x.payload.take 4).flatMap (fun w => bytesOf 8 w.toNat))

/-- A target context is 0, or none of the issuer's partition; context 0 may target every context (R247, R278). -/
def noTarget (s : State) (fn : BitVec 6) (ctx : CtxId) : Bool :=
  ctx == 0 || (partOf? s ctx).isNone || otherPart s fn ctx

/-- MAP and GRANT (R247, R248, R282, R397). -/
def hostDerive (grant : Bool) (fn : BitVec 6) (s : State) (x : Slot) (id : Word) (issuer : CtxId) : State × PostEnd :=
  if x.a0.getLsbD 63 then
    if fn ≠ 0 then (s, .entry hDenied 0)
    else if x.a0.extractLsb' 3 60 ≠ 0 ∨ (AMap.get? s.parts (x.a0.toNat % 8)).isNone then (s, .entry hBadarg 0)
    else askMap s fn x id (deriveReads s.map issuer.toNat (slotRequest x)) (fun s who =>
      mapOrGrant s grant issuer.toNat (4096 + x.a0.toNat % 8) false false (slotRequest x) who)
  else if otherPart s fn (x.a0.setWidth 12) then (s, .entry hDenied 0)
  else askMap s fn x id (deriveReads s.map issuer.toNat (slotRequest x)) (fun s who =>
    mapOrGrant s grant issuer.toNat (x.a0.toNat % 4096) (noTarget s fn (x.a0.setWidth 12)) (x.a0.extractLsb' 12 52 != 0)
      (slotRequest x) who)

def execHostMap (fn : BitVec 6) (s : State) : Out State := handlePost fn 0x01 s (hostDerive false fn)

def execHostGrant (fn : BitVec 6) (s : State) : Out State := handlePost fn 0x02 s (hostDerive true fn)

/-- UNMAP (R249). -/
def hostUnmapOp (fn : BitVec 6) (s : State) (x : Slot) (id : Word) (issuer : CtxId) : State × PostEnd :=
  askMap s fn x id (handleReads s.map x.a0) (fun s who => unmapNode s issuer.toNat x.a0 who)

def execHostUnmap (fn : BitVec 6) (s : State) : Out State := handlePost fn 0x03 s (hostUnmapOp fn)

/-- MQUERY (R249). -/
def hostMqueryOp (fn : BitVec 6) (s : State) (x : Slot) (id : Word) (issuer : CtxId) : State × PostEnd :=
  askMap s fn x id (handleReads s.map x.a0) (fun s _ => (s, .reply (queryNode s issuer.toNat x.a0)))

def execHostMquery (fn : BitVec 6) (s : State) : Out State := handlePost fn 0x04 s (hostMqueryOp fn)

/-- The node of a reserved extent: it derives no byte of its parent, the root node of HBM (R286, DESIGN CHOICE: log 30). -/
def reserveNode (target owner : CtxId) (r : MapReq) : Node :=
  { cut := false, reclaim := false, granted := false, unbacked := true, moving := false, rights := r.rights,
    psize := r.psize, gen := 0, parent := some 0, children := [], owner := owner, space := target.toNat, pages := r.pages,
    va := r.dst, pva := 2 ^ 52, remote := 0, backs := none }

/-- Leaves of unbacked pages: one for each 512 KiB unit, or for each GiB of pages of 128 GiB (R279, R286). -/
def unbackedLeaves (node : Nat) (r : MapReq) : List Leaf :=
  List.replicate (r.bytes / (if r.psize = 2 then 2 ^ 30 else 2 ^ 19))
    ⟨false, false, false, r.rights.setWidth 4, r.psize, node, none, 0⟩

/-- The reserve form of MAP (R286, R397): the checks of R247 that do not concern a source. -/
def reserveExtent (s : State) (target owner : CtxId) (noCtx badCtx : Bool) (r : MapReq) : State × MapDone :=
  let r : MapReq := { r with src := 0 }
  if r.bad || badCtx then (s, .reply 0x09)
  else if noCtx then (s, .reply 0x05)
  else if badForm r target.toNat then (s, .reply 0x03)
  else if mapped s.map target.toNat r.dst r.bytes then (s, .reply 0x04)
  else if 2 ^ 22 - 1 ≤ s.map.nodes.length ∨
      tableLimit < s.map.tables.length + (newTables s.map target.toNat r.dst r.bytes (r.psize == 2)).length +
        (owedTables s.map).length then
    (s, .reply 0x06)
  else
    let t := takeIndex s
    let m := addNode (writeExtent (physicalSpace s target.toNat) t.1.map target.toNat r.dst r.bytes (r.psize == 2) (unbackedLeaves t.2 r)) t.2
      (reserveNode target owner r)
    let n := (nodeAt? m t.2).getD (reserveNode target owner r)
    ({ t.1 with map := m }, .reply (BitVec.ofNat 64 (handleOf t.2 n * 2 ^ 32)))

/-- RESERVE: OWNER is the context that the host names, whichever it is (R286). -/
def reserveOp (fn : BitVec 6) (s : State) (x : Slot) (id : Word) (_issuer : CtxId) : State × PostEnd :=
  let target : CtxId := x.a0.setWidth 12
  let owner : CtxId := x.a1.setWidth 12
  if x.a1.extractLsb' 12 52 ≠ 0 then (s, .entry hBadarg 0)
  else askMap s fn x id [0] (fun s _ =>
    reserveExtent s target owner (noTarget s fn target) (x.a0.extractLsb' 12 52 != 0) (slotRequest x))

def execReserve (fn : BitVec 6) (s : State) : Out State := handlePost fn 0x05 s (reserveOp fn)

/-- The migration that the host asks for, or the status of R247 that refuses it (R296, DEDUCED: log 31). -/
def hostMigration (s : State) (ctx : CtxId) (va : Nat) (frame : BitVec 25) (who : ReplyTo) : Sum Nat Migration :=
  if ctx = 0 ∨ (ctxAt? s ctx).isNone then .inl 0x05
  else if va % 2 ^ 19 ≠ 0 ∨ 2 ^ 52 ≤ va then .inl 0x03
  else
    match AMap.get? s.map.leaf3 (ctx.toNat * 2 ^ 33 + va / 2 ^ 19), unitLeaf? s.map ctx.toNat va with
    | some l, some u =>
      if isCut s.map l.node || l.revoked || (l.backing.map (isCut s.map)).getD false then .inl 0x01
      else if !l.pres || !(hugePlaces s ctx.toNat u.frame).isEmpty then .inl 0x03
      else .inr { node := l.node, space := ctx.toNat, va := va, oldFrame := u.frame, newFrame := frame, stage := .queued, reply := who }
    | _, _ => .inl 0x03

/-- MIGRATE: the page's new frame is payload word 0 (R296, R397, R407). -/
def migrateOp (fn : BitVec 6) (s : State) (x : Slot) (id : Word) (_issuer : CtxId) : State × PostEnd :=
  let frame : BitVec 25 := (x.word 0).setWidth 25
  if !featureOn s 7 then (s, .entry hDenied 0)
  else if x.a0.extractLsb' 12 52 ≠ 0 ∨ (x.word 0).extractLsb' 25 39 ≠ 0 ∨ !plainMem (frame.toNat * 2 ^ 19) then
    (s, .entry hBadarg 0)
  else askMap s fn x id (((AMap.get? s.map.leaf3 ((x.a0.toNat % 4096) * 2 ^ 33 + x.a1.toNat / 2 ^ 19)).map (fun l => above s.map l.node)).getD [])
    (fun s who =>
    match hostMigration s (x.a0.setWidth 12) x.a1.toNat frame who with
    | .inl st => (s, .reply (BitVec.ofNat 64 st))
    | .inr g => ({ s with map := { s.map with migrations := s.map.migrations ++ [g] } }, .later))

def execMigrate (fn : BitVec 6) (s : State) : Out State := handlePost fn 0x06 s (migrateOp fn)

/-- Contexts of a partition. -/
def ctxsOfPart (s : State) (p : Nat) : List CtxId :=
  (s.ctxs.filter (fun c => c.2.part == p)).map (fun c => BitVec.ofNat 12 c.1)

/-- REPLAY for a context, or for every context of a partition (R256, R397). Its entry follows once the retries have been
started (DEDUCED: log 32). -/
def hostReplayOp (fn : BitVec 6) (s : State) (x : Slot) (_id : Word) (_issuer : CtxId) : State × PostEnd :=
  if x.a0.getLsbD 63 then
    if x.a0.extractLsb' 3 60 ≠ 0 ∨ (AMap.get? s.parts (x.a0.toNat % 8)).isNone then (s, .entry hBadarg 0)
    else if fn ≠ 0 ∧ (partOfFn? s fn).map (·.1) ≠ some (x.a0.toNat % 8) then (s, .entry hDenied 0)
    else (replayAll s (ctxsOfPart s (x.a0.toNat % 8)), .entry hOk 0)
  else
    let ctx : CtxId := x.a0.setWidth 12
    if x.a0.extractLsb' 12 52 ≠ 0 ∨ ctx = 0 ∨ (ctxAt? s ctx).isNone then (s, .entry hBadarg 0)
    else if otherPart s fn ctx then (s, .entry hDenied 0)
    else (replayAll s [ctx], .entry hOk 0)

def execHostReplay (fn : BitVec 6) (s : State) : Out State := handlePost fn 0x07 s (hostReplayOp fn)

/-! ## Partitions and contexts (R401) -/

/-- The numbers of the partition configuration (R410). -/
def partitionNumbers (s : State) : List Nat :=
  s.parts.flatMap (fun p => [p.1, if p.2.resident then 1 else 0, p.2.clusters.toNat, p.2.cbBase, p.2.vfs.toNat, p.2.ctxFirst,
    p.2.ctxCount, p.2.guest.toNat]) ++
  s.ctxs.flatMap (fun c => [c.1, c.2.part, c.2.capBase, c.2.coppiceList.toNat, c.2.ovfBase, c.2.ovfLog, c.2.imageBase,
    c.2.imageSize]) ++
  [(s.pl.owner.map (fun c => c.toNat + 1)).getD 0]

/-- Measurement 5 is computed anew (R410). -/
def measureParts (s : State) : State :=
  { s with mgmt := { s.mgmt with
      measures := AMap.put s.mgmt.measures 5 (shake256 (Config.partitionRecord (partitionNumbers s))) } }

/-- An extent of device-physical memory that the host can hold. -/
def plainExtent (a n : Nat) : Bool := plainMem a && plainMem (a + n - 1)

/-- Ranges of context numbers meet. -/
def rangesMeet (p q : Part) : Bool := decide (p.ctxFirst < q.ctxFirst + q.ctxCount) && decide (q.ctxFirst < p.ctxFirst + p.ctxCount)

/-- The partition that a PARTCREATE describes. -/
def partOfSlot (x : Slot) : Part :=
  { resident := x.a0.getLsbD 8, clusters := x.a1.setWidth 32, cbBase := (x.word 0).toNat, vfs := x.word 1
    ctxFirst := ((x.word 2).extractLsb' 0 12).toNat, ctxCount := ((x.word 2).extractLsb' 16 12).toNat
    guest := (x.word 3).setWidth 12, block := [] }

/-- An argument of PARTCREATE that is out of range, or that overlaps a live partition (R401, R407) (DEDUCED: log 65). -/
def badPart (s : State) (x : Slot) : Bool :=
  let p := partOfSlot x
  x.a0.extractLsb' 3 5 != 0 || x.a0.extractLsb' 9 55 != 0 || x.a1.extractLsb' 32 32 != 0 || p.vfs.getLsbD 0 ||
  (x.word 2).extractLsb' 12 4 != 0 || (x.word 2).extractLsb' 28 36 != 0 || (x.word 3).extractLsb' 12 52 != 0 ||
  p.ctxFirst == 0 || decide (4096 < p.ctxFirst + p.ctxCount) || !plainExtent p.cbBase (0x100 + 8 * p.ctxCount) ||
  (p.vfs != 0 && !(decide (p.ctxFirst ≤ p.guest.toNat) && decide (p.guest.toNat < p.ctxFirst + p.ctxCount))) ||
  (p.resident && !featureOn s 0) || (AMap.get? s.parts (x.a0.toNat % 8)).isSome ||
  s.parts.any (fun q => q.2.clusters &&& p.clusters != 0 || q.2.vfs &&& p.vfs != 0 || rangesMeet p q.2)

/-- The guest root's space is the identity over the intermediate addresses (R401). -/
def guestRoot (guest : CtxId) : Node :=
  { cut := false, reclaim := false, granted := false, unbacked := false, moving := false, rights := 0x1F, psize := 0,
    gen := 0, parent := none, children := [], owner := 0, space := guest.toNat, pages := 2 ^ 25, va := 0, pva := 0,
    remote := 0, backs := none }

/-- A space's level-1 table, which exists from its creation (R279). -/
def firstTable (s : State) (space : Nat) : State :=
  { s with map := makeTable (physicalSpace s space) s.map (space * 2 ^ 23 + 2048) }

/-- Nodes of a space are still to be reclaimed: no new space can have its number, whose entries are EMPTY from the first (R279,
R293; DEDUCED: log 33). -/
def stillReclaimed (roots : Bool) (s : State) (space : Nat) : Bool :=
  s.map.nodes.any (fun e => e.2.space == space && (roots || e.2.parent.isSome))

/-- PARTCREATE (R401). -/
def partcreateOp (s : State) (x : Slot) (_id : Word) (_issuer : CtxId) : State × PostEnd :=
  if badPart s x then (s, .entry hBadarg 0)
  else if stillReclaimed true s (4096 + x.a0.toNat % 8) ||
      ((partOfSlot x).vfs != 0 && stillReclaimed true s (partOfSlot x).guest.toNat) then (s, .entry hBusy 0)
  else
    let p := partOfSlot x
    let s1 := { s with parts := AMap.put s.parts (x.a0.toNat % 8) p }
    let s2 :=
      if p.vfs = 0 then s1
      else
        let t := takeIndex (firstTable s1 (4096 + x.a0.toNat % 8))
        { t.1 with map := addNode t.1.map t.2 (guestRoot p.guest) }
    (measureParts s2, .entry hOk 0)

def execPartcreate (fn : BitVec 6) (s : State) : Out State := handlePost fn 0x10 s partcreateOp

/-- The spaces of a destroyed partition made of virtual functions end: its stage 2, and that of its guest with the root node,
should no context have the number (DEDUCED: log 33). -/
def dropRoot (s : State) (part : Nat) (guest : CtxId) : State := dropSpace true (dropSpace true s guest.toNat) (4096 + part)

/-- PARTDESTROY, with the contexts of the partition, none of which is placed (R401). -/
def partdestroyOp (s : State) (x : Slot) (_id : Word) (_issuer : CtxId) : State × PostEnd :=
  let p := x.a0.toNat % 8
  match AMap.get? s.parts p with
  | none => (s, .entry hBadarg 0)
  | some q =>
    if x.a0.extractLsb' 3 61 ≠ 0 then (s, .entry hBadarg 0)
    else if s.ctxs.any (fun c => c.2.part == p && !c.2.clusters.isEmpty) then (s, .entry hBusy 0)
    else
      let s1 := (ctxsOfPart s p).foldl dropCtx s
      let s2 := { s1 with parts := AMap.erase s1.parts p }
      (measureParts (if q.vfs = 0 then s2 else dropRoot s2 p q.guest), .entry hOk 0)

def execPartdestroy (fn : BitVec 6) (s : State) : Out State := handlePost fn 0x11 s partdestroyOp

/-- The partition whose range holds a context number. -/
def partOfNumber? (s : State) (ctx : CtxId) : Option (Nat × Part) :=
  s.parts.find? (fun p => decide (p.2.ctxFirst ≤ ctx.toNat) && decide (ctx.toNat < p.2.ctxFirst + p.2.ctxCount))

/-- The supervisor's descriptor of a CTXCREATE, with the context that it is for (R401): its own CTX field is ignored. -/
def supvDesc (x : Slot) (ctx : CtxId) : DWord :=
  BitVec.ofNat 64 ((x.word 5).toNat / 2 ^ 44 * 2 ^ 44 + ctx.toNat * 2 ^ 32 + (x.word 5).toNat % 2 ^ 32)

/-- A GLOG, WINDOW or reserved field of the descriptor that no binding takes; SUPV is 1 and SLOT 0 (R240, R241, R401). -/
def badSupv (d : DWord) (resident : Bool) : Bool :=
  !d.getLsbD 24 || d.extractLsb' 0 6 != 0 || d.extractLsb' 44 20 != 0 || d.extractLsb' 25 7 != 0 ||
  d.extractLsb' 11 5 != 0 || d.extractLsb' 6 2 != 0 || decide (4 < (d.extractLsb' 8 3).toNat) ||
  decide ((if resident then 16 else 32) < (d.extractLsb' 16 6).toNat)

/-- An argument of CTXCREATE that is out of range (R401). -/
def badCtxArgs (s : State) (p : Part) (ctx : CtxId) (x : Slot) : Bool :=
  let n := (x.word 2).toNat
  x.a0.extractLsb' 12 52 != 0 || ctx == 0 || (ctxAt? s ctx).isSome || x.a1.toNat % 2048 != 0 ||
  !plainExtent x.a1.toNat 2048 || (x.word 0).extractLsb' 52 12 != 0 || decide (n < 10) || decide (20 < n) ||
  !plainExtent (x.word 1).toNat (2 ^ n * 128) || x.word 4 == 0 || !plainExtent (x.word 3).toNat (x.word 4).toNat ||
  badSupv (supvDesc x ctx) p.resident || badPc (x.word 6)

/-- The context that a CTXCREATE makes. -/
def ctxOfSlot (part : Nat) (ctx : CtxId) (x : Slot) : Ctx :=
  { Ctx.fresh part with
    binds := [(64, bindingOf (supvDesc x ctx) (x.word 6))], coppiceList := (x.word 0).setWidth 52
    ovfBase := (x.word 1).toNat, ovfLog := (x.word 2).toNat, capBase := x.a1.toNat, imageBase := (x.word 3).toNat
    imageSize := (x.word 4).toNat }

/-- CTXCREATE (R401). -/
def ctxcreateOp (fn : BitVec 6) (s : State) (x : Slot) (_id : Word) (_issuer : CtxId) : State × PostEnd :=
  let ctx : CtxId := x.a0.setWidth 12
  match partOfNumber? s ctx with
  | none => (s, .entry hBadarg 0)
  | some (n, p) =>
    if fn ≠ 0 ∧ (partOfFn? s fn).map (·.1) ≠ some n then (s, .entry hDenied 0)
    else if badCtxArgs s p ctx x then (s, .entry hBadarg 0)
    else if stillReclaimed false s ctx.toNat || decide (tableLimit ≤ s.map.tables.length) then
      (s, .entry hBusy 0)
    else (measureParts (firstTable { s with ctxs := AMap.put s.ctxs ctx.toNat (ctxOfSlot n ctx x) } ctx.toNat), .entry hOk 0)

def execCtxcreate (fn : BitVec 6) (s : State) : Out State := handlePost fn 0x12 s (ctxcreateOp fn)

/-- The context that ARG0 names, for an operation on an existing context. -/
def withCtx (fn : BitVec 6) (s : State) (x : Slot) (go : CtxId → Ctx → State × PostEnd) : State × PostEnd :=
  let ctx : CtxId := x.a0.setWidth 12
  match ctxAt? s ctx with
  | none => (s, .entry hBadarg 0)
  | some c =>
    if x.a0.extractLsb' 12 52 ≠ 0 then (s, .entry hBadarg 0)
    else if otherPart s fn ctx then (s, .entry hDenied 0)
    else go ctx c

/-- CTXDESTROY (R401). -/
def ctxdestroyOp (fn : BitVec 6) (s : State) (x : Slot) (_id : Word) (_issuer : CtxId) : State × PostEnd :=
  withCtx fn s x (fun ctx c =>
    if !c.clusters.isEmpty then (s, .entry hBusy 0) else (measureParts (dropCtx s ctx), .entry hOk 0))

def execCtxdestroy (fn : BitVec 6) (s : State) : Out State := handlePost fn 0x13 s (ctxdestroyOp fn)

/-! ## Placing and saving (R320, R330, R334, R336) -/

/-- Firmware reads the control block of a partition of which no context is placed, so that the first slice has a record (DESIGN
CHOICE: log 100). -/
def firstControl (s : State) (part : Nat) : State :=
  if s.ctxs.any (fun e => e.2.part == part && !e.2.clusters.isEmpty) then s else readControl s part

/-- PLACE: on a set of clusters, from the context's image if it has one; or a pause with a SLICE image (R397) (DEDUCED: log 63). -/
def placeOp (fn : BitVec 6) (s : State) (x : Slot) (id : Word) (_issuer : CtxId) : State × PostEnd :=
  withCtx fn s x (fun ctx c =>
    let mask : BitVec 32 := x.a1.setWidth 32
    if x.a1.extractLsb' 32 32 ≠ 0 then (s, .entry hBadarg 0)
    else if mask = 0 then
      if c.clusters.isEmpty ∨ c.plan.isSome then (s, .entry hBusy 0)
      else (requestPreempt s ctx 0xFFFFFFFF ⟨1, false, .host fn (laterTag id x.tag)⟩, .later)
    else if !c.clusters.isEmpty then (s, .entry hBusy 0)
    else if mask &&& ~~~(((AMap.get? s.parts c.part).map (·.clusters)).getD 0) ≠ 0 then (s, .entry hBadarg 0)
    else if !(clustersOf mask).all (canOwn s ctx) then (s, .entry hBusy 0)
    else if (AMap.get? s.images c.imageBase).isSome then
      match restoreImage (firstControl s c.part) c.imageBase mask with
      | some s1 => (s1, .entry hOk 0)
      | none => (s, .entry hBadarg 0)
    else (placeFresh (firstControl s c.part) ctx (clustersOf mask), .entry hOk 0))

def execPlace (fn : BitVec 6) (s : State) : Out State := handlePost fn 0x14 s (placeOp fn)

/-- SAVE: a MIGRATE or DUMP image, after which the context ends or resumes (R330, R336, R397). -/
def saveOp (fn : BitVec 6) (s : State) (x : Slot) (id : Word) (_issuer : CtxId) : State × PostEnd :=
  withCtx fn s x (fun ctx c =>
    if (x.a1 ≠ 2 ∧ x.a1 ≠ 3) ∨ 1 < (x.word 0).toNat then (s, .entry hBadarg 0)
    else if c.clusters.isEmpty ∨ c.plan.isSome then (s, .entry hBusy 0)
    else (requestPreempt s ctx 0xFFFFFFFF ⟨x.a1.toNat, x.word 0 == 1, .host fn (laterTag id x.tag)⟩, .later))

def execSave (fn : BitVec 6) (s : State) : Out State := handlePost fn 0x15 s (saveOp fn)

/-- CAPSET changes an entry of a context's capability table indivisibly (R403). -/
def capsetOp (fn : BitVec 6) (s : State) (x : Slot) (_id : Word) (_issuer : CtxId) : State × PostEnd :=
  withCtx fn s x (fun _ c =>
    let e := x.word 0
    if x.a1.extractLsb' 8 56 ≠ 0 ∨ e.extractLsb' 52 12 ≠ 0 ∨ e.extractLsb' 13 27 ≠ 0 ∨ e.extractLsb' 1 3 ≠ 0 then
      (s, .entry hBadarg 0)
    else (perform s (c.capBase + 8 * x.a1.toNat) (bytesOf 8 e.toNat), .entry hOk 0))

def execCapset (fn : BitVec 6) (s : State) : Out State := handlePost fn 0x16 s (capsetOp fn)

/-- PLASSIGN sets the owner of the Pleach table (R340, R397, R407). -/
def plassignOp (s : State) (x : Slot) (_id : Word) (_issuer : CtxId) : State × PostEnd :=
  let ctx : CtxId := x.a0.setWidth 12
  if !featureOn s 1 then (s, .entry hDenied 0)
  else if x.a0.extractLsb' 32 32 ≠ 0 ∨ x.a0.extractLsb' 12 19 ≠ 0 then (s, .entry hBadarg 0)
  else if x.a0.getLsbD 31 then
    if (ctxAt? s ctx).isNone then (s, .entry hBadarg 0)
    else (measureParts (modPl s (fun p => { p with owner := some ctx })), .entry hOk 0)
  else (measureParts (modPl s (fun p => { p with owner := none })), .entry hOk 0)

def execPlassign (fn : BitVec 6) (s : State) : Out State := handlePost fn 0x17 s plassignOp

end Sys2Proof.Machine
end

