-- ==== Sys2Proof/Machine/Services.lean ====
section
/-! DEFINITION. The services of the Privet engine (R250 to R252, R403): each is the handling of one call passed to it. -/

namespace Sys2Proof.Machine

def pvArgfault : Nat := 0x10
def pvNomem : Nat := 0x11
def pvBadarg : Nat := 0x12
def pvDenied : Nat := 0x13

/-- The page of the caller's block is away: the call's results could not be written, so the call waits before any effect. -/
def blockAway? (s : State) (c : Call) : Option Absent :=
  match walked s c.ctx c.block.toNat true with
  | .absent a => some a
  | _ => none

/-- An argument of a call. -/
def Call.arg (c : Call) (n : Nat) : DWord := c.args.getD n 0

/-- Handles a call for a service, unless it waits for a replay (R251). A FREE whose UNMAP is done ends. -/
def service (k : Nat) (n : Nat) (s : State) (go : State → Call → Out State) : Out State :=
  match AMap.get? s.calls n with
  | none => .next s
  | some c =>
    if c.service.toNat ≠ k ∨ (c.absent.isSome ∧ !c.retry) then .next s
    else if c.unmapping then (if c.retry then .next (finishCall s n 0 0 []) else .next s)
    else
      let s1 := walkPages s c.ctx [c.block.toNat]
      match blockAway? s1 c with
      | some a => .next (callWaits s1 n c a)
      | none => go s1 c

/-- What an address argument meets: physical places, an argument fault, an absent page, or a place that stops the model. -/
inductive ArgMet where
  | ok (places : List (Nat × Nat))
  | fault
  | absent (a : Absent)
  | stop (o : Out State)

/-- The page of an address is of a node that is cut, or its frame of one: an argument there is checked after the cut (R295). -/
def pageCut (s : State) (ctx : CtxId) (va : Nat) : Bool :=
  let gone := fun (l : Leaf) => isCut s.map l.node || (l.backing.map (isCut s.map)).getD false
  match leafAt? s.map ctx.toNat va with
  | none => false
  | some l => gone l || (match frameSpace s ctx.toNat with
    | none => false
    | some p => ((leafAt? s.map (4096 + p) (l.frame.toNat * 2 ^ 19 + va % pageBytes l.psize)).map gone).getD false)

/-- The places of the parts of an argument, page by page; a page whose node is cut is withdrawn already (R295). A page that is EMPTY is unmapped; one that is unbacked, or that
stage 2 lacks, is absent (R251, R281, R282). -/
def argPieces (s : State) (ctx : CtxId) (right : Nat) : List (Nat × Nat) → ArgMet
  | [] => .ok []
  | (va, n) :: r =>
    match walked s ctx va (right == rW) with
    | .revoked => .fault
    | .absent a => if a.reason == .unmapped && a.vf.isNone then .fault else .absent a
    | .page e =>
      let pa := e.pa + (va - e.va)
      if !e.rights.getLsbD right || pageCut s ctx va then .fault
      else
        match paStop? pa with
        | some o => .stop o
        | none =>
          match argPieces s ctx right r with
          | .ok ps => .ok ((pa, n) :: ps)
          | x => x

/-- An address argument of a call: a range of bytes that needs a right (R251). -/
def argument (s : State) (c : Call) (a : DWord) (n right : Nat) : ArgMet :=
  if 2 ^ 52 < a.toNat + n then .fault else argPieces s c.ctx right (unitPieces a.toNat n (n / 2 ^ 19 + 2))

/-- Goes on with an address argument that is reachable. -/
def withArg (s0 : State) (n : Nat) (c : Call) (ix : Nat) (a : DWord) (len right : Nat)
    (go : State → List (Nat × Nat) → Out State) : Out State :=
  let s := walkPages s0 c.ctx ((unitPieces a.toNat len (len / 2 ^ 19 + 2)).map (·.1))
  match argument s c a len right with
  | .ok ps => go s ps
  | .fault => .next (finishCall s n pvArgfault ix [])
  | .absent x => .next (callWaits s n c x)
  | .stop o => o

/-- The bytes of an argument are read; none where a line has a lasting error (R318). -/
def readArg (s : State) (ps : List (Nat × Nat)) : State × Option (List Byte) :=
  let e := ps.foldl (fun (x : State × Bool) p => let r := eccRange x.1 p.1 p.2; (r.1, x.2 || r.2)) (s, false)
  (e.1, if e.2 then none else some (ps.flatMap (fun p => memBytes e.1 p.1 p.2)))

/-- VTIME and the wall-clock offset (R251, R413). -/
def execTime (n : Nat) (s : State) : Out State :=
  service 0 n s (fun s c =>
    let x := (ctxAt? s c.ctx).getD (Ctx.fresh 0)
    .next (finishCall s n 0 0 [(0, vtime x), (1, x.wallOff)]))

/-! ## ALLOC and FREE -/

/-- A free run of bytes in a range: at a first choice if it is free, else at the lowest place that is. -/
def freePlace (first lo hi n : Nat) (used : List (Nat × Nat)) : Option Nat :=
  (first :: lo :: used.map (fun u => (u.1 + u.2 + 0x7FFFF) / 0x80000 * 0x80000)).find? (fun a =>
    decide (lo ≤ a) && decide (a + n ≤ hi) && used.all (fun u => !meets u.1 u.2 a n))

/-- The root node from which ALLOC backs its extents: of a virtual function's guest, else of HBM. -/
def allocRoot (s : State) (ctx : CtxId) : Nat × Nat :=
  match (partOf? s ctx).bind (fun p => AMap.get? s.parts p) with
  | none => (0, 0)
  | some p =>
    if p.vfs = 0 then (0, 0)
    else
      match s.map.nodes.find? (fun e => e.2.parent.isNone && e.2.space == p.guest.toNat && !e.2.cut) with
      | some (i, _) => (i, p.guest.toNat)
      | none => (0, 0)

/-- The extent that an ALLOC would map: its address in the caller's space and its frames (DESIGN CHOICE: log 6). -/
def allocPlace (s : State) (ctx : CtxId) (n : Nat) : Option (Nat × Nat) :=
  let space := (s.map.nodes.filter (fun e => e.2.space == ctx.toNat)).map (fun e => (e.2.va, e.2.bytes))
  let root := allocRoot s ctx
  match freePlace (Config.allocUnit s.draws * 2 ^ 19) 0 (2 ^ 52) n space,
      freePlace ((Config.allocFrame s.draws).toNat * 2 ^ 19) 0 0x5F00000000 n (usedExtents s root.1 root.2) with
  | some va, some pa => some (va, pa)
  | _, _ => none

/-- Allocates a backed extent (R251). No bytes, more than 2^51, or A1[63:5] not 0 answer BADARG, for which the rule names no status
(DESIGN CHOICE: log 95). -/
def execAlloc (n : Nat) (s : State) : Out State :=
  service 1 n s (fun s c =>
    let bytes := (c.arg 0).toNat
    let rights : BitVec 5 := (c.arg 1).setWidth 5
    if bytes = 0 ∨ bytes % 2 ^ 19 ≠ 0 ∨ 2 ^ 51 < bytes ∨ (c.arg 1).extractLsb' 5 59 ≠ 0 then
      .next (finishCall s n pvBadarg 0 [])
    else if rights &&& ~~~(c.cap.extractLsb' 8 5) ≠ 0 then .next (finishCall s n pvDenied 0 [])
    else
      let s1 := readNodes { s with draws := s.draws + 1 } [(allocRoot s c.ctx).1]
      if s1.map.stopped then .next s1 else
      match allocPlace s c.ctx bytes with
      | none => .next (finishCall s1 n pvNomem 0 [])
      | some (va, pa) =>
        let r : MapReq := ⟨pa, va, bytes / 2 ^ 19, 0, rights, false⟩
        let d := mapOrGrant s1 false (allocRoot s c.ctx).2 c.ctx.toNat false false r .nobody
        match d.2 with
        | .later => .next d.1
        | .reply v =>
          if v.setWidth 8 ≠ 0#8 then .next (finishCall s1 n pvNomem 0 [])
          else
            let h := v >>> 32
            let s2 := modCtx d.1 c.ctx (fun x => { x with allocs := x.allocs ++ [h] })
            .next (finishCall s2 n 0 0 [(2, BitVec.ofNat 64 va), (3, h)]))

/-- Unmaps an allocated extent, and ends when the UNMAP has its reply (R251) (DEDUCED: log 55). -/
def execFree (n : Nat) (s : State) : Out State :=
  service 2 n s (fun s c =>
    let h := c.arg 0
    if !((ctxAt? s c.ctx).map (fun x => x.allocs.contains h)).getD false then .next (finishCall s n pvBadarg 0 [])
    else
      let s0 := readNodes s (handleReads s.map h)
      if s0.map.stopped then .next s0 else
      let s1 := modCtx s0 c.ctx (fun x => { x with allocs := x.allocs.filter (fun y => y != h) })
      let r := unmapNode s1 c.ctx.toNat h (.privet n)
      match r.2 with
      | .reply _ => .next (finishCall r.1 n pvBadarg 0 [])
      | .later =>
        .next { r.1 with calls := AMap.put r.1.calls n { c with unmapping := true, absent := none, retry := false } })

/-! ## LOG, SIGNAL, WAKE -/

/-- Appends bytes to a context's log ring of 64 KiB (R251, R405). -/
def logBytes (s : State) (ctx : CtxId) (bs : List Byte) : State :=
  let i := ((ctxAt? s ctx).map (·.logIndex)).getD 0
  let base := s.mgmt.logBase.toNat + ctx.toNat * 0x10000
  let first := bs.take (0x10000 - i)
  let s1 := writeHost s (base + i) first
  let s2 := if first.length < bs.length then writeHost s1 base (bs.drop first.length) else s1
  modCtx s2 ctx (fun c => { c with logIndex := (i + bs.length) % 0x10000 })

/-- Appends the bytes to the context's log ring (R251). R318 names no outcome where their line has a lasting error: an argument fault
(DESIGN CHOICE: log 102). -/
def execLog (n : Nat) (s : State) : Out State :=
  service 3 n s (fun s c =>
    let len := (c.arg 1).toNat
    if len = 0 ∨ 4096 < len then .next (finishCall s n pvBadarg 0 [])
    else
      withArg s n c 0 (c.arg 0) len rR (fun s ps =>
        let r := readArg s ps
        match r.2 with
        | none => .next (finishCall r.1 n pvArgfault 0 [])
        | some bs => .next (finishCall (logBytes r.1 c.ctx bs) n 0 0 [])))

/-- Functions to which a partition's contexts raise signals: its virtual functions, or the PF. -/
def signalFns (s : State) (ctx : CtxId) : List (BitVec 6) :=
  let vfs := (((partOf? s ctx).bind (fun p => AMap.get? s.parts p)).map (·.vfs)).getD 0
  if vfs = 0 then [0] else ((List.range 64).filter (fun i => vfs.getLsbD i)).map (BitVec.ofNat 6)

/-- Raises a signal at a function: a new bit of SIGPEND signals MSI-X vector 3 (R396, R397). -/
def raiseSignal (sig : Nat) (s : State) (fn : BitVec 6) : State :=
  let w := windowAt s fn
  let s1 := modWindow s fn (fun w => { w with sigPend := w.sigPend ||| (1#64 <<< sig) })
  if w.sigPend.getLsbD sig then s1 else msix s1 fn.toNat 3

/-- Raises the context's host interrupt for a signal (R251). -/
def execSignal (n : Nat) (s : State) : Out State :=
  service 4 n s (fun s c =>
    let sig := (c.arg 0).toNat
    if 63 < sig then .next (finishCall s n pvBadarg 0 [])
    else .next (finishCall ((signalFns s c.ctx).foldl (raiseSignal sig) s) n 0 0 []))

/-- Writes a value at the coherence point; the write is a wake event (R127, R251). A misaligned address answers BADARG, which the rule
names for a value out of range (DESIGN CHOICE: log 95). -/
def execWake (n : Nat) (s : State) : Out State :=
  service 5 n s (fun s c =>
    if (c.arg 0).toNat % 4 ≠ 0 then .next (finishCall s n pvBadarg 0 [])
    else
      withArg s n c 0 (c.arg 0) 4 rW (fun s ps =>
        .next (finishCall (perform s ((ps.headD (0, 0)).1) (bytesOf 4 ((c.arg 1).toNat % 2 ^ 32))) n 0 0 [])))

/-! ## MAPPROXY, YIELDSLICE, FEATURES -/

/-- The MAP of a MAPPROXY whose request is read. -/
def proxyMap (s : State) (n : Nat) (c : Call) (r : MapReq) : Out State :=
  let pctx : CtxId := c.cap.extractLsb' 40 12
  let target := c.arg 1
  if r.rights &&& ~~~(c.cap.extractLsb' 8 5) ≠ 0 then .next (finishCall s n pvDenied 0 [])
  else
    let s1 := readNodes s (deriveReads s.map pctx.toNat r)
    if s1.map.stopped then .next s1
    else
      let d := mapOrGrant s1 false pctx.toNat (target.toNat % 4096) (foreign s1 pctx (target.setWidth 12))
        (target.extractLsb' 12 52 != 0) r .nobody
      match d.2 with
      | .reply v => .next (finishCall d.1 n 0 0 [(2, v &&& 0xFF)])
      | .later => .next d.1

/-- Performs a MAP as the context that the capability entry names; A2 takes the MAP status alone (R251, R403) (DEDUCED: log 64).
A request that is not 32-byte aligned answers BADARG (DESIGN CHOICE: log 95). -/
def execMapproxy (n : Nat) (s : State) : Out State :=
  service 6 n s (fun s c =>
    if (c.arg 0).toNat % 32 ≠ 0 then .next (finishCall s n pvBadarg 0 [])
    else
      withArg s n c 0 (c.arg 0) 32 rR (fun s ps =>
        let x := readArg s ps
        match x.2 with
        | none => .next ((callDataErr? x.1 n (c.arg 0)).getD (finishCall x.1 n pvArgfault 0 []))
        | some bs => proxyMap x.1 n c (mapReq bs)))

/-- Ends the context's tenant slice by quiescence (R251, R330). -/
def execYieldslice (n : Nat) (s : State) : Out State :=
  service 7 n s (fun s c =>
    match ctxAt? s c.ctx with
    | none => .next (finishCall s n 0 0 [])
    | some x => .next (finishCall (endSlice s c.ctx x) n 0 0 []))

/-- ACTIVE_FEATURES (R251, R407). -/
def execFeatures (n : Nat) (s : State) : Out State :=
  service 8 n s (fun s _ =>
    .next (finishCall s n 0 0 [(0, s.mgmt.actFeat.extractLsb' 0 64), (1, s.mgmt.actFeat.extractLsb' 64 64)]))

end Sys2Proof.Machine
end

