-- ==== Sys2Proof/Machine/Mgmt.lean ====
section
/-! DEFINITION. Register writes, resets, ownership of the part's controls, bring-up, power and temperature, and attestation
(R43, R395, R396, R399, R404 to R412). -/

namespace Sys2Proof.Machine

def modMgmt (s : State) (f : Mgmt → Mgmt) : State := { s with mgmt := f s.mgmt }

/-! ## Ownership (R404, R406) -/

/-- The number of a management master: 1 the PF driver, 2 and 3 the BMC, 4 the debug port. -/
def isMaster (m : BitVec 3) : Bool := decide (1 ≤ m.toNat) && decide (m.toNat ≤ 4)

/-- The management registers take writes: the bring-up has come to the master's step, or has ended with BOOTFAIL (R408) (DEDUCED:
log 61). -/
def Mgmt.answers (g : Mgmt) : Bool := g.ready || g.bootFail

/-- The masters whose CLAIM comes in the rest of the present cycle. -/
def claimsNow : List AgendaItem → List (BitVec 3)
  | [] => []
  | .elapse _ :: _ => []
  | .event (.claim m) :: r => m :: claimsNow r
  | .event (.registerWrite (.management m) offset v) :: r =>
    if offset = 0x004 ∧ v.toNat % 16 = 1 then m :: claimsNow r else claimsNow r
  | _ :: r => claimsNow r

/-- CLAIM: a claimant becomes the owner when there is none; of those that claim in one cycle, the one of the lowest number (R406)
(DESIGN CHOICE: log 35). -/
def claimStep (rivals : List (BitVec 3)) (m : BitVec 3) (g : Mgmt) : Mgmt :=
  if g.owner = 0 ∧ isMaster m ∧ g.answers then
    { g with owner := (rivals.filter isMaster).foldl (fun a b => if b.toNat < a.toNat then b else a) m }
  else g

def execClaim (master : BitVec 3) (s : State) : Out State := .next (modMgmt s (claimStep (claimsNow s.agenda) master))

/-- RELEASE by the owner leaves no owner; a handover that it had begun is void. -/
def releaseStep (m : BitVec 3) (g : Mgmt) : Mgmt :=
  if g.owner = m then { g with owner := 0, pending := false, successor := 0 } else g

def execRelease (master : BitVec 3) (s : State) : Out State := .next (modMgmt s (releaseStep master))

/-- HANDOVER by the owner names a successor, in the place of an earlier one. -/
def handoverStep (m successor : BitVec 3) (now : Nat) (g : Mgmt) : Mgmt :=
  if g.owner = m ∧ isMaster m ∧ isMaster successor then { g with pending := true, successor := successor, pendingAt := now } else g

def execHandover (master successor : BitVec 3) (s : State) : Out State :=
  .next (modMgmt s (handoverStep master successor s.now))

/-- Cycles of one second at 800 MHz. -/
def second : Nat := 800000000

/-- ACCEPT by the named successor within 1 s makes it the owner. -/
def acceptStep (m : BitVec 3) (now : Nat) (g : Mgmt) : Mgmt :=
  if g.pending ∧ g.successor = m ∧ now ≤ g.pendingAt + second then
    { g with owner := m, pending := false, successor := 0 }
  else g

def execAccept (master : BitVec 3) (s : State) : Out State := .next (modMgmt s (acceptStep master s.now))

/-- A handover that has not been accepted within 1 s lapses, and the owner stays. -/
def execHandoverLapse (s : State) : Out State :=
  if s.mgmt.pending ∧ s.mgmt.pendingAt + second < s.now then
    .next (modMgmt s (fun g => { g with pending := false, successor := 0 }))
  else .next s

/-- A reset of a master's transport: no owner if it was the owner's; a handover to it lapses. -/
def transportStep (m : BitVec 3) (g : Mgmt) : Mgmt :=
  let g1 := if g.pending ∧ g.successor = m then { g with pending := false, successor := 0 } else g
  if g1.owner = m then { g1 with owner := 0, pending := false, successor := 0 } else g1

def execTransportReset (master : BitVec 3) (s : State) : Out State := .next (modMgmt s (transportStep master))

/-! ## Features (R407) -/

/-- ACTIVE_FEATURES equals DEVFEAT AND DRVFEAT; measurement 4 is theirs (R407, R410). -/
def negotiateStep (g : Mgmt) : Mgmt :=
  let act := Config.devFeat.setWidth 128 &&& g.drvFeat
  { g with actFeat := act, negotiated := true, measures := AMap.put g.measures 4 (shake256 (bytesOf 16 act.toNat)) }

/-- A port comes up at the width that its lasers allow, in each direction (R376, R408). -/
def portUp (x : Port) : Port :=
  { x with rx := { x.rx with width := 4 * sourcesUp x.rx.dark }, tx := { x.tx with width := 4 * sourcesUp x.tx.dark } }

/-- The optical ports come up as the fabric's feature becomes active; until then they stay down (R407, R408) (DEDUCED: log 61). -/
def portsUp (s t : State) : State :=
  if featureOn t 4 && !featureOn s 4 then
    { t with fab := { t.fab with ports := (List.range 32).foldl (fun m i => AMap.put m i (portUp (portAt t i))) t.fab.ports } }
  else t

/-- NEGOTIATE by the owner, once after each module reset (R407, R408). -/
def execNegotiate (master : BitVec 3) (s : State) : Out State :=
  if s.mgmt.owner = master ∧ isMaster master ∧ !s.mgmt.negotiated ∧ s.mgmt.ready then .next (portsUp s (modMgmt s negotiateStep))
  else .next s

/-! ## Register writes (R396, R399, R404, R405, R389) -/

/-- Posts of a window that are outstanding (R399): not handled, on their way, to be answered later, or with an entry that
waits for room. A reply to a message, or the refusal of a SEND that has been delivered, belongs to no outstanding post. -/
def outstanding (w : Window) : Nat :=
  w.posts.length + w.sends.length + w.laters.length + (w.replies.filter (·.1)).length

/-- A post captures its slot, or is ignored with OVF while 256 are outstanding. -/
def postSlot (slot : Nat) (w : Window) : Window :=
  if 256 ≤ outstanding w then { w with winerr := 1 }
  else { w with posts := w.posts ++ [⟨Mem.bytes w.slots (slot * 128) 128⟩] }

/-- A ring size is 6 to 16; other values are ignored. -/
def ringSize (old v : Nat) : Nat := if 6 ≤ v ∧ v ≤ 16 then v else old

/-- A write of 64 bits into a window at an offset (R396) (DEDUCED: log 50). An RW register keeps what is written (R5); its use takes
a base as aligned and an index within its ring. -/
def windowWrite (vf : Bool) (offset : Nat) (v : DWord) (w : Window) : Window :=
  if offset + 8 ≤ 0x8000 then { w with slots := Mem.setBytes w.slots offset (bytesOf 8 v.toNat) }
  else
    match offset with
    | 0x8000 => postSlot (v.toNat % 256) w
    | 0x8008 => if v.getLsbD 0 then { w with winerr := 0 } else w
    | 0x8010 => { w with rrBase := v }
    | 0x8018 => { w with rrSize := ringSize w.rrSize v.toNat }
    | 0x8028 => { w with rrHead := v.toNat }
    | 0x8030 => if vf then { w with prqBase := v } else w
    | 0x8038 => if vf then { w with prqSize := ringSize w.prqSize v.toNat } else w
    | 0x8048 => if vf then { w with prqHead := v.toNat } else w
    | 0x8050 => { w with sigPend := w.sigPend &&& ~~~v }
    | _ => w

/-- What a read of 64 bits of a window gives (R5, R396): a write-only register reads zero, and so does a register that only the
window of a virtual function has. -/
def windowRead (vf : Bool) (offset : Nat) (w : Window) : DWord :=
  if offset + 8 ≤ 0x8000 then BitVec.ofNat 64 (Mem.nat w.slots offset 8)
  else
    match offset with
    | 0x8008 => w.winerr.setWidth 64
    | 0x8010 => w.rrBase
    | 0x8018 => BitVec.ofNat 64 w.rrSize
    | 0x8020 => BitVec.ofNat 64 w.rrTail
    | 0x8028 => BitVec.ofNat 64 w.rrHead
    | 0x8030 => if vf then w.prqBase else 0
    | 0x8038 => if vf then BitVec.ofNat 64 w.prqSize else 0
    | 0x8040 => if vf then BitVec.ofNat 64 w.prqTail else 0
    | 0x8048 => if vf then BitVec.ofNat 64 w.prqHead else 0
    | 0x8050 => w.sigPend
    | _ => 0

/-- Puts 32 bits into a register of 128 bits. -/
def putWord128 (r : BitVec 128) (n : Nat) (v : Word) : BitVec 128 :=
  (r &&& ~~~((0xFFFFFFFF#128) <<< (32 * n))) ||| (v.setWidth 128 <<< (32 * n))

/-- A write of MCMD (R405, R406). -/
def mcmdWrite (rivals : List (BitVec 3)) (m : BitVec 3) (v : DWord) (now : Nat) (g : Mgmt) : Mgmt :=
  match v.toNat % 16 with
  | 1 => claimStep rivals m g
  | 2 => releaseStep m g
  | 3 => handoverStep m (v.extractLsb' 8 3) now g
  | 4 => acceptStep m now g
  | _ => g

/-- Issue and engine row entry are gated while power is above PWRLIMIT or the temperature is 95 °C or more; at 105 °C every clock stops
and PARTERR is set, and only a module reset recovers (R412; DESIGN CHOICE: log 37). -/
def Mgmt.throttled (g : Mgmt) : Mgmt :=
  let hot := decide (105 ≤ g.temp.toNat)
  { g with
    gated := decide (g.pwrLimit < g.power.toNat) || decide (95 ≤ g.temp.toNat), stopped := g.stopped || hot
    partErr := g.partErr || hot }

/-- A write of an owner-gated register by the owner (R405). -/
def ownerWrite (offset : Nat) (v : DWord) (now : Nat) (g : Mgmt) : Mgmt :=
  match offset with
  | 0x020 => { g with drvFeat := putWord128 g.drvFeat 0 (v.setWidth 32) }
  | 0x024 => { g with drvFeat := putWord128 g.drvFeat 1 (v.setWidth 32) }
  | 0x028 => { g with drvFeat := putWord128 g.drvFeat 2 (v.setWidth 32) }
  | 0x02C => { g with drvFeat := putWord128 g.drvFeat 3 (v.setWidth 32) }
  | 0x040 => if v.getLsbD 0 ∧ !g.negotiated ∧ g.ready then negotiateStep g else g
  | 0x048 => { g with wallRef := v, wallAt := now }
  | 0x050 => if 600 ≤ v.toNat % 2 ^ 32 ∧ v.toNat % 2 ^ 32 ≤ 1500 then Mgmt.throttled { g with pwrLimit := v.toNat % 2 ^ 32 } else g
  | 0x088 => { g with fevRing := v }
  | 0x090 => { g with errRing := v }
  | 0x098 => { g with logBase := v }
  | _ => g

/-- Word n of 128 bits. -/
def word128 (r : BitVec 128) (n : Nat) : DWord := (r.extractLsb' (32 * n) 32).setWidth 64

/-- What every master reads in a management register (R5, R404, R405); write-only registers read zero. -/
def mgmtRead (offset : Nat) (s : State) : DWord :=
  let g := s.mgmt
  let bit := fun (b : Bool) (n : Nat) => if b then 2 ^ n else 0
  match offset with
  | 0x000 => BitVec.ofNat 64 (g.owner.toNat + g.successor.toNat * 2 ^ 8 + bit g.pending 16)
  | 0x008 => BitVec.ofNat 64 (bit g.ready 0 + bit g.bootFail 1 + bit g.negotiated 2 + bit g.partErr 3)
  | 0x010 => Config.devFeat.setWidth 64
  | 0x048 => wallNow s
  | 0x050 => BitVec.ofNat 64 g.pwrLimit
  | 0x054 => g.power.setWidth 64
  | 0x058 => g.temp.setWidth 64
  | 0x080 => Config.inventory
  | 0x088 => g.fevRing
  | 0x090 => g.errRing
  | 0x098 => g.logBase
  | o =>
    if 0x020 ≤ o ∧ o < 0x030 then word128 g.drvFeat ((o - 0x020) / 4)
    else if 0x030 ≤ o ∧ o < 0x040 then word128 g.actFeat ((o - 0x030) / 4)
    else if 0x060 ≤ o ∧ o < 0x080 then (AMap.getD g.stackCe ((o - 0x060) / 4) 0).setWidth 64
    else 0

/-- A write of a management register by a master: a non-owner's write of an owner-gated register is ignored (R404). -/
def mgmtWrite (rivals : List (BitVec 3)) (m : BitVec 3) (offset : Nat) (v : DWord) (now : Nat) (g : Mgmt) : Mgmt :=
  if offset = 0x004 then mcmdWrite rivals m v now g
  else if isMaster m ∧ g.owner = m ∧ g.answers then ownerWrite offset v now g
  else g

/-- A write to a register of a window, of the management registers or of the device registers (R5, R389, R396, R405). With
BOOTFAIL only the management registers respond, and no post is accepted before READY (R408) (DEDUCED: log 61). -/
def execRegisterWrite (space : RegSpace) (offset : Nat) (value : DWord) (s : State) : Out State :=
  match space with
  | .window fn =>
    if s.mgmt.bootFail ∨ (offset = 0x8000 ∧ !s.mgmt.ready) then .next s
    else
      let s1 := modWindow s fn (windowWrite (fn != 0) offset value)
      .next (flushReplies fn (windowAt s1 fn).replies.length s1)
  | .management m => .next (portsUp s (modMgmt s (mgmtWrite (claimsNow s.agenda) m offset value s.now)))
  | .device =>
    if s.mgmt.bootFail then .next s
    else if peerTable offset ∧ peerTable (offset + 7) then .next (perform s offset (bytesOf 8 value.toNat))
    else .refused (.deviceRegister offset)

/-! ## Resets (R43, R395) -/

/-- An FLR empties the function's window and rings; that of the PF is a reset of its transport too (R395, R406) (DEDUCED: log 62). -/
def execFlr (fn : BitVec 6) (s : State) : Out State :=
  let w := windowAt s fn
  let s1 := { s with windows := AMap.put s.windows fn.toNat { Window.init with tags := w.tags, idCount := w.idCount } }
  .next (if fn = 0 then modMgmt s1 (transportStep 1) else s1)

/-- What is no state of the part stays through a module reset: the host's memory, dark wavelengths, the firmware slots, what
the outside world does next, and the model's own counters (DESIGN CHOICE: log 27). -/
def execModuleReset (s : State) : Out State :=
  .next { State.reset with
    mem := AMap.between s.mem 0x80000000000 0xC0000000000
    fab := { State.reset.fab with
      ports := s.fab.ports.map (fun p =>
        (p.1, { Port.init with rx := { LinkDir.init with dark := p.2.rx.dark }, tx := { LinkDir.init with dark := p.2.tx.dark } })) }
    mgmt := { Mgmt.init with
      slotA := s.mgmt.slotA, slotB := s.mgmt.slotB, runsB := s.mgmt.runsB, staged := s.mgmt.staged, rollback := s.mgmt.rollback }
    agenda := s.agenda, uid := s.uid, serial := s.serial, draws := s.draws }

/-! ## Bring-up (R408 to R410) -/

/-- The bytes of the inventory record (the layout is the model's, DESIGN CHOICE: log 8): the serial number, and the spare lanes and
columns of each engine (R359, R405). -/
def inventoryRecord (g : Mgmt) : List Byte :=
  bytesOf 8 g.serialNo.toNat ++ g.spares.flatMap (fun x => bytesOf 2 x.1 ++ bytesOf 2 x.2)

/-- The fuse maps are loaded (R359, R408): the inventory record stands at its address from then on, and measurement 3 covers both
(R410). -/
def loadFuses (s : State) : State :=
  let g := { s.mgmt with serialNo := Config.serialNo, spares := (List.range 512).map Config.spares }
  { s with
    mgmt := { g with measures := AMap.put g.measures 3 (shake256 (Config.fuseMaps ++ inventoryRecord g)) }
    mem := (writeHost s Config.inventory.toNat (inventoryRecord g)).mem }

/-- The boot ROM accepts an image: its key has the hash that the ROM holds, its signature verifies, and its version is not below the
anti-rollback count (R409). -/
def Firmware.accepted (rollback : Nat) (f : Firmware) : Bool := f.keyOk && f.signed && decide (rollback ≤ f.version)

/-- The slot that runs after a boot, B or not, if any image is accepted: an accepted image that the owner has written since the last
boot, else the one that ran, else the other (R408, R409; DEDUCED: log 104). -/
def bootSlot? (g : Mgmt) : Option Bool :=
  let good := fun (b : Bool) => (if b then g.slotB else g.slotA).accepted g.rollback
  let first := if g.staged then !g.runsB else g.runsB
  if good first then some first else if good !first then some !first else none

/-- The boot ROM verifies the firmware slots; the service processor measures, loads the fuse maps and brings up the mesh (R408, R409,
R410). -/
def execBoot (s : State) : Out State :=
  match s.mgmt.booted, bootSlot? s.mgmt with
  | true, _ => .next s
  | _, none => .next (modMgmt s (fun g => { g with booted := true, bootFail := true }))
  | _, some b =>
    let d := s.draws
    let s2 := modMgmt { s with draws := d + 1 } (fun g => { g with
      booted := true, ready := true, runsB := b, staged := false
      measures := AMap.put (AMap.put (AMap.put g.measures 1 (Config.digest 1)) 2 (Config.digest (16 + d)))
        4 (shake256 (bytesOf 16 g.actFeat.toNat)) })
    .next (measureParts (loadFuses s2))

/-! ## Power and temperature (R412) -/

/-- The power and the hottest sensor, as measured, with what follows from them (R412). -/
def execPowerGating (watts celsius : BitVec 32) (s : State) : Out State :=
  .next (modMgmt s (fun g => Mgmt.throttled { g with power := watts, temp := celsius }))

/-- At 105 °C every clock stops and PARTERR is set; only a module reset recovers. -/
def execThermalShutdown (celsius : BitVec 32) (s : State) : Out State :=
  if celsius.toNat < 105 then .next s
  else .next (modMgmt s (fun g => Mgmt.throttled { g with temp := celsius }))

/-! ## Attestation (R410, R411) -/

/-- An SPDM response: the part answers once READY (R408). The response codes and the bytes' order are the model's (DESIGN CHOICE: log 9) (DEDUCED: log 66). -/
def spdmAnswer (s : State) (bytes : List Byte) : Out State :=
  if s.mgmt.ready then .next (modMgmt s (fun g => { g with spdmOut := g.spdmOut ++ [bytes] })) else .next s

def spdmVersion : Byte := 0x04
def spdmCapabilities : Byte := 0x61
def spdmAlgorithms : Byte := 0x63
def spdmDigests : Byte := 0x01
def spdmCertificate : Byte := 0x02
def spdmChallengeAuth : Byte := 0x03
def spdmMeasurements : Byte := 0x60
def spdmError : Byte := 0x7F

/-- Versions 1.2 and 1.3 (R411). -/
def execGetVersion (s : State) : Out State := spdmAnswer s [spdmVersion, 0x12, 0x13]

/-- Certificates, challenge and measurements with signatures; no session establishment (R411): bits 1, 2 and 4. -/
def execGetCapabilities (s : State) : Out State := spdmAnswer s [spdmCapabilities, 0x16]

/-- What ALGORITHMS announces: no asymmetric algorithm of the standard's own, one extended one that is defined by the vendor,
SLH-DSA-SHAKE-256f, and SHAKE256 as the measurement hash (R411; DESIGN CHOICE: log 9). -/
def algorithms : List Byte := [0, 1, 0xFF, 1, 1]

/-- SLH-DSA-SHAKE-256f is the only algorithm; a request for any other is an SPDM error (R411). -/
def execNegotiateAlgorithms (slhDsaShake256f : Bool) (s : State) : Out State :=
  spdmAnswer s (if slhDsaShake256f then spdmAlgorithms :: algorithms else [spdmError])

/-- The digest of the certificate chain in slot 0. -/
def chainDigest : List Byte := bytesOf 64 (shake256 Config.certificate).toNat

def execGetDigests (s : State) : Out State := spdmAnswer s (spdmDigests :: chainDigest)

/-- A part of the chain in slot 0, the only slot (R411). -/
def execGetCertificate (slot : BitVec 4) (offset length : BitVec 16) (s : State) : Out State :=
  spdmAnswer s (if slot = 0 then spdmCertificate :: (Config.certificate.drop offset.toNat).take length.toNat else [spdmError])

/-- A signature of 49,856 bytes by the device identity key (R411). -/
def signed (bs : List Byte) : List Byte := fit 49856 (Config.signature bs)

/-- The digests of all measurements, in the order of their indices. -/
def allMeasures (s : State) : List Byte := s.mgmt.measures.flatMap (fun m => bytesOf 64 m.2.toNat)

/-- A challenge is answered with the chain's digest, the measurements' digest, and a signature over them and the nonce. -/
def execChallenge (nonce : BitVec 256) (s : State) : Out State :=
  let body := chainDigest ++ bytesOf 64 (shake256 (allMeasures s)).toNat
  spdmAnswer s (spdmChallengeAuth :: body ++ signed (bytesOf 32 nonce.toNat ++ body))

/-- What a request for measurements gives: index 0 their number, 0xFF all of them, another the one of that index (R410). -/
def measured (index : BitVec 8) (s : State) : Option (List Byte) :=
  if index = 0 then some [BitVec.ofNat 8 s.mgmt.measures.length]
  else if index = 0xFF then some (allMeasures s)
  else (AMap.get? s.mgmt.measures index.toNat).map (fun m => bytesOf 64 m.toNat)

/-- Measurements are answered signed (R410, R411). -/
def execGetMeasurements (index : BitVec 8) (s : State) : Out State :=
  spdmAnswer s (match measured index s with
    | some b => spdmMeasurements :: b ++ signed b
    | none => [spdmError])

end Sys2Proof.Machine
end

