-- ==== Sys2Proof/Machine/Agenda.lean ====
section
/-! DEFINITION. What happens beside the issue of instructions: the items of the agenda that are no events of the opcode
table, and the events that the part's own units are ready to make. -/

namespace Sys2Proof.Machine

/-- Makes an event: the meaning of its row, as `exec` gives it (DESIGN CHOICE: log 70). -/
def runEvent (e : Event) (s : State) : Out State :=
  match e with
  | .messageArrival n => execMessageArrival n s
  | .mailboxDequeue core => execMailboxDequeue core s
  | .taskAdmission core => execTaskAdmission core s
  | .taskEnd task => execTaskEnd task s
  | .launchPlacement cluster => execLaunchPlacement cluster s
  | .workSteal core => execWorkSteal core s
  | .sendQueueInject core => execSendQueueInject core s
  | .sendqTimeout group => execSendqTimeout group s
  | .unbound core ctx slot => execUnbound core ctx slot s
  | .overflowRefill core ctx => execOverflowRefill core ctx s
  | .monitorTimeout strand => execMonitorTimeout strand s
  | .pagereq vf queue => execPagereq vf queue s
  | .coreReplay core ctx => execCoreReplay core ctx s
  | .coppice core => execCoppice core s
  | .reAdmission cluster => execReAdmission cluster s
  | .migrationProtect => execMigrationProtect s
  | .migrationSwitch => execMigrationSwitch s
  | .migrationRelease => execMigrationRelease s
  | .invalidation => execInvalidation s
  | .shootdownAck cache => execShootdownAck cache s
  | .reclaimEnd => execReclaimEnd s
  | .copyRun cluster queue => execCopyRun cluster queue s
  | .copyComplete cluster queue => execCopyComplete cluster queue s
  | .recordIssue cluster => execRecordIssue cluster s
  | .wload engine => execWload engine s
  | .swap engine => execSwap engine s
  | .mstream engine => execMstream engine s
  | .gemm engine => execGemm engine s
  | .drain engine => execDrain engine s
  | .recordComplete engine => execRecordComplete engine s
  | .residentSwitch cluster => execResidentSwitch cluster s
  | .sliceEnd ctx => execSliceEnd ctx s
  | .preemptionRequest ctx clusters => execPreemptionRequest ctx clusters s
  | .budgetExpiry task => execBudgetExpiry task s
  | .quiescentSave task => execQuiescentSave task s
  | .contextSave ctx => execContextSave ctx s
  | .contextRestore image clusters => execContextRestore image clusters s
  | .determSwitch => execDetermSwitch s
  | .pleachWalkCycle => execPleachWalkCycle s
  | .pleachEntryEnd entry => execPleachEntryEnd entry s
  | .slotgiveMsg n => execSlotgiveMsg n s
  | .arrive n => execArrive n s
  | .plctlClr => execPlctlClr s
  | .msg n => execMsg n s
  | .write n => execWrite n s
  | .read n => execRead n s
  | .rdata n => execRdata n s
  | .rop n => execRop n s
  | .roprep n => execRoprep n s
  | .xreq n => execXreq n s
  | .xrep n => execXrep n s
  | .inval n => execInval n s
  | .invack n => execInvack n s
  | .marker n => execMarker n s
  | .markack n => execMarkack n s
  | .eack n => execEack n s
  | .e2eRetransmit peer seq => execE2eRetransmit peer seq s
  | .peerDisconnect peer => execPeerDisconnect peer s
  | .rreq port => execRreq port s
  | .linkReplayTimeout port => execLinkReplayTimeout port s
  | .lastingLinkError port => execLastingLinkError port s
  | .lossOfLight port transmit waves => execLossOfLight port transmit waves s
  | .wavelengthReturn port transmit waves => execWavelengthReturn port transmit waves s
  | .restripeRestart port transmit => execRestripeRestart port transmit s
  | .hostSend fn => execHostSend fn s
  | .hostMap fn => execHostMap fn s
  | .hostGrant fn => execHostGrant fn s
  | .hostUnmap fn => execHostUnmap fn s
  | .hostMquery fn => execHostMquery fn s
  | .reserve fn => execReserve fn s
  | .migrate fn => execMigrate fn s
  | .hostReplay fn => execHostReplay fn s
  | .partcreate fn => execPartcreate fn s
  | .partdestroy fn => execPartdestroy fn s
  | .ctxcreate fn => execCtxcreate fn s
  | .ctxdestroy fn => execCtxdestroy fn s
  | .place fn => execPlace fn s
  | .save fn => execSave fn s
  | .capset fn => execCapset fn s
  | .plassign fn => execPlassign fn s
  | .time n => execTime n s
  | .alloc n => execAlloc n s
  | .free n => execFree n s
  | .log n => execLog n s
  | .signal n => execSignal n s
  | .wake n => execWake n s
  | .mapproxy n => execMapproxy n s
  | .yieldslice n => execYieldslice n s
  | .features n => execFeatures n s
  | .claim master => execClaim master s
  | .release master => execRelease master s
  | .handover master successor => execHandover master successor s
  | .accept master => execAccept master s
  | .handoverLapse => execHandoverLapse s
  | .transportReset master => execTransportReset master s
  | .negotiate master => execNegotiate master s
  | .registerWrite space offset value => execRegisterWrite space offset value s
  | .flr fn => execFlr fn s
  | .moduleReset => execModuleReset s
  | .boot => execBoot s
  | .powerGating watts celsius => execPowerGating watts celsius s
  | .thermalShutdown celsius => execThermalShutdown celsius s
  | .getVersion => execGetVersion s
  | .getCapabilities => execGetCapabilities s
  | .negotiateAlgorithms slhDsaShake256f => execNegotiateAlgorithms slhDsaShake256f s
  | .getDigests => execGetDigests s
  | .getCertificate slot offset length => execGetCertificate slot offset length s
  | .challenge nonce => execChallenge nonce s
  | .getMeasurements index => execGetMeasurements index s
  | .linkFlit port bytes parity => execLinkFlit port bytes parity s
  | .rreqResend port => execRreqResend port s

/-- Cycles pass, those of the Pleach table and of the near-memory operation units with them (R352, R393); the message router tries again what it holds (R235, R323), and threads
of the service processor that sleep take the notify writes that wait for them (R35, R254). -/
def tick (s : State) (n : Nat) : State := startServices (retryRouter (unitsCycles n (tableCycles n (elapse s n))))

/-- The owner writes a firmware image into the slot that does not run (R409). -/
def firmwareWrite (m : BitVec 3) (f : Firmware) (g : Mgmt) : Mgmt :=
  if isMaster m ∧ g.owner = m ∧ g.answers then
    if g.runsB then { g with slotA := f, staged := true } else { g with slotB := f, staged := true }
  else g

/-- An item of the agenda that is no event of the opcode table (DEDUCED: log 71). With BOOTFAIL the device memory takes no writes
of the host (R408). -/
def runOther (s : State) : AgendaItem → Out State
  | .event _ => .next s
  | .elapse n => .next (tick s n)
  | .dropSnap core line => .next (modCore s core (fun c => { c with snap := AMap.erase c.snap line }))
  | .dropIcache core key => .next (modCore s core (fun c => { c with icache := AMap.erase c.icache key }))
  | .dropTlb cache => .next { s with tlbs := AMap.erase s.tlbs cache }
  | .weight core w => .next (modCore s core.toNat (fun c => { c with weight := w }))
  | .eccLine line error =>
    .next { s with badLines := match error with
                     | none => (AMap.erase s.badLines line)
                     | some e => AMap.put s.badLines line e }
  | .eccOperand cluster word => .next { s with badOps := AMap.put s.badOps (cluster.toNat * 2 ^ 19 + word) () }
  | .eccTransient => .next { s with mgmt := { s.mgmt with engineCe := s.mgmt.engineCe + 1 } }
  | .eccPlane engine act =>
    .next (modEngine s engine.toNat (fun e =>
      if act then { e with active := { e.active with bad := true } }
      else { e with shadow := { e.shadow with bad := true } }))
  | .eccAcc engine bank row column =>
    let cell := bank.toNat * 32768 + row.toNat * 256 + column.toNat
    .next (modEngine s engine.toNat (fun e => { e with badCells := cell :: e.badCells }))
  | .hostWrite pa bytes =>
    if s.mgmt.bootFail then .next s
    else match paStops? [pa.toNat, pa.toNat + (bytes.length - 1)] with
    | some o => o
    | none => .next (perform s pa.toNat bytes)
  | .hostImage pa image => if s.mgmt.bootFail then .next s else putImage s pa.toNat image
  | .notify queue w0 w1 => .next (startServices (notifyWrite s queue w0 w1))
  | .firmware master image => .next (modMgmt s (firmwareWrite master image))

/-! ## What the part's units are ready to do

A list may name an event whose conditions do not hold: such an event changes nothing. -/

/-- The message that has left the mesh first is taken. -/
def meshEvents (s : State) : List Event :=
  (List.range s.mesh.length).filterMap (fun n =>
    (meshAt? s n).map (fun m =>
      match m.kind, m.peer with
      | .slotgive .., none => Event.slotgiveMsg n
      | .arrive .., none => Event.arrive n
      | _, _ => Event.messageArrival n))

/-- Cores: mailboxes, deques, send queues, unbound slots, coppicing. -/
def coreEvents (s : State) : List Event :=
  s.cores.flatMap (fun e =>
    let c : CoreId := BitVec.ofNat 8 e.1
    let x := e.2
    let held := x.mbox.flatMap (fun b => b.2.map (fun h => (b.1, h)))
    let forks := x.deque.any (fun d => !d.2.isEmpty)
    if 256 ≤ e.1 then []
    else
      (if held.isEmpty then [] else [Event.mailboxDequeue c]) ++
      (if forks || !held.isEmpty then [Event.taskAdmission c] else []) ++
      (if x.sendReq.isEmpty && x.sendReply.isEmpty && x.sendSys.isEmpty && x.sendBulk.isEmpty then []
       else [Event.sendQueueInject c]) ++
      (held.filterMap (fun h =>
        match h.2.work with
        | .message m => if m.supv || bound s (BitVec.ofNat 12 h.1) m.slot.toNat then none
                        else some (Event.unbound c (BitVec.ofNat 12 h.1) m.slot)
        | _ => none)) ++
      (if wantsRoom s e.1 then [Event.coppice c] else []))

/-- Stealing, by every core that could take a fork from another (R122). -/
def stealEvents (s : State) : List Event :=
  if s.cores.any (fun e => e.2.deque.any (fun d => !d.2.isEmpty)) then
    (s.clusters.filter (fun e => e.2.lower.isSome || e.2.upper.isSome)).flatMap (fun e =>
      (List.range 8).map (fun i => Event.workSteal (BitVec.ofNat 8 (e.1 * 8 + i))))
  else []

/-- Tasks, strands and groups. -/
def taskEvents (s : State) : List Event :=
  s.tasks.flatMap (fun e =>
    (if allExited s e.2 then [Event.taskEnd e.1] else []) ++
    (if e.2.budgetOn && e.2.budgetLeft == 0 && !e.2.expired then [Event.budgetExpiry e.1] else []) ++
    (if e.2.saving then [Event.quiescentSave e.1] else []) ++
    (if e.2.stopping then [Event.coppice (BitVec.ofNat 8 (e.1 / 32))] else [])) ++
  s.strands.flatMap (fun e =>
    match e.2.wait with
    | .cond (.sendRoom ..) since => if since + 4096 ≤ s.now then [Event.sendqTimeout (e.1 / 32)] else []
    | _ => [])

/-- Clusters: launches, re-admission, posted records. -/
def clusterEvents (s : State) : List Event :=
  s.clusters.flatMap (fun e =>
    let c : ClusterId := BitVec.ofNat 5 e.1
    (if e.2.readmit.isEmpty then [] else [Event.reAdmission c]) ++
    (if !e.2.launchQ.isEmpty then [Event.launchPlacement c] else [])) ++
  (if s.launches.any (fun l => l.2.doneAt.isSome) then [Event.launchPlacement 0] else []) ++
  (s.posts.filter (fun e => !e.2.isEmpty)).map (fun e => Event.recordIssue (BitVec.ofNat 5 e.1))

/-- Contexts: page requests, overflow mailboxes, slices, saves. -/
def ctxEvents (s : State) : List Event :=
  s.ctxs.flatMap (fun e =>
    let c : CtxId := BitVec.ofNat 12 e.1
    (if e.2.pageQ.isEmpty then [] else [Event.pagereq false c]) ++
    (once (e.2.ovf.map (fun m => m.2.core.toNat))).map (fun k => Event.overflowRefill (BitVec.ofNat 8 k) c) ++
    (if !e.2.clusters.isEmpty && sliceUsed s e.2 c then [Event.sliceEnd c] else []) ++
    (if e.2.plan.isSome then [Event.contextSave c] else []))

/-- The mapping engine, replays, and the switch of deterministic mode. -/
def mapEvents (s : State) : List Event :=
  (if s.map.invals.any (fun v => !v.sent) then [Event.invalidation] else []) ++
  (once (s.map.invals.flatMap (fun v => if v.sent then v.acks else []))).map Event.shootdownAck ++
  (if s.map.reclaims.isEmpty then [] else [Event.reclaimEnd]) ++
  (if s.map.migrations.isEmpty then [] else [Event.migrationProtect, Event.migrationSwitch, Event.migrationRelease]) ++
  s.replays.flatMap (fun r => r.cores.map (fun c => Event.coreReplay (BitVec.ofNat 8 c) r.ctx)) ++
  (if s.determEn != s.determActive then [Event.determSwitch] else [])

/-- The step of an engine's record (R359 to R368). -/
def recordEvent (e : Nat) (r : BitVec 512) : Event :=
  let n : BitVec 9 := BitVec.ofNat 9 e
  match rcKind r with
  | 1 => .wload n
  | 2 => .swap n
  | 3 => .mstream n
  | 4 => .gemm n
  | _ => .drain n

/-- Copy engines and matrix engines; row entry is gated with issue (R412). -/
def unitEvents (s : State) : List Event :=
  (s.queues.filter (fun e => !e.2.copies.isEmpty)).flatMap (fun e =>
    [Event.copyRun (BitVec.ofNat 5 (e.1 / 12)) (BitVec.ofNat 4 (e.1 % 12)),
     Event.copyComplete (BitVec.ofNat 5 (e.1 / 12)) (BitVec.ofNat 4 (e.1 % 12))]) ++
  s.engines.flatMap (fun e => e.2.runs.flatMap (fun r =>
    (if s.mgmt.gated then [] else [recordEvent e.1 r.record.words]) ++ [Event.recordComplete (BitVec.ofNat 9 e.1)]))

/-- The Pleach table. -/
def pleachEvents (s : State) : List Event :=
  s.pl.entries.filterMap (fun e =>
    match e.2.issued with
    | some (.ended ..) => some (Event.pleachEntryEnd (BitVec.ofNat 9 e.1))
    | _ => none)

/-- The step of a received packet, by its kind (R384). -/
def packetEvent (n kind : Nat) : List Event :=
  match kind with
  | 0x01 => [.msg n]
  | 0x02 => [.write n]
  | 0x03 => [.read n]
  | 0x04 => [.rdata n]
  | 0x05 => [.rop n]
  | 0x06 => [.roprep n]
  | 0x07 => [.xreq n]
  | 0x08 => [.xrep n]
  | 0x09 => [.inval n]
  | 0x0A => [.invack n]
  | 0x0B => [.marker n]
  | 0x0C => [.markack n]
  | 0x0D => [.eack n]
  | _ => []

/-- Received packets, peers and ports. -/
def fabricEvents (s : State) : List Event :=
  (List.range s.fab.rx.length).flatMap (fun n =>
    match s.fab.rx[n]? with
    | some r => packetEvent n (pkKind r.2.2)
    | none => []) ++
  s.fab.peers.flatMap (fun e =>
    let p : BitVec 10 := BitVec.ofNat 10 e.1
    if connected s p then
      (e.2.unacked.filter (fun x => decide (x.sentAt + 160000 ≤ s.now))).map (fun x => Event.e2eRetransmit p x.seq)
    else []) ++
  (lostPeers s).map Event.peerDisconnect ++
  s.fab.ports.flatMap (fun e =>
    let p : BitVec 5 := BitVec.ofNat 5 e.1
    (if e.2.rx.lasting.isSome then [Event.lastingLinkError p] else []) ++
    (if e.2.rx.restripe.isSome && (e.2.rx.agreed.isSome || sourcesUp e.2.rx.dark == 0) then [Event.restripeRestart p false] else []) ++
    (if e.2.tx.restripe.isSome then [Event.restripeRestart p true] else []) ++
    (if rreqDue s.fab.time e.2.rx && e.2.rx.restripe.isNone then [Event.rreqResend p] else []) ++
    (if replayDue s.fab.time e.2.tx then [Event.linkReplayTimeout p] else []))

/-- The step of the post at the head of a window; a post of no operation of the table is answered by any step. -/
def postEvent (fn : BitVec 6) (op : Nat) : Event :=
  match op with
  | 0x01 => .hostMap fn
  | 0x02 => .hostGrant fn
  | 0x03 => .hostUnmap fn
  | 0x04 => .hostMquery fn
  | 0x05 => .reserve fn
  | 0x06 => .migrate fn
  | 0x07 => .hostReplay fn
  | 0x10 => .partcreate fn
  | 0x11 => .partdestroy fn
  | 0x12 => .ctxcreate fn
  | 0x13 => .ctxdestroy fn
  | 0x14 => .place fn
  | 0x15 => .save fn
  | 0x16 => .capset fn
  | 0x17 => .plassign fn
  | _ => .hostSend fn

/-- Windows: posts, and page requests of virtual functions. -/
def windowEvents (s : State) : List Event :=
  s.windows.flatMap (fun e =>
    let fn : BitVec 6 := BitVec.ofNat 6 e.1
    (match e.2.posts with
     | [] => []
     | p :: _ => [postEvent fn (slotOf p).op]) ++
    (if e.2.pageQ.isEmpty then [] else [Event.pagereq true (BitVec.ofNat 12 e.1)]))

/-- The step of a call of the Privet engine (R251). -/
def callEvent (n : Nat) (service : Nat) : Event :=
  match service with
  | 0 => .time n
  | 1 => .alloc n
  | 2 => .free n
  | 3 => .log n
  | 4 => .signal n
  | 5 => .wake n
  | 6 => .mapproxy n
  | 7 => .yieldslice n
  | _ => .features n

def callEvents (s : State) : List Event :=
  (s.calls.filter (fun e => e.2.absent.isNone || e.2.retry)).map (fun e => callEvent e.1 e.2.service.toNat)

/-- The events that the part's units are ready to make; after a module reset, the boot alone (R408). -/
def readyEvents (s : State) : List Event :=
  if !s.mgmt.booted then [.boot]
  else
    meshEvents s ++ coreEvents s ++ stealEvents s ++ taskEvents s ++ clusterEvents s ++ ctxEvents s ++ mapEvents s ++
    unitEvents s ++ pleachEvents s ++ fabricEvents s ++ windowEvents s ++ callEvents s ++
    (if s.mgmt.pending ∧ s.mgmt.pendingAt + second < s.now then [.handoverLapse] else [])

/-- The place of an event in the rotation of the arbiters: its kind, then the unit that makes it. The events that no unit makes by
itself have none. -/
def eventKey (e : Event) : Nat :=
  let at_ := fun (kind unit : Nat) => kind * 2 ^ 48 + unit
  match e with
  | .boot => at_ 1 0
  | .messageArrival _ => at_ 2 0
  | .slotgiveMsg _ => at_ 3 0
  | .arrive _ => at_ 4 0
  | .mailboxDequeue core => at_ 5 core.toNat
  | .taskAdmission core => at_ 6 core.toNat
  | .workSteal core => at_ 7 core.toNat
  | .sendQueueInject core => at_ 8 core.toNat
  | .sendqTimeout group => at_ 9 group
  | .unbound core ctx slot => at_ 10 ((core.toNat * 4096 + ctx.toNat) * 64 + slot.toNat)
  | .overflowRefill core ctx => at_ 11 (core.toNat * 4096 + ctx.toNat)
  | .taskEnd task => at_ 12 task
  | .budgetExpiry task => at_ 13 task
  | .quiescentSave task => at_ 14 task
  | .coppice core => at_ 15 core.toNat
  | .reAdmission cluster => at_ 16 cluster.toNat
  | .launchPlacement cluster => at_ 17 cluster.toNat
  | .recordIssue cluster => at_ 18 cluster.toNat
  | .pagereq vf queue => at_ 19 ((if vf then 4096 else 0) + queue.toNat)
  | .sliceEnd ctx => at_ 20 ctx.toNat
  | .contextSave ctx => at_ 21 ctx.toNat
  | .contextRestore image _ => at_ 22 image.toNat
  | .invalidation => at_ 23 0
  | .shootdownAck cache => at_ 24 cache
  | .reclaimEnd => at_ 25 0
  | .migrationProtect => at_ 26 0
  | .migrationSwitch => at_ 27 0
  | .migrationRelease => at_ 28 0
  | .coreReplay core ctx => at_ 29 (core.toNat * 4096 + ctx.toNat)
  | .determSwitch => at_ 30 0
  | .copyRun cluster queue => at_ 31 (cluster.toNat * 16 + queue.toNat)
  | .copyComplete cluster queue => at_ 32 (cluster.toNat * 16 + queue.toNat)
  | .wload engine => at_ 33 engine.toNat
  | .swap engine => at_ 34 engine.toNat
  | .mstream engine => at_ 35 engine.toNat
  | .gemm engine => at_ 36 engine.toNat
  | .drain engine => at_ 37 engine.toNat
  | .recordComplete engine => at_ 38 engine.toNat
  | .pleachEntryEnd entry => at_ 40 entry.toNat
  | .msg n => at_ 41 n
  | .write n => at_ 42 n
  | .read n => at_ 43 n
  | .rdata n => at_ 44 n
  | .rop n => at_ 45 n
  | .roprep n => at_ 46 n
  | .xreq n => at_ 47 n
  | .xrep n => at_ 48 n
  | .inval n => at_ 49 n
  | .invack n => at_ 50 n
  | .marker n => at_ 51 n
  | .markack n => at_ 52 n
  | .eack n => at_ 53 n
  | .e2eRetransmit peer seq => at_ 54 (peer.toNat * 2 ^ 32 + seq.toNat)
  | .peerDisconnect peer => at_ 55 peer.toNat
  | .lastingLinkError port => at_ 56 port.toNat
  | .restripeRestart port transmit => at_ 57 (port.toNat * 2 + (if transmit then 1 else 0))
  | .rreqResend port => at_ 58 port.toNat
  | .linkReplayTimeout port => at_ 59 port.toNat
  | .hostSend fn => at_ 60 fn.toNat
  | .hostMap fn => at_ 61 fn.toNat
  | .hostGrant fn => at_ 62 fn.toNat
  | .hostUnmap fn => at_ 63 fn.toNat
  | .hostMquery fn => at_ 64 fn.toNat
  | .reserve fn => at_ 65 fn.toNat
  | .migrate fn => at_ 66 fn.toNat
  | .hostReplay fn => at_ 67 fn.toNat
  | .partcreate fn => at_ 68 fn.toNat
  | .partdestroy fn => at_ 69 fn.toNat
  | .ctxcreate fn => at_ 70 fn.toNat
  | .ctxdestroy fn => at_ 71 fn.toNat
  | .place fn => at_ 72 fn.toNat
  | .save fn => at_ 73 fn.toNat
  | .capset fn => at_ 74 fn.toNat
  | .plassign fn => at_ 75 fn.toNat
  | .time n => at_ 76 n
  | .alloc n => at_ 77 n
  | .free n => at_ 78 n
  | .log n => at_ 79 n
  | .signal n => at_ 80 n
  | .wake n => at_ 81 n
  | .mapproxy n => at_ 82 n
  | .yieldslice n => at_ 83 n
  | .features n => at_ 84 n
  | .handoverLapse => at_ 85 0
  | _ => 0

/-- How far an event is from the place that the rotation has reached. -/
def turnOf (last : Nat) (e : Event) : Nat := eventKey e + (if eventKey e ≤ last then 2 ^ 64 else 0)

/-- Of two ready events, the one that comes first in the rotation. -/
def sooner (last : Nat) (a b : Event) : Event := if turnOf last b < turnOf last a then b else a

/-- The event that the part's units make next: every kind and within it every unit in its turn, so that none is passed over for
longer than one turn of each of the others (R131, R337; DESIGN CHOICE: log 2). -/
def nextEvent (s : State) : Option Event :=
  match readyEvents s with
  | [] => none
  | e :: es => some (es.foldl (sooner s.lastEvent) e)

end Sys2Proof.Machine
end

