-- ==== Sys2Proof/Machine/Alu.lean ====
section
/-! DEFINITION. Scalar and uniform integer arithmetic: ALU, the immediate forms, shifts by a constant, GALU, GADDI, GLI
and WALU (R88 to R93, R97 to R100). -/

namespace Sys2Proof.Machine

/-- Signed quotient, rounded toward zero; by zero 0xFFFF_FFFF (R89). -/
def sdivW (a b : Word) : Word :=
  if b = 0 then 0xFFFFFFFF
  else if a = 0x80000000 ∧ b = 0xFFFFFFFF then 0x80000000
  else BitVec.ofInt 32 (Int.tdiv a.toInt b.toInt)

/-- Signed remainder, with the sign of the dividend; by zero the dividend (R89). -/
def sremW (a b : Word) : Word :=
  if b = 0 then a
  else if a = 0x80000000 ∧ b = 0xFFFFFFFF then 0
  else BitVec.ofInt 32 (a.toInt - Int.tdiv a.toInt b.toInt * b.toInt)

/-- Unsigned quotient; by zero 0xFFFF_FFFF (R89). -/
def udivW (a b : Word) : Word := if b = 0 then 0xFFFFFFFF else BitVec.ofNat 32 (a.toNat / b.toNat)

/-- Unsigned remainder; by zero the dividend (R89). -/
def uremW (a b : Word) : Word := if b = 0 then a else BitVec.ofNat 32 (a.toNat % b.toNat)

/-- An exact integer clamped to the signed range of a word (R88). -/
def clampS (v : Int) : Word :=
  if v < -2147483648 then 0x80000000 else if 2147483647 < v then 0x7FFFFFFF else BitVec.ofInt 32 v

/-- An exact integer clamped to the unsigned range of a word (R88). -/
def clampU (v : Int) : Word :=
  if v < 0 then 0 else if 4294967295 < v then 0xFFFFFFFF else BitVec.ofInt 32 v

/-- One bits of a word. -/
def onesIn (a : Word) : Nat := ((List.range 32).filter (fun i => a.getLsbD i)).length

/-- Zero bits above the highest one; 32 for zero. -/
def leadingZeros (a : Word) : Nat := ((List.range 32).find? (fun i => a.getLsbD (31 - i))).getD 32

/-- Zero bits below the lowest one; 32 for zero. -/
def trailingZeros (a : Word) : Nat := ((List.range 32).find? (fun i => a.getLsbD i)).getD 32

/-! ## ALU (R88 to R90) -/

/-- Adds two scalars modulo 2^32 (R88). -/
def execAdd (d a b : SReg) (s : State) : Out State := op2 s d a b (fun a b => a + b)

/-- Subtracts two scalars modulo 2^32 (R88). -/
def execSub (d a b : SReg) (s : State) : Out State := op2 s d a b (fun a b => a - b)

/-- Writes the low 32 bits of the product (R88). -/
def execMul (d a b : SReg) (s : State) : Out State := op2 s d a b (fun a b => a * b)

/-- Writes the high 32 bits of the signed product (R88). -/
def execMulh (d a b : SReg) (s : State) : Out State := op2 s d a b (fun a b => ((a.signExtend 64) * (b.signExtend 64)).extractLsb' 32 32)

/-- Writes the high 32 bits of the unsigned product (R88). -/
def execMulhu (d a b : SReg) (s : State) : Out State := op2 s d a b (fun a b => ((a.setWidth 64) * (b.setWidth 64)).extractLsb' 32 32)

/-- Signed quotient, with fixed results for division by zero and overflow (R89). -/
def execDiv (d a b : SReg) (s : State) : Out State := op2 s d a b (fun a b => sdivW a b)

/-- Unsigned quotient (R89). -/
def execDivu (d a b : SReg) (s : State) : Out State := op2 s d a b (fun a b => udivW a b)

/-- Signed remainder (R89). -/
def execRem (d a b : SReg) (s : State) : Out State := op2 s d a b (fun a b => sremW a b)

/-- Unsigned remainder (R89). -/
def execRemu (d a b : SReg) (s : State) : Out State := op2 s d a b (fun a b => uremW a b)

/-- Bitwise AND of two scalars (R88). -/
def execAnd (d a b : SReg) (s : State) : Out State := op2 s d a b (fun a b => a &&& b)

/-- Bitwise OR of two scalars (R88). -/
def execOr (d a b : SReg) (s : State) : Out State := op2 s d a b (fun a b => a ||| b)

/-- Bitwise XOR of two scalars (R88). -/
def execXor (d a b : SReg) (s : State) : Out State := op2 s d a b (fun a b => a ^^^ b)

/-- a AND NOT b (R88). -/
def execAndn (d a b : SReg) (s : State) : Out State := op2 s d a b (fun a b => a &&& ~~~b)

/-- Shifts left by the whole of b (R90). -/
def execShl (d a b : SReg) (s : State) : Out State := op2 s d a b (fun a b => shiftLeft a b.toNat)

/-- Shifts right with zeros by the whole of b (R90). -/
def execShr (d a b : SReg) (s : State) : Out State := op2 s d a b (fun a b => shiftRight a b.toNat)

/-- Shifts right arithmetically by the whole of b (R90). -/
def execSra (d a b : SReg) (s : State) : Out State := op2 s d a b (fun a b => shiftArith a b.toNat)

/-- Rotates left by b mod 32 (R88). -/
def execRol (d a b : SReg) (s : State) : Out State := op2 s d a b (fun a b => a.rotateLeft (b.toNat % 32))

/-- Rotates right by b mod 32 (R88). -/
def execRor (d a b : SReg) (s : State) : Out State := op2 s d a b (fun a b => a.rotateRight (b.toNat % 32))

/-- Signed minimum (R88). -/
def execMin (d a b : SReg) (s : State) : Out State := op2 s d a b (fun a b => if b.slt a then b else a)

/-- Signed maximum (R88). -/
def execMax (d a b : SReg) (s : State) : Out State := op2 s d a b (fun a b => if a.slt b then b else a)

/-- Unsigned minimum (R88). -/
def execMinu (d a b : SReg) (s : State) : Out State := op2 s d a b (fun a b => if b.ult a then b else a)

/-- Unsigned maximum (R88). -/
def execMaxu (d a b : SReg) (s : State) : Out State := op2 s d a b (fun a b => if a.ult b then b else a)

/-- Signed saturating add (R88). -/
def execAdds (d a b : SReg) (s : State) : Out State := op2 s d a b (fun a b => clampS (a.toInt + b.toInt))

/-- Signed saturating subtract (R88). -/
def execSubs (d a b : SReg) (s : State) : Out State := op2 s d a b (fun a b => clampS (a.toInt - b.toInt))

/-- Unsigned saturating add (R88). -/
def execAddus (d a b : SReg) (s : State) : Out State := op2 s d a b (fun a b => clampU ((a.toNat : Int) + b.toNat))

/-- Unsigned saturating subtract (R88). -/
def execSubus (d a b : SReg) (s : State) : Out State := op2 s d a b (fun a b => clampU ((a.toNat : Int) - b.toNat))

/-- Counts leading zero bits (R88). -/
def execClz (d a : SReg) (s : State) : Out State := op1 s d a (fun a => BitVec.ofNat 32 (leadingZeros a))

/-- Counts trailing zero bits (R88). -/
def execCtz (d a : SReg) (s : State) : Out State := op1 s d a (fun a => BitVec.ofNat 32 (trailingZeros a))

/-- Counts the one bits (R88). -/
def execPopc (d a : SReg) (s : State) : Out State := op1 s d a (fun a => BitVec.ofNat 32 (onesIn a))

/-- Reverses the bit order (R88). -/
def execBrev (d a : SReg) (s : State) : Out State := op1 s d a (fun a => a.reverse)

/-- Sign-extends the low byte (R88). -/
def execSextb (d a : SReg) (s : State) : Out State := op1 s d a (fun a => (a.setWidth 8).signExtend 32)

/-- Sign-extends the low halfword (R88). -/
def execSexth (d a : SReg) (s : State) : Out State := op1 s d a (fun a => (a.setWidth 16).signExtend 32)

/-! ## Immediates and constant shifts (R91 to R93) -/

/-- Adds the sign-extended immediate (R91). -/
def execAddi (d a : SReg) (i : BitVec 14) (s : State) : Out State := op1 s d a (fun a => a + i.signExtend 32)

/-- ANDs with the zero-extended immediate (R91). -/
def execAndi (d a : SReg) (i : BitVec 14) (s : State) : Out State := op1 s d a (fun a => a &&& i.setWidth 32)

/-- ORs with the zero-extended immediate (R91). -/
def execOri (d a : SReg) (i : BitVec 14) (s : State) : Out State := op1 s d a (fun a => a ||| i.setWidth 32)

/-- XORs with the zero-extended immediate (R91). -/
def execXori (d a : SReg) (i : BitVec 14) (s : State) : Out State := op1 s d a (fun a => a ^^^ i.setWidth 32)

/-- Multiplies by the sign-extended immediate (R91). -/
def execMuli (d a : SReg) (i : BitVec 14) (s : State) : Out State := op1 s d a (fun a => a * i.signExtend 32)

/-- Shifts left by a constant count (R92). -/
def execShli (d a : SReg) (c : BitVec 5) (s : State) : Out State := op1 s d a (fun a => shiftLeft a c.toNat)

/-- Shifts right with zeros by a constant count (R92). -/
def execShri (d a : SReg) (c : BitVec 5) (s : State) : Out State := op1 s d a (fun a => shiftRight a c.toNat)

/-- Shifts right arithmetically by a constant count (R92). -/
def execSrai (d a : SReg) (c : BitVec 5) (s : State) : Out State := op1 s d a (fun a => shiftArith a c.toNat)

/-- Loads IMM20 into bits [31:12] and zeroes the rest (R93). -/
def execLui (d : SReg) (i : BitVec 20) (s : State) : Out State := resS s d (fun _ => i ++ 0#12)

/-! ## Uniform registers (R97 to R99) -/

/-- 64-bit uniform add (R97). -/
def execGadd (d a b : GReg) (s : State) : Out State := gop2 s d a b (fun a b => a + b)

/-- 64-bit uniform subtract (R97). -/
def execGsub (d a b : GReg) (s : State) : Out State := gop2 s d a b (fun a b => a - b)

/-- 64-bit uniform multiply (R97). -/
def execGmul (d a b : GReg) (s : State) : Out State := gop2 s d a b (fun a b => a * b)

/-- Uniform AND (R97). -/
def execGand (d a b : GReg) (s : State) : Out State := gop2 s d a b (fun a b => a &&& b)

/-- Uniform OR (R97). -/
def execGor (d a b : GReg) (s : State) : Out State := gop2 s d a b (fun a b => a ||| b)

/-- Uniform XOR (R97). -/
def execGxor (d a b : GReg) (s : State) : Out State := gop2 s d a b (fun a b => a ^^^ b)

/-- Uniform shift left (R97). -/
def execGshl (d a b : GReg) (s : State) : Out State := gop2 s d a b (fun a b => shiftLeft a b.toNat)

/-- Uniform shift right with zeros (R97). -/
def execGshr (d a b : GReg) (s : State) : Out State := gop2 s d a b (fun a b => shiftRight a b.toNat)

/-- Copies a uniform register (R97). -/
def execGmov (d a : GReg) (s : State) : Out State := resG s d (getG s (gk s) a)

/-- Moves the lowest active strand's scalar pair into a uniform register (R98). -/
def execGfrom (d : GReg) (a : BitVec 5) (s : State) : Out State :=
  resG s d (getPair s (firstActive s) (evenReg a))

/-- Adds a sign-extended 16-bit immediate to a uniform register (R99). -/
def execGaddi (d a : GReg) (i : BitVec 16) (s : State) : Out State :=
  resG s d (getG s (gk s) a + i.signExtend 64)

/-- Loads a sign-extended 20-bit immediate into a uniform register (R99). -/
def execGli (d : GReg) (i : BitVec 20) (s : State) : Out State := resG s d (i.signExtend 64)

/-! ## Pairs (R100) -/

/-- 64-bit add of scalar pairs (R100). -/
def execAddw (d a b : BitVec 5) (s : State) : Out State := wop2 s d a b (fun a b => a + b)

/-- 64-bit subtract of scalar pairs (R100). -/
def execSubw (d a b : BitVec 5) (s : State) : Out State := wop2 s d a b (fun a b => a - b)

/-- 64-bit multiply of scalar pairs (R100). -/
def execMulw (d a b : BitVec 5) (s : State) : Out State := wop2 s d a b (fun a b => a * b)

/-- Shifts a pair left by a scalar count (R100). -/
def execShlw (d a : BitVec 5) (b : SReg) (s : State) : Out State :=
  resPair s d (fun k => shiftLeft (getPair s k (evenReg a)) (getS s k b).toNat)

/-- Shifts a pair right with zeros by a scalar count (R100). -/
def execShrw (d a : BitVec 5) (b : SReg) (s : State) : Out State :=
  resPair s d (fun k => shiftRight (getPair s k (evenReg a)) (getS s k b).toNat)

/-- Copies a uniform register into a scalar pair (R100). -/
def execMovg (d : BitVec 5) (a : GReg) (s : State) : Out State := resPair s d (fun _ => getG s (gk s) a)

end Sys2Proof.Machine
end

