-- ==== Sys2Proof/Machine/Flags.lean ====
section
/-! DEFINITION. FFLAGS: the flags that an instruction raises in each strand of S (R161), and results of floating-point
instructions written with them. -/

namespace Sys2Proof.Machine

/-- ORs flags into the FFLAGS of a strand (R161). -/
def orFlags (s : State) (k : Nat) (f : FFlags) : State := modStrand s k (fun t => { t with ff := t.ff ||| f })

/-- ORs each strand's own flags into the FFLAGS of the strands of S. -/
def raiseFlags (s : State) (f : Nat → FFlags) : State := (active s).foldl (fun x k => orFlags x k (f k)) s

/-- A floating-point instruction of one scalar result: each strand of S gets its result and the flags of its own
operands (R160, R161). -/
def resF (s : State) (d : SReg) (f : Nat → Nat × FFlags) : Out State :=
  .next (advance (writeS (raiseFlags s (fun k => (f k).2)) d (fun k => BitVec.ofNat 32 (f k).1)))

/-- The pattern in s[r]. -/
def fbits (s : State) (k : Nat) (r : SReg) : Nat := (getS s k r).toNat

/-- The low or the high element of a packed pair (R170). -/
def half (v hi : Nat) : Nat := v / 2 ^ (16 * hi) % 2 ^ 16

/-- A packed operation: both elements, the flags of both (R170, R171). -/
def packed (f : Nat → Nat × FFlags) : Nat × FFlags := ((f 0).1 + 2 ^ 16 * (f 1).1, (f 0).2 ||| (f 1).2)

/-- The packed format that a bit selects (R75, R170). -/
def packedFmt (b : BitVec 1) : FpFmt := if b = 1 then f16 else bf16

end Sys2Proof.Machine
end

