-- ==== Sys2Proof/Machine/Fp.lean ====
section
/-! DEFINITION. The floating-point instructions and the integer dot product: FALU, FFMA, FCMP, FCVT, HALU, HFMA2 and
IDP4 (R160 to R172). -/

namespace Sys2Proof.Machine

/-- A two-operand FALU operation (R163). -/
def falu2 (s : State) (d a b : SReg) (f : Nat → Nat → Nat × FFlags) : Out State :=
  resF s d (fun k => f (fbits s k a) (fbits s k b))

/-- A one-operand FALU operation (R165). -/
def falu1 (s : State) (d a : SReg) (f : Nat → Nat × FFlags) : Out State := resF s d (fun k => f (fbits s k a))

/-! ## FALU (R163 to R165) -/

/-- FP32 add, RNE (R163). -/
def execFadd (d a b : SReg) (s : State) : Out State := falu2 s d a b (fpAdd f32)

/-- FP32 subtract, RNE (R163). -/
def execFsub (d a b : SReg) (s : State) : Out State := falu2 s d a b (fpSub f32)

/-- FP32 multiply, RNE (R163). -/
def execFmul (d a b : SReg) (s : State) : Out State := falu2 s d a b (fpMul f32)

/-- FP32 minimum with −0 below +0 (R164). -/
def execFmin (d a b : SReg) (s : State) : Out State := falu2 s d a b (fpMinMax f32 false)

/-- FP32 maximum with −0 below +0 (R164). -/
def execFmax (d a b : SReg) (s : State) : Out State := falu2 s d a b (fpMinMax f32 true)

/-- FP32 absolute value (R165). -/
def execFabs (d a : SReg) (s : State) : Out State := falu1 s d a (fun x => fpSign x (fun v => v % 2 ^ 31))

/-- FP32 negation (R165). -/
def execFneg (d a : SReg) (s : State) : Out State := falu1 s d a (fun x => fpSign x (fun v => (v + 2 ^ 31) % 2 ^ 32))

/-- FP32 reciprocal, correctly rounded (R165). -/
def execFrcp (d a : SReg) (s : State) : Out State := falu1 s d a fpRcp

/-- FP32 reciprocal square root, correctly rounded (R165). -/
def execFrsq (d a : SReg) (s : State) : Out State := falu1 s d a fpRsq

/-- FP32 square root, correctly rounded (R165). -/
def execFsqrt (d a : SReg) (s : State) : Out State := falu1 s d a fpSqrt

/-- 2^a, correctly rounded (R165). -/
def execFexp2 (d a : SReg) (s : State) : Out State := falu1 s d a fpExp2

/-- log2 a, correctly rounded (R165). -/
def execFlog2 (d a : SReg) (s : State) : Out State := falu1 s d a fpLog2

/-! ## FFMA and FCMP (R166, R167) -/

/-- a × b + c with a single rounding in the mode of MD (R166). -/
def execFfma (d a b c : SReg) (m : BitVec 2) (s : State) : Out State :=
  resF s d (fun k => fpFma f32 (rmOf m) (fbits s k a) (fbits s k b) (fbits s k c))

/-- FP32 comparison, combined and written to pD, with its flags (R167). -/
def execFcmp (p : Reg3) (c : BitVec 4) (a b : SReg) (m : BitVec 6) (s : State) : Out State :=
  let r := fun (k : Nat) => fpCompare c (fbits s k a) (fbits s k b)
  .next (advance (writeP (raiseFlags s (fun k => (r k).2)) p (fun k => combine s k m (r k).1)))

/-! ## FCVT (R168, R169) -/

/-- The value of an FCVT source in a scalar register, higher bits ignored (R168). -/
def fcvtSource (sf v : Nat) : Fp :=
  match sf with
  | 5 => fpOfInt (BitVec.ofNat 32 v).toInt
  | 6 => fpOfInt (v : Int)
  | 1 => f16.value (v % 2 ^ 16)
  | 2 => bf16.value (v % 2 ^ 16)
  | 3 => e4m3.value (v % 2 ^ 8)
  | 4 => e5m2.value (v % 2 ^ 8)
  | _ => f32.value v

/-- The conversion of an FCVT (R169). -/
def fcvtResult (r : BitVec 2) (sat : BitVec 1) (df sf : BitVec 4) (v : Nat) : Nat × FFlags :=
  let x := fcvtSource sf.toNat v
  match df.toNat with
  | 5 => convertInt true (rmOf r) x
  | 6 => convertInt false (rmOf r) x
  | c => (fmtOf c).convert (rmOf r) (sat = 1) x

/-- Converts between formats and ORs the flags into FFLAGS (R169). -/
def execFcvt (d a : SReg) (r : BitVec 2) (st : BitVec 1) (f g : BitVec 4) (s : State) : Out State :=
  resF s d (fun k => fcvtResult r st f g (fbits s k a))

/-- The flags for which FCVT.TRAP raises ARITH. -/
def arithFlags (f : FFlags) : Bool := f &&& (fNV ||| fOF) != 0

/-- Converts; when a strand of S raises NV or OF, ARITH with that strand's source and flags, and no effect (R169). -/
def execFcvtTrap (d a : SReg) (r : BitVec 2) (st : BitVec 1) (f g : BitVec 4) (s : State) : Out State :=
  let res := fun (k : Nat) => fcvtResult r st f g (fbits s k a)
  match (active s).find? (fun k => arithFlags (res k).2) with
  | some k => .next (raiseTrap s cARITH (((res k).2.setWidth 32) ++ getS s k a) k)
  | none => resF s d res

/-! ## Packed 16-bit operations (R170, R171) -/

/-- A packed operation of two operands in both elements. -/
def halu (s : State) (d a b : SReg) (op : Nat → Nat → Nat × FFlags) : Out State :=
  resF s d (fun k => packed (fun e => op (half (fbits s k a) e) (half (fbits s k b) e)))

/-- Packed add (R170). -/
def execHadd2 (d a b : SReg) (f : BitVec 1) (s : State) : Out State := halu s d a b (fpAdd (packedFmt f))

/-- Packed subtract (R170). -/
def execHsub2 (d a b : SReg) (f : BitVec 1) (s : State) : Out State := halu s d a b (fpSub (packedFmt f))

/-- Packed multiply (R170). -/
def execHmul2 (d a b : SReg) (f : BitVec 1) (s : State) : Out State := halu s d a b (fpMul (packedFmt f))

/-- Packed minimum (R170). -/
def execHmin2 (d a b : SReg) (f : BitVec 1) (s : State) : Out State := halu s d a b (fpMinMax (packedFmt f) false)

/-- Packed maximum (R170). -/
def execHmax2 (d a b : SReg) (f : BitVec 1) (s : State) : Out State := halu s d a b (fpMinMax (packedFmt f) true)

/-- Packed fused multiply-add with a single rounding (R171). -/
def execHfma2 (d a b c : SReg) (m : BitVec 1) (s : State) : Out State :=
  resF s d (fun k => packed (fun e =>
    fpFma (packedFmt m) .rne (half (fbits s k a) e) (half (fbits s k b) e) (half (fbits s k c) e)))

/-! ## IDP4 (R172) -/

/-- Byte i of a word as an integer, signed or not. -/
def byteInt (v : Word) (i : Nat) (unsigned : Bool) : Int :=
  let b : Byte := v.extractLsb' (8 * i) 8
  if unsigned then (b.toNat : Int) else b.toInt

/-- The four-byte dot product added to s[C] (R172). -/
def execIdp4 (d a b c : SReg) (m : BitVec 2) (s : State) : Out State :=
  resS s d (fun k =>
    let p := fun (i : Nat) => byteInt (getS s k a) i (m.getLsbD 1) * byteInt (getS s k b) i (m.getLsbD 0)
    BitVec.ofInt 32 ((getS s k c).toInt + p 0 + p 1 + p 2 + p 3))

end Sys2Proof.Machine
end

