-- ==== Sys2Proof/Machine/Phase.lean ====
section
/-! DEFINITION. PHASE and the barriers (R267 to R272, R427). -/

namespace Sys2Proof.Machine

/-! ## PHASE (R268, R270) -/

/-- The acquire of a PHASE: kinds FULL and ACQ at CHIP or FABRIC scope. -/
def phaseAcquires (k z : BitVec 2) : Bool := k != 1 && z != 0

/-- The release of a PHASE: kinds FULL and REL at CHIP or FABRIC scope. -/
def phaseReleases (k z : BitVec 2) : Bool := k != 2 && z != 0

/-- The last steps of a PHASE: the acquire, and the strands continue. -/
def phaseEnd (s : State) (k z : BitVec 2) : State :=
  advance (if phaseAcquires k z then acquire s s.issue.core else s)

/-- The cycle up to which copies are earlier than the PHASE that issues: that of its first issue for the strands of S (R270). -/
def phaseTime (s : State) : Nat :=
  (active s).foldl (fun b k => match (strandAt s k).wait with | .cond _ since => max b since | _ => max b s.now) 0

/-- The release of a PHASE after its waits: publication, and at FABRIC scope the group's copies to peers and the flush
markers, whose acknowledgements the strands then wait for (R270). -/
def phaseRelease (s : State) (t : Task) (k z : BitVec 2) : State :=
  let core := s.issue.core
  let s1 := publish s core
  if z = 2 then
    let c : Cond := .fabricReady (active s) t.uid (((groupAt? s (gk s)).map (·.index)).getD 0) (phaseTime s)
    if condHolds s1 c then
      let id := s1.fab.nextMarker
      let r := fabricFlush s1 core (.phase (gk s) (phaseAcquires k z))
      if r.2 then phaseEnd r.1 k z else modStrands r.1 (active s) (fun x => { x with wait := .fabric id })
    else waitFor s1 (active s) c
  else phaseEnd s1 k z

/-- Goes on once every earlier access of the strands of S has performed: none of their ROPs is outstanding, and no atomic or rop.st
of theirs stands in the side log (R268, R272). A store counts as performed once it is made, in the side log too (R260). -/
def whenPerformed (s : State) (go : Out State) : Out State :=
  if condHolds s (.ropsQuiet (active s)) then go else .next (waitFor s (active s) (.ropsQuiet (active s)))

/-- Waits for earlier accesses, then releases and acquires as its kind and scope say (R268). -/
def execPhase (k z : BitVec 2) (s : State) : Out State :=
  withTask s (fun _ t => whenPerformed s (
    if phaseReleases k z then releasing s (.next (phaseRelease s t k z)) else .next (phaseEnd s k z)))

/-! ## Barriers (R427) -/

/-- A barrier no task has used. -/
def Barrier.init : Barrier := ⟨[], [], 0⟩

/-- Strands of a task arrive: the task becomes a member, and each strand is marked once (R427). -/
def Barrier.arrive (b : Barrier) (uid : Nat) (ixs : List Nat) : Barrier :=
  { b with members := if b.members.contains uid then b.members else b.members ++ [uid],
           arrived := ixs.foldl (fun l i => if l.contains (uid, i) then l else l ++ [(uid, i)]) b.arrived }

/-- The strand indices of S. -/
def activeIxs (s : State) : List Nat := (active s).map (fun k => (strandIx s k).toNat)

/-- The number that a barrier of the instruction has: Z for a barrier of the task; for a cluster barrier Z counts within the share
of the context, whose barriers are the cluster's 0 to 7 or 8 to 15 in RESIDENT mode. None with no share, or with Z outside it (R427). -/
def barrierNo? (s : State) (cl : Bool) (t : Task) (z : BitVec 4) : Option (BitVec 4) :=
  if cl then
    match barShare? s (clusterOfCore s.issue.core) t.ctx with
    | none => none
    | some (first, n) => if z.toNat < n then some (BitVec.ofNat 4 (first + z.toNat)) else none
  else some z

/-- The barrier with a number. -/
def barrierAt (s : State) (cl : Bool) (t : Task) (z : BitVec 4) : Barrier :=
  if cl then AMap.getD (clusterAt s (clusterOfCore s.issue.core)).bars z.toNat Barrier.init
  else AMap.getD t.bars z.toNat Barrier.init

/-- Stores a barrier and completes its generation if it is full. -/
def putBarrier (s : State) (cl : Bool) (tk : Nat) (z : BitVec 4) (b : Barrier) : State :=
  if cl then
    let c := clusterOfCore s.issue.core
    checkClusterBar (modCluster s c (fun x => { x with bars := AMap.put x.bars z.toNat b })) c z
  else checkTaskBar (modTask s tk (fun t => { t with bars := AMap.put t.bars z.toNat b })) tk z

/-- A barrier instruction: PROT with Z outside the share; else it waits until every earlier access of the strands of S has
performed, and acts on the barrier with its number (R272, R427). -/
def withBarrier (s : State) (cl : Bool) (z : BitVec 4) (go : BitVec 4 → Nat → Task → State) : Out State :=
  withTask s (fun tk t =>
    match barrierNo? s cl t z with
    | none => .next (raiseFirst s cPROT (z.setWidth 64))
    | some n => whenPerformed s (.next (go n tk t)))

/-- The strands of S arrive and continue (R427). -/
def arriveAt (s : State) (cl : Bool) (z : BitVec 4) (tk : Nat) (t : Task) : State :=
  putBarrier (advance s) cl tk z ((barrierAt s cl t z).arrive t.uid (activeIxs s))

/-- A strand that has arrived in the present generation waits for it to pass; another passes at once. -/
def waitAt (s : State) (cl : Bool) (z : BitVec 4) (t : Task) : State :=
  let b := barrierAt s cl t z
  forActive s (fun x k =>
    modStrand x k (fun st =>
      if b.arrived.contains (t.uid, (strandIx s k).toNat) then { st with wait := .barrier cl z b.generation }
      else st.past))

/-- Arrives, then waits: the last arrival passes at once and releases the others (R427). -/
def syncAt (s : State) (cl : Bool) (z : BitVec 4) (tk : Nat) (t : Task) : State :=
  let b := barrierAt s cl t z
  let b' := b.arrive t.uid (activeIxs s)
  putBarrier (if barrierFull s b' then advance s 
      else modStrands s (active s) (fun st => { st with wait := .barrier cl z b.generation })) cl tk z b'

/-- Arrives at a task barrier (R427). -/
def execBarArrive (z : BitVec 4) (s : State) : Out State := withBarrier s false z (arriveAt s false)

/-- Waits at a task barrier (R427). -/
def execBarWait (z : BitVec 4) (s : State) : Out State := withBarrier s false z (fun n _ t => waitAt s false n t)

/-- Arrives and waits at a task barrier (R427). -/
def execBarSync (z : BitVec 4) (s : State) : Out State := withBarrier s false z (syncAt s false)

/-- Arrives at a cluster barrier (R427). -/
def execBarArriveCl (z : BitVec 4) (s : State) : Out State := withBarrier s true z (arriveAt s true)

/-- Waits at a cluster barrier (R427). -/
def execBarWaitCl (z : BitVec 4) (s : State) : Out State := withBarrier s true z (fun n _ t => waitAt s true n t)

/-- Arrives and waits at a cluster barrier (R427). -/
def execBarSyncCl (z : BitVec 4) (s : State) : Out State := withBarrier s true z (syncAt s true)

end Sys2Proof.Machine
end

