-- ==== Sys2Proof/Machine/Predicate.lean ====
section
/-! DEFINITION. Comparisons, predicate logic, select, and exchange among the strands of S: CMP, CMPI, PLOG and XSTR
(R94 to R96, R101 to R105). -/

namespace Sys2Proof.Machine

/-! ## Comparisons (R94) -/

/-- Compares two scalars, combines the result with a predicate and writes pD (R94). -/
def execCmp (p : Reg3) (c : BitVec 4) (a b : SReg) (m : BitVec 6) (s : State) : Out State :=
  resP s p (fun k => combine s k m (intCond c (getS s k a) (getS s k b)))

/-- Compares a scalar with a constant and writes pD (R94). -/
def execCmpi (p : Reg3) (c : BitVec 4) (a : SReg) (i : BitVec 13) (s : State) : Out State :=
  resP s p (fun k => intCond c (getS s k a) (i.signExtend 32))

/-! ## Predicates and select (R95, R96) -/

/-- Predicate AND (R95). -/
def execPand (d a b : Reg3) (s : State) : Out State := pop2 s d a b (fun a b => a && b)

/-- Predicate OR (R95). -/
def execPor (d a b : Reg3) (s : State) : Out State := pop2 s d a b (fun a b => a || b)

/-- Predicate XOR (R95). -/
def execPxor (d a b : Reg3) (s : State) : Out State := pop2 s d a b (fun a b => a != b)

/-- Predicate AND NOT (R95). -/
def execPandn (d a b : Reg3) (s : State) : Out State := pop2 s d a b (fun a b => a && !b)

/-- Predicate OR NOT (R95). -/
def execPorn (d a b : Reg3) (s : State) : Out State := pop2 s d a b (fun a b => a || !b)

/-- Predicate NOT (R95). -/
def execPnot (d a : Reg3) (s : State) : Out State := resP s d (fun k => !getP s k a)

/-- Selects s[A] or s[B] by the predicate named in the function code (R96). -/
def execSel (d a b : SReg) (p : Reg3) (s : State) : Out State :=
  resS s d (fun k => if getP s k p then getS s k a else getS s k b)

/-! ## Votes and masks (R102, R105) -/

/-- The mask of the lanes of S for which a test holds. -/
def maskWhere (s : State) (f : Nat → Bool) : Word := maskOf ((lanes s).filter (fun l => f (skey s l)))

/-- Writes the OR of a predicate over the active set (R102). -/
def execVoteAny (d a : Reg3) (s : State) : Out State :=
  let v := (active s).any (fun k => getP s k a)
  resP s d (fun _ => v)

/-- Writes the AND of a predicate over the active set (R102). -/
def execVoteAll (d a : Reg3) (s : State) : Out State :=
  let v := (active s).all (fun k => getP s k a)
  resP s d (fun _ => v)

/-- Writes the lane mask of active strands whose predicate is true (R102). -/
def execVoteBal (d : SReg) (a : Reg3) (s : State) : Out State :=
  let v := maskWhere s (fun k => getP s k a)
  resS s d (fun _ => v)

/-- Writes the mask of active lanes holding an equal value (R105). -/
def execMatchLanes (d a : SReg) (s : State) : Out State :=
  resS s d (fun k => maskWhere s (fun u => getS s u a == getS s k a))

/-- Writes the mask of the active set (R105). -/
def execActv (d : SReg) (s : State) : Out State := resS s d (fun _ => s.issue.mask)

/-! ## Shuffles (R103) -/

/-- The value that a strand receives from a source lane: its own when that lane does not exist or is not in S. -/
def shuffled (s : State) (a : SReg) (k : Nat) (src : Int) : Word :=
  if 0 ≤ src ∧ src ≤ 31 ∧ s.issue.mask.getLsbD src.toNat then getS s (skey s src.toNat) a else getS s k a

/-- Reads the value of a named lane (R103). -/
def execShflIdx (d a b : SReg) (s : State) : Out State :=
  resS s d (fun k => shuffled s a k (((getS s k b).toNat : Int)))

/-- Reads the value of a lower lane (R103). -/
def execShflUp (d a b : SReg) (s : State) : Out State :=
  resS s d (fun k => shuffled s a k (((laneOfStrand k : Nat) : Int) - (getS s k b).toNat))

/-- Reads the value of a higher lane (R103). -/
def execShflDn (d a b : SReg) (s : State) : Out State :=
  resS s d (fun k => shuffled s a k (((laneOfStrand k : Nat) : Int) + (getS s k b).toNat))

/-- Reads the value of the lane at the XOR distance (R103). -/
def execShflXor (d a b : SReg) (s : State) : Out State :=
  resS s d (fun k => shuffled s a k (((laneOfStrand k ^^^ (getS s k b).toNat : Nat) : Int)))

/-! ## Reductions on the fixed tree (R104) -/

/-- One level of the tree: neighbours combined, half as many values. -/
def pairUp (op : Word → Word → Word) : List Word → List Word
  | x :: y :: r => op x y :: pairUp op r
  | l => l

/-- The tree over the 32 lanes, a lane not in S entering as the identity. -/
def treeOver (s : State) (a : SReg) (op : Word → Word → Word) (id : Word) : Word :=
  let x := (List.range 32).map (fun l => if s.issue.mask.getLsbD l then getS s (skey s l) a else id)
  (pairUp op (pairUp op (pairUp op (pairUp op (pairUp op x))))).headD id

/-- Sums over the active set on the fixed tree (R104). -/
def execRedAdd (d a : SReg) (s : State) : Out State :=
  let v := treeOver s a (fun x y => x + y) 0
  resS s d (fun _ => v)

/-- Signed minimum over the active set (R104). -/
def execRedMin (d a : SReg) (s : State) : Out State :=
  let v := treeOver s a (fun x y => if y.slt x then y else x) 0x7FFFFFFF
  resS s d (fun _ => v)

/-- Signed maximum over the active set (R104). -/
def execRedMax (d a : SReg) (s : State) : Out State :=
  let v := treeOver s a (fun x y => if x.slt y then y else x) 0x80000000
  resS s d (fun _ => v)

end Sys2Proof.Machine
end

