-- ==== Sys2Proof/Machine/Dispatch.lean ====
section
/-! DEFINITION. What each instruction and event does: one arm for each constructor. -/

namespace Sys2Proof.Machine

def exec (i : Instr) (s : State) : Host.Outcome State Fault Refusal :=
  match i with
  | .nop => Sys2Proof.Machine.execNop s
  | .halt => Sys2Proof.Machine.execHalt s
  | .bkpt z => Sys2Proof.Machine.execBkpt z s
  | .trap a => Sys2Proof.Machine.execTrap a s
  | .eret a l => Sys2Proof.Machine.execEret a l s
  | .iflush => Sys2Proof.Machine.execIflush s
  | .replay => Sys2Proof.Machine.execReplay s
  | .yield => Sys2Proof.Machine.execYield s
  | .add d a b => Sys2Proof.Machine.execAdd d a b s
  | .sub d a b => Sys2Proof.Machine.execSub d a b s
  | .mul d a b => Sys2Proof.Machine.execMul d a b s
  | .mulh d a b => Sys2Proof.Machine.execMulh d a b s
  | .mulhu d a b => Sys2Proof.Machine.execMulhu d a b s
  | .div d a b => Sys2Proof.Machine.execDiv d a b s
  | .divu d a b => Sys2Proof.Machine.execDivu d a b s
  | .rem d a b => Sys2Proof.Machine.execRem d a b s
  | .remu d a b => Sys2Proof.Machine.execRemu d a b s
  | .and d a b => Sys2Proof.Machine.execAnd d a b s
  | .or d a b => Sys2Proof.Machine.execOr d a b s
  | .xor d a b => Sys2Proof.Machine.execXor d a b s
  | .andn d a b => Sys2Proof.Machine.execAndn d a b s
  | .shl d a b => Sys2Proof.Machine.execShl d a b s
  | .shr d a b => Sys2Proof.Machine.execShr d a b s
  | .sra d a b => Sys2Proof.Machine.execSra d a b s
  | .rol d a b => Sys2Proof.Machine.execRol d a b s
  | .ror d a b => Sys2Proof.Machine.execRor d a b s
  | .min d a b => Sys2Proof.Machine.execMin d a b s
  | .max d a b => Sys2Proof.Machine.execMax d a b s
  | .minu d a b => Sys2Proof.Machine.execMinu d a b s
  | .maxu d a b => Sys2Proof.Machine.execMaxu d a b s
  | .adds d a b => Sys2Proof.Machine.execAdds d a b s
  | .subs d a b => Sys2Proof.Machine.execSubs d a b s
  | .addus d a b => Sys2Proof.Machine.execAddus d a b s
  | .subus d a b => Sys2Proof.Machine.execSubus d a b s
  | .clz d a => Sys2Proof.Machine.execClz d a s
  | .ctz d a => Sys2Proof.Machine.execCtz d a s
  | .popc d a => Sys2Proof.Machine.execPopc d a s
  | .brev d a => Sys2Proof.Machine.execBrev d a s
  | .sextb d a => Sys2Proof.Machine.execSextb d a s
  | .sexth d a => Sys2Proof.Machine.execSexth d a s
  | .addi d a imm => Sys2Proof.Machine.execAddi d a imm s
  | .andi d a imm => Sys2Proof.Machine.execAndi d a imm s
  | .ori d a imm => Sys2Proof.Machine.execOri d a imm s
  | .xori d a imm => Sys2Proof.Machine.execXori d a imm s
  | .shli d a c => Sys2Proof.Machine.execShli d a c s
  | .shri d a c => Sys2Proof.Machine.execShri d a c s
  | .srai d a c => Sys2Proof.Machine.execSrai d a c s
  | .lui d imm => Sys2Proof.Machine.execLui d imm s
  | .muli d a imm => Sys2Proof.Machine.execMuli d a imm s
  | .cmp p c a b m => Sys2Proof.Machine.execCmp p c a b m s
  | .cmpi p c a imm => Sys2Proof.Machine.execCmpi p c a imm s
  | .pand d a b => Sys2Proof.Machine.execPand d a b s
  | .por d a b => Sys2Proof.Machine.execPor d a b s
  | .pxor d a b => Sys2Proof.Machine.execPxor d a b s
  | .pandn d a b => Sys2Proof.Machine.execPandn d a b s
  | .porn d a b => Sys2Proof.Machine.execPorn d a b s
  | .pnot d a => Sys2Proof.Machine.execPnot d a s
  | .sel d a b p => Sys2Proof.Machine.execSel d a b p s
  | .gadd d a b => Sys2Proof.Machine.execGadd d a b s
  | .gsub d a b => Sys2Proof.Machine.execGsub d a b s
  | .gmul d a b => Sys2Proof.Machine.execGmul d a b s
  | .gand d a b => Sys2Proof.Machine.execGand d a b s
  | .gor d a b => Sys2Proof.Machine.execGor d a b s
  | .gxor d a b => Sys2Proof.Machine.execGxor d a b s
  | .gshl d a b => Sys2Proof.Machine.execGshl d a b s
  | .gshr d a b => Sys2Proof.Machine.execGshr d a b s
  | .gmov d a => Sys2Proof.Machine.execGmov d a s
  | .gfrom d a => Sys2Proof.Machine.execGfrom d a s
  | .gaddi d a imm => Sys2Proof.Machine.execGaddi d a imm s
  | .gli d imm => Sys2Proof.Machine.execGli d imm s
  | .addw d a b => Sys2Proof.Machine.execAddw d a b s
  | .subw d a b => Sys2Proof.Machine.execSubw d a b s
  | .mulw d a b => Sys2Proof.Machine.execMulw d a b s
  | .shlw d a b => Sys2Proof.Machine.execShlw d a b s
  | .shrw d a b => Sys2Proof.Machine.execShrw d a b s
  | .movg d a => Sys2Proof.Machine.execMovg d a s
  | .voteAny d a => Sys2Proof.Machine.execVoteAny d a s
  | .voteAll d a => Sys2Proof.Machine.execVoteAll d a s
  | .voteBal d a => Sys2Proof.Machine.execVoteBal d a s
  | .shflIdx d a b => Sys2Proof.Machine.execShflIdx d a b s
  | .shflUp d a b => Sys2Proof.Machine.execShflUp d a b s
  | .shflDn d a b => Sys2Proof.Machine.execShflDn d a b s
  | .shflXor d a b => Sys2Proof.Machine.execShflXor d a b s
  | .redAdd d a => Sys2Proof.Machine.execRedAdd d a s
  | .redMin d a => Sys2Proof.Machine.execRedMin d a s
  | .redMax d a => Sys2Proof.Machine.execRedMax d a s
  | .matchLanes d a => Sys2Proof.Machine.execMatchLanes d a s
  | .actv d => Sys2Proof.Machine.execActv d s
  | .fadd d a b => Sys2Proof.Machine.execFadd d a b s
  | .fsub d a b => Sys2Proof.Machine.execFsub d a b s
  | .fmul d a b => Sys2Proof.Machine.execFmul d a b s
  | .fmin d a b => Sys2Proof.Machine.execFmin d a b s
  | .fmax d a b => Sys2Proof.Machine.execFmax d a b s
  | .fabs d a => Sys2Proof.Machine.execFabs d a s
  | .fneg d a => Sys2Proof.Machine.execFneg d a s
  | .frcp d a => Sys2Proof.Machine.execFrcp d a s
  | .frsq d a => Sys2Proof.Machine.execFrsq d a s
  | .fsqrt d a => Sys2Proof.Machine.execFsqrt d a s
  | .fexp2 d a => Sys2Proof.Machine.execFexp2 d a s
  | .flog2 d a => Sys2Proof.Machine.execFlog2 d a s
  | .ffma d a b c m => Sys2Proof.Machine.execFfma d a b c m s
  | .fcmp p c a b m => Sys2Proof.Machine.execFcmp p c a b m s
  | .fcvt d a r s1 f g => Sys2Proof.Machine.execFcvt d a r s1 f g s
  | .fcvtTrap d a r s1 f g => Sys2Proof.Machine.execFcvtTrap d a r s1 f g s
  | .hadd2 d a b f => Sys2Proof.Machine.execHadd2 d a b f s
  | .hsub2 d a b f => Sys2Proof.Machine.execHsub2 d a b f s
  | .hmul2 d a b f => Sys2Proof.Machine.execHmul2 d a b f s
  | .hmin2 d a b f => Sys2Proof.Machine.execHmin2 d a b f s
  | .hmax2 d a b f => Sys2Proof.Machine.execHmax2 d a b f s
  | .hfma2 d a b c m => Sys2Proof.Machine.execHfma2 d a b c m s
  | .idp4 d a b c m => Sys2Proof.Machine.execIdp4 d a b c m s
  | .bra n p o => Sys2Proof.Machine.execBra n p o s
  | .jmp o => Sys2Proof.Machine.execJmp o s
  | .jal o => Sys2Proof.Machine.execJal o s
  | .jr a => Sys2Proof.Machine.execJr a s
  | .jalr d a => Sys2Proof.Machine.execJalr d a s
  | .jrG a => Sys2Proof.Machine.execJrG a s
  | .jalrG d a => Sys2Proof.Machine.execJalrG d a s
  | .jarm j imm => Sys2Proof.Machine.execJarm j imm s
  | .jset j a => Sys2Proof.Machine.execJset j a s
  | .jget j d => Sys2Proof.Machine.execJget j d s
  | .join j => Sys2Proof.Machine.execJoin j s
  | .fork a o => Sys2Proof.Machine.execFork a o s
  | .fjoin a => Sys2Proof.Machine.execFjoin a s
  | .exit => Sys2Proof.Machine.execExit s
  | .monw g x imm => Sys2Proof.Machine.execMonw g x imm s
  | .ld d g x s1 z imm => Sys2Proof.Machine.execLd d g x s1 z imm s
  | .st d g x s1 z imm => Sys2Proof.Machine.execSt d g x s1 z imm s
  | .llk d g x s1 z imm => Sys2Proof.Machine.execLlk d g x s1 z imm s
  | .sul d g x s1 z imm => Sys2Proof.Machine.execSul d g x s1 z imm s
  | .atomAdd d g x f => Sys2Proof.Machine.execAtomAdd d g x f s
  | .atomMin d g x f => Sys2Proof.Machine.execAtomMin d g x f s
  | .atomMax d g x f => Sys2Proof.Machine.execAtomMax d g x f s
  | .atomMinu d g x f => Sys2Proof.Machine.execAtomMinu d g x f s
  | .atomMaxu d g x f => Sys2Proof.Machine.execAtomMaxu d g x f s
  | .atomAnd d g x f => Sys2Proof.Machine.execAtomAnd d g x f s
  | .atomOr d g x f => Sys2Proof.Machine.execAtomOr d g x f s
  | .atomXor d g x f => Sys2Proof.Machine.execAtomXor d g x f s
  | .atomXchg d g x f => Sys2Proof.Machine.execAtomXchg d g x f s
  | .atomCas d g x f => Sys2Proof.Machine.execAtomCas d g x f s
  | .atomFadd d g x f => Sys2Proof.Machine.execAtomFadd d g x f s
  | .tlook d a => Sys2Proof.Machine.execTlook d a s
  | .tins d a b => Sys2Proof.Machine.execTins d a b s
  | .tdel d a => Sys2Proof.Machine.execTdel d a s
  | .tclr => Sys2Proof.Machine.execTclr s
  | .ropLd d g x s1 => Sys2Proof.Machine.execRopLd d g x s1 s
  | .ropSt d g x s1 => Sys2Proof.Machine.execRopSt d g x s1 s
  | .ropAdd d g x s1 => Sys2Proof.Machine.execRopAdd d g x s1 s
  | .ropCas2 d g x => Sys2Proof.Machine.execRopCas2 d g x s
  | .ropEnq d g x => Sys2Proof.Machine.execRopEnq d g x s
  | .ropChase d g x h => Sys2Proof.Machine.execRopChase d g x h s
  | .phase k s1 => Sys2Proof.Machine.execPhase k s1 s
  | .barArrive z => Sys2Proof.Machine.execBarArrive z s
  | .barWait z => Sys2Proof.Machine.execBarWait z s
  | .barSync z => Sys2Proof.Machine.execBarSync z s
  | .barArriveCl z => Sys2Proof.Machine.execBarArriveCl z s
  | .barWaitCl z => Sys2Proof.Machine.execBarWaitCl z s
  | .barSyncCl z => Sys2Proof.Machine.execBarSyncCl z s
  | .qfence a => Sys2Proof.Machine.execQfence a s
  | .cpy h a b k => Sys2Proof.Machine.execCpy h a b k s
  | .twait a k => Sys2Proof.Machine.execTwait a k s
  | .tread d k => Sys2Proof.Machine.execTread d k s
  | .tset a k => Sys2Proof.Machine.execTset a k s
  | .tadd a k => Sys2Proof.Machine.execTadd a k s
  | .hset h a w => Sys2Proof.Machine.execHset h a w s
  | .mclaim d => Sys2Proof.Machine.execMclaim d s
  | .mrelease a => Sys2Proof.Machine.execMrelease a s
  | .mpost a b k => Sys2Proof.Machine.execMpost a b k s
  | .pcset a b => Sys2Proof.Machine.execPcset a b s
  | .pcread d a => Sys2Proof.Machine.execPcread d a s
  | .pcwait a => Sys2Proof.Machine.execPcwait a s
  | .send a b w => Sys2Proof.Machine.execSend a b w s
  | .sendC a b w => Sys2Proof.Machine.execSendC a b w s
  | .sendNb p a b w => Sys2Proof.Machine.execSendNb p a b w s
  | .reply b w => Sys2Proof.Machine.execReply b w s
  | .refuse => Sys2Proof.Machine.execRefuse s
  | .mbind d a b => Sys2Proof.Machine.execMbind d a b s
  | .munbind d a => Sys2Proof.Machine.execMunbind d a s
  | .mqstat d a => Sys2Proof.Machine.execMqstat d a s
  | .launch a k => Sys2Proof.Machine.execLaunch a k s
  | .map d a b => Sys2Proof.Machine.execMap d a b s
  | .grant d a b => Sys2Proof.Machine.execGrant d a b s
  | .unmap d a => Sys2Proof.Machine.execUnmap d a s
  | .mquery d a => Sys2Proof.Machine.execMquery d a s
  | .cinv d a b => Sys2Proof.Machine.execCinv d a b s
  | .slotcall d a => Sys2Proof.Machine.execSlotcall d a s
  | .slotcallNb d a => Sys2Proof.Machine.execSlotcallNb d a s
  | .csrr d c => Sys2Proof.Machine.execCsrr d c s
  | .csrw a c => Sys2Proof.Machine.execCsrw a c s
  | .csrs d a c => Sys2Proof.Machine.execCsrs d a c s
  | .csrc d a c => Sys2Proof.Machine.execCsrc d a c s
  | .plwr a b => Sys2Proof.Machine.execPlwr a b s
  | .plrd d a => Sys2Proof.Machine.execPlrd d a s
  | .plgo => Sys2Proof.Machine.execPlgo s
  | .plhalt => Sys2Proof.Machine.execPlhalt s
  | .plstat d a => Sys2Proof.Machine.execPlstat d a s
  | .stasha a b => Sys2Proof.Machine.execStasha a b s
  | .stashf a b => Sys2Proof.Machine.execStashf a b s
  | .slotgive a b => Sys2Proof.Machine.execSlotgive a b s
  | .messageArrival n => Sys2Proof.Machine.execMessageArrival n s
  | .mailboxDequeue core => Sys2Proof.Machine.execMailboxDequeue core s
  | .taskAdmission core => Sys2Proof.Machine.execTaskAdmission core s
  | .taskEnd task => Sys2Proof.Machine.execTaskEnd task s
  | .launchPlacement cluster => Sys2Proof.Machine.execLaunchPlacement cluster s
  | .workSteal core => Sys2Proof.Machine.execWorkSteal core s
  | .sendQueueInject core => Sys2Proof.Machine.execSendQueueInject core s
  | .sendqTimeout group => Sys2Proof.Machine.execSendqTimeout group s
  | .unbound core ctx slot => Sys2Proof.Machine.execUnbound core ctx slot s
  | .overflowRefill core ctx => Sys2Proof.Machine.execOverflowRefill core ctx s
  | .monitorTimeout strand => Sys2Proof.Machine.execMonitorTimeout strand s
  | .pagereq vf queue => Sys2Proof.Machine.execPagereq vf queue s
  | .coreReplay core ctx => Sys2Proof.Machine.execCoreReplay core ctx s
  | .coppice core => Sys2Proof.Machine.execCoppice core s
  | .reAdmission cluster => Sys2Proof.Machine.execReAdmission cluster s
  | .migrationProtect => Sys2Proof.Machine.execMigrationProtect s
  | .migrationSwitch => Sys2Proof.Machine.execMigrationSwitch s
  | .migrationRelease => Sys2Proof.Machine.execMigrationRelease s
  | .invalidation => Sys2Proof.Machine.execInvalidation s
  | .shootdownAck cache => Sys2Proof.Machine.execShootdownAck cache s
  | .reclaimEnd => Sys2Proof.Machine.execReclaimEnd s
  | .copyRun cluster queue => Sys2Proof.Machine.execCopyRun cluster queue s
  | .copyComplete cluster queue => Sys2Proof.Machine.execCopyComplete cluster queue s
  | .recordIssue cluster => Sys2Proof.Machine.execRecordIssue cluster s
  | .wload engine => Sys2Proof.Machine.execWload engine s
  | .swap engine => Sys2Proof.Machine.execSwap engine s
  | .mstream engine => Sys2Proof.Machine.execMstream engine s
  | .gemm engine => Sys2Proof.Machine.execGemm engine s
  | .drain engine => Sys2Proof.Machine.execDrain engine s
  | .recordComplete engine => Sys2Proof.Machine.execRecordComplete engine s
  | .residentSwitch cluster => Sys2Proof.Machine.execResidentSwitch cluster s
  | .sliceEnd ctx => Sys2Proof.Machine.execSliceEnd ctx s
  | .preemptionRequest ctx clusters => Sys2Proof.Machine.execPreemptionRequest ctx clusters s
  | .budgetExpiry task => Sys2Proof.Machine.execBudgetExpiry task s
  | .quiescentSave task => Sys2Proof.Machine.execQuiescentSave task s
  | .contextSave ctx => Sys2Proof.Machine.execContextSave ctx s
  | .contextRestore image clusters => Sys2Proof.Machine.execContextRestore image clusters s
  | .determSwitch => Sys2Proof.Machine.execDetermSwitch s
  | .pleachWalkCycle => Sys2Proof.Machine.execPleachWalkCycle s
  | .pleachEntryEnd entry => Sys2Proof.Machine.execPleachEntryEnd entry s
  | .slotgiveMsg n => Sys2Proof.Machine.execSlotgiveMsg n s
  | .arrive n => Sys2Proof.Machine.execArrive n s
  | .plctlClr => Sys2Proof.Machine.execPlctlClr s
  | .msg n => Sys2Proof.Machine.execMsg n s
  | .write n => Sys2Proof.Machine.execWrite n s
  | .read n => Sys2Proof.Machine.execRead n s
  | .rdata n => Sys2Proof.Machine.execRdata n s
  | .rop n => Sys2Proof.Machine.execRop n s
  | .roprep n => Sys2Proof.Machine.execRoprep n s
  | .xreq n => Sys2Proof.Machine.execXreq n s
  | .xrep n => Sys2Proof.Machine.execXrep n s
  | .inval n => Sys2Proof.Machine.execInval n s
  | .invack n => Sys2Proof.Machine.execInvack n s
  | .marker n => Sys2Proof.Machine.execMarker n s
  | .markack n => Sys2Proof.Machine.execMarkack n s
  | .eack n => Sys2Proof.Machine.execEack n s
  | .e2eRetransmit peer seq => Sys2Proof.Machine.execE2eRetransmit peer seq s
  | .peerDisconnect peer => Sys2Proof.Machine.execPeerDisconnect peer s
  | .rreq port => Sys2Proof.Machine.execRreq port s
  | .linkReplayTimeout port => Sys2Proof.Machine.execLinkReplayTimeout port s
  | .lastingLinkError port => Sys2Proof.Machine.execLastingLinkError port s
  | .lossOfLight port transmit waves => Sys2Proof.Machine.execLossOfLight port transmit waves s
  | .wavelengthReturn port transmit waves => Sys2Proof.Machine.execWavelengthReturn port transmit waves s
  | .restripeRestart port transmit => Sys2Proof.Machine.execRestripeRestart port transmit s
  | .hostSend fn => Sys2Proof.Machine.execHostSend fn s
  | .hostMap fn => Sys2Proof.Machine.execHostMap fn s
  | .hostGrant fn => Sys2Proof.Machine.execHostGrant fn s
  | .hostUnmap fn => Sys2Proof.Machine.execHostUnmap fn s
  | .hostMquery fn => Sys2Proof.Machine.execHostMquery fn s
  | .reserve fn => Sys2Proof.Machine.execReserve fn s
  | .migrate fn => Sys2Proof.Machine.execMigrate fn s
  | .hostReplay fn => Sys2Proof.Machine.execHostReplay fn s
  | .partcreate fn => Sys2Proof.Machine.execPartcreate fn s
  | .partdestroy fn => Sys2Proof.Machine.execPartdestroy fn s
  | .ctxcreate fn => Sys2Proof.Machine.execCtxcreate fn s
  | .ctxdestroy fn => Sys2Proof.Machine.execCtxdestroy fn s
  | .place fn => Sys2Proof.Machine.execPlace fn s
  | .save fn => Sys2Proof.Machine.execSave fn s
  | .capset fn => Sys2Proof.Machine.execCapset fn s
  | .plassign fn => Sys2Proof.Machine.execPlassign fn s
  | .time n => Sys2Proof.Machine.execTime n s
  | .alloc n => Sys2Proof.Machine.execAlloc n s
  | .free n => Sys2Proof.Machine.execFree n s
  | .log n => Sys2Proof.Machine.execLog n s
  | .signal n => Sys2Proof.Machine.execSignal n s
  | .wake n => Sys2Proof.Machine.execWake n s
  | .mapproxy n => Sys2Proof.Machine.execMapproxy n s
  | .yieldslice n => Sys2Proof.Machine.execYieldslice n s
  | .features n => Sys2Proof.Machine.execFeatures n s
  | .claim master => Sys2Proof.Machine.execClaim master s
  | .release master => Sys2Proof.Machine.execRelease master s
  | .handover master successor => Sys2Proof.Machine.execHandover master successor s
  | .accept master => Sys2Proof.Machine.execAccept master s
  | .handoverLapse => Sys2Proof.Machine.execHandoverLapse s
  | .transportReset master => Sys2Proof.Machine.execTransportReset master s
  | .negotiate master => Sys2Proof.Machine.execNegotiate master s
  | .registerWrite space offset value => Sys2Proof.Machine.execRegisterWrite space offset value s
  | .flr fn => Sys2Proof.Machine.execFlr fn s
  | .moduleReset => Sys2Proof.Machine.execModuleReset s
  | .boot => Sys2Proof.Machine.execBoot s
  | .powerGating watts celsius => Sys2Proof.Machine.execPowerGating watts celsius s
  | .thermalShutdown celsius => Sys2Proof.Machine.execThermalShutdown celsius s
  | .getVersion => Sys2Proof.Machine.execGetVersion s
  | .getCapabilities => Sys2Proof.Machine.execGetCapabilities s
  | .negotiateAlgorithms slhDsaShake256f => Sys2Proof.Machine.execNegotiateAlgorithms slhDsaShake256f s
  | .getDigests => Sys2Proof.Machine.execGetDigests s
  | .getCertificate slot offset length => Sys2Proof.Machine.execGetCertificate slot offset length s
  | .challenge nonce => Sys2Proof.Machine.execChallenge nonce s
  | .getMeasurements index => Sys2Proof.Machine.execGetMeasurements index s
  | .linkFlit port bytes parity => Sys2Proof.Machine.execLinkFlit port bytes parity s
  | .rreqResend port => Sys2Proof.Machine.execRreqResend port s

end Sys2Proof.Machine
end

