-- ==== Sys2Proof/Machine/Step.lean ====
section
/-! DEFINITION. One step of the part, and the placing of one instruction where the next step fetches it. -/

namespace Sys2Proof.Machine

/-- One step. While the clocks are stopped nothing but a module reset happens (R412). Otherwise a cycle passes: the
agenda's head happens; with an empty agenda the issue and the part's units take turns (DEDUCED: log 68). -/
def step (s : State) : Host.Outcome State Fault Refusal :=
  match s.agenda with
  | .event e :: rest =>
    if s.mgmt.stopped && e != .moduleReset then .next { s with agenda := rest } else runEvent e { s with agenda := rest }
  | a :: rest => if s.mgmt.stopped then .next { s with agenda := rest } else runOther { s with agenda := rest } a
  | [] =>
    if s.mgmt.stopped then .next s
    else if s.favor then
      match nextEvent (tick { s with favor := false } 1) with
      | some e => runEvent e { tick { s with favor := false } 1 with lastEvent := eventKey e }
      | none => .next (tick { s with favor := false } 1)
    else
      match nextIssue (tick { s with favor := true } 1) with
      | .idle => .next (tick { s with favor := true } 1)
      | .stop s => .next s
      | .run i s => exec i s

/-- Stores an instruction word where the next step fetches it (DEDUCED: log 4). -/
def State.withFetchWord (s : State) (_nbits w : Nat) : State :=
  let s := placeStrand s
  { s with mem := Mem.setBytes s.mem 0 (bytesOf 4 w) }

end Sys2Proof.Machine
end

