-- ==== Sys2Proof/Safety.lean ====
section
/-! DEFINITION. The terms that statements use: which strands an instruction acts for, what a register instruction may
change, the canonical form of the part's memories, and what a safe step is. -/

namespace Sys2Proof.Machine

/-! ## The strands of an issue -/

/-- The strand belongs to the active set S of the instruction that issues (R87). -/
def inS (s : State) (k : Nat) : Bool := (active s).contains k

/-- Strands after an instruction: each listed strand of S as f makes it, every other strand as it was. -/
def StrandsAfter (s t : State) (f : Nat → Strand → Strand) : Prop :=
  ∀ k, AMap.get? t.strands k = (AMap.get? s.strands k).map (fun x => if inS s k then f k x else x)

/-- A strand goes on at the next instruction (R113). -/
def goesOn (s : State) (_ : Nat) (x : Strand) : Strand := { x with pc := s.issue.pc + 4, wait := .run }

/-- A strand goes on at a target. -/
def goesTo (target : Nat → VAddr) (k : Nat) (x : Strand) : Strand := { x with pc := target k, wait := .run }

/-! ## Operands -/

/-- The condition of a comparison code on two words (R94). -/
def conditionHolds (c : BitVec 4) (a b : Word) : Prop :=
  match c.toNat with
  | 0 => a = b
  | 1 => a ≠ b
  | 2 => a.toInt < b.toInt
  | 3 => a.toInt ≤ b.toInt
  | 4 => b.toInt < a.toInt
  | 5 => b.toInt ≤ a.toInt
  | 6 => a.toNat < b.toNat
  | 7 => a.toNat ≤ b.toNat
  | 8 => b.toNat < a.toNat
  | _ => b.toNat ≤ a.toNat

/-- The strand of a lane is in S (R101). -/
def laneInS (s : State) (l : Nat) : Prop := l < 32 ∧ s.issue.mask.getLsbD l = true

/-- The value that a strand receives from a source lane (R103): its own when the lane does not exist or is not in S. -/
def fromLane (s : State) (a : SReg) (k : Nat) (src : Int) (v : Word) : Prop :=
  (∀ l : Nat, src = l → laneInS s l → v = getS s (skey s l) a) ∧
  ((∀ l : Nat, src = l → ¬laneInS s l) → v = getS s k a)

/-- A target at a signed word offset (R110, R111), modulo 2^52. -/
def wordOffset {n : Nat} (s : State) (o : BitVec n) : VAddr :=
  BitVec.ofInt 52 ((s.issue.pc.toNat : Int) + 4 * o.toInt)

/-! ## Register results, with everything else unchanged -/

/-- An outcome is the next state in which s[d] of every strand of S is v of the strand, a write to s0 being discarded,
every strand of S goes on, and nothing else differs. -/
def ScalarResult (s : State) (o : Out State) (d : SReg) (v : Nat → Word) : Prop :=
  ∃ t, o = .next t ∧ t = { s with rf := { s.rf with s := t.rf.s }, strands := t.strands } ∧
    (∀ k r, getS t k r = if inS s k = true ∧ r = d ∧ d ≠ 0 then v k else getS s k r) ∧
    StrandsAfter s t (goesOn s)

/-- As `ScalarResult`, with the flags f of each strand of S added to its FFLAGS (R161). -/
def FloatResult (s : State) (o : Out State) (d : SReg) (v : Nat → Word) (f : Nat → FFlags) : Prop :=
  ∃ t, o = .next t ∧ t = { s with rf := { s.rf with s := t.rf.s }, strands := t.strands } ∧
    (∀ k r, getS t k r = if inS s k = true ∧ r = d ∧ d ≠ 0 then v k else getS s k r) ∧
    StrandsAfter s t (fun k x => { goesOn s k x with ff := x.ff ||| f k })

/-- An outcome is the next state in which p[d] of every strand of S is v of the strand, a write to p7 being discarded. -/
def PredResult (s : State) (o : Out State) (d : Reg3) (v : Nat → Bool) : Prop :=
  ∃ t, o = .next t ∧ t = { s with rf := { s.rf with p := t.rf.p }, strands := t.strands } ∧
    (∀ k n, getP t k n = if inS s k = true ∧ n = d ∧ d ≠ 7 then v k else getP s k n) ∧
    StrandsAfter s t (goesOn s)

/-- An outcome is the next state in which the pair d of every strand of S is v of the strand: the lower-numbered register
bits 31 to 0; s0 keeps its zero (R17). -/
def PairResult (s : State) (o : Out State) (d : BitVec 5) (v : Nat → DWord) : Prop :=
  ∃ t, o = .next t ∧ t = { s with rf := { s.rf with s := t.rf.s }, strands := t.strands } ∧
    (∀ k r, getS t k r =
      if inS s k = true ∧ r = d ++ 0#1 ∧ r ≠ 0 then (v k).setWidth 32
      else if inS s k = true ∧ r = d ++ 1#1 then (v k).extractLsb' 32 32
      else getS s k r) ∧
    StrandsAfter s t (goesOn s)

/-- An outcome is the next state in which g[d] of the issuing group is v, a write to g0 being discarded (R97). -/
def GroupResult (s : State) (o : Out State) (d : GReg) (v : DWord) : Prop :=
  ∃ t, o = .next t ∧ t = { s with rf := { s.rf with g := t.rf.g }, strands := t.strands } ∧
    (∀ q n, getG t q n = if q = gk s ∧ n = d ∧ d ≠ 0 then v else getG s q n) ∧
    StrandsAfter s t (goesOn s)

/-- An outcome is the next state in which every strand of S goes on at its target and s[d] of it is the link, where a
register is named; nothing else differs. -/
def JumpResult (s : State) (o : Out State) (d : SReg) (target : Nat → VAddr) : Prop :=
  ∃ t, o = .next t ∧ t = { s with rf := { s.rf with s := t.rf.s }, strands := t.strands } ∧
    (∀ k r, getS t k r =
      if inS s k = true ∧ r = d ∧ d ≠ 0 then (s.issue.pc + 4).extractLsb' 0 32 else getS s k r) ∧
    StrandsAfter s t (goesTo target)

/-! ## Going on and waiting -/

/-- Every strand of S has a privilege level or a higher one (R33, R34). -/
def Privileged (s : State) (p : Nat) : Prop := ∀ k ∈ active s, p ≤ (privOf s k).toNat

/-- Every core is as it was but the issuing one, which is x. -/
def OnlyCore (s u : State) (x : Core) : Prop := ∀ c, coreAt u c = if c = s.issue.core then x else coreAt s c

/-- An outcome is the next state in which every strand of S goes on and p holds. -/
def GoesOn (s : State) (o : Out State) (p : State → Prop) : Prop :=
  ∃ u, o = .next u ∧ p u ∧ StrandsAfter s u (goesOn s)

/-- An outcome is the next state in which every strand of S waits for a condition (R106), since now or since it began to
wait, at the same instruction, and the issue has taken no turn; nothing else differs. -/
def WaitsFor (s : State) (o : Out State) (c : Cond) : Prop :=
  ∃ u, o = .next u ∧ u = { giveTurnBack s with strands := u.strands } ∧
    StrandsAfter s u (fun _ x => { x with wait := .cond c (match x.wait with | .cond _ since => since | _ => s.now) })

/-- An outcome is the next state in which every strand of S waits for the numbered reply and p holds. -/
def WaitsReply (s : State) (o : Out State) (n : Nat) (p : State → Prop) : Prop :=
  ∃ u, o = .next u ∧ p u ∧ StrandsAfter s u (fun _ x => { x with wait := .reply n })

/-! ## Memories -/

/-- The memories of the part are in their canonical form: addresses strictly rising, no zero listed. -/
def MemoriesCanonical (s : State) : Prop :=
  Mem.wf s.mem = true ∧ Mem.wf s.corewin = true ∧ Mem.wf s.cluwin = true ∧ Mem.wf s.opmem = true

/-- Memory at the coherence point, windows and operand memory are as they were, byte for byte. -/
def SameMemory (s t : State) : Prop :=
  (∀ a, Mem.byte t.mem a = Mem.byte s.mem a) ∧ (∀ a, Mem.byte t.corewin a = Mem.byte s.corewin a) ∧
    (∀ a, Mem.byte t.cluwin a = Mem.byte s.cluwin a) ∧ (∀ a, Mem.byte t.opmem a = Mem.byte s.opmem a)

/-- Registers of every kind are as they were. -/
def SameRegisters (s t : State) : Prop :=
  (∀ k r, getS t k r = getS s k r) ∧ (∀ k n, getP t k n = getP s k n) ∧ (∀ q n, getG t q n = getG s q n) ∧
    (∀ q n, getH t q n = getH s q n) ∧ (∀ q n, getJ t q n = getJ s q n) ∧ (∀ q n, getK t q n = getK s q n)

/-- A register after the words of a load have entered the registers from d up; s0 keeps its zero (R16, R183). -/
def loadedReg (d : SReg) (ws : List Word) (r : SReg) (old : Word) : Word :=
  if r = 0 then 0 else (ws[(r - d).toNat]?).getD old

/-- The byte that a core sees at an address of GLOBAL memory (R262): its last unpublished store of it, else its copy of
the line, else the byte at the coherence point. -/
def viewByte (s : State) (core pa : Nat) : Byte :=
  match bufByte? (coreAt s core).wbuf pa with
  | some b => b
  | none =>
    match AMap.get? (coreAt s core).snap (pa / 128) with
    | some line => line.extractLsb' (pa % 128 * 8) 8
    | none => memByte s pa

/-- n bytes as a core sees them. -/
def viewBytes (s : State) (core pa n : Nat) : List Byte := (List.range n).map (fun i => viewByte s core (pa + i))

/-- n bytes as a core sees them whose snapshot does not hold the line. -/
def freshBytes (s : State) (core pa n : Nat) : List Byte :=
  (List.range n).map (fun i => (bufByte? (coreAt s core).wbuf (pa + i)).getD (memByte s (pa + i)))

/-- The byte at an address after some strands have stored their bytes at their places, one after the other. -/
def lastStore (ks : List Nat) (place : Nat → Nat) (bytes : Nat → List Byte) (a : Nat) (old : Byte) : Byte :=
  ks.foldl (fun r k =>
    if place k ≤ a ∧ a < place k + (bytes k).length then (bytes k).getD (a - place k) 0 else r) old

/-! ## Blocks that an instruction reads -/

/-- A block of n bytes in one line can be read by the lowest-numbered strand of S: its page is present in plain memory at
pa with the right R, nothing of the strand is pending on the line, no line has an error and the group is not parked. -/
def BlockReadable (s : State) (t : Task) (a : DWord) (n pa : Nat) : Prop :=
  0 < n ∧ a.toNat % 128 + n ≤ 128 ∧ s.badLines = [] ∧ sideOnLine s (firstActive s) (lineOf a) = false ∧
    (groupAt? s (gk s)).bind (·.parked) = none ∧
    (checkPage s (coreCaches s.issue.core) t.ctx a rR false).2 = .page pa ∧ plainMem pa = true ∧ pa % 128 + n ≤ 128

/-- The number that the n bytes of a block hold, as the issuing core sees them. -/
def blockAt (s : State) (pa n : Nat) : Nat := natOfBytes (viewBytes s s.issue.core pa n)

/-- Cores are as they were but for the lines that their snapshots hold and the bytes that they count as moved (R262, R331). -/
def SameCores (s t : State) : Prop :=
  ∀ c, coreAt t c = { coreAt s c with snap := (coreAt t c).snap, traffic := (coreAt t c).traffic }

/-! ## Safe steps -/

/-- A step is safe when it gives a next state: it ends neither in a fault nor in a refusal. -/
def SafeStep (s : State) : Prop := ∃ t, step s = .next t

end Sys2Proof.Machine
end

