-- ==== Sys2Proof/Certificates/Slice0/Obligations.lean ====
section
/-! DEFINITION. The statements about the model of the Vexhorn: one definition each, to be proved. -/

open Sys2Proof Sys2Proof.Machine

/-! ## Register instructions -/

/-- R88 and R90: the two-operand ALU operations, in every strand of S. -/
def Sys2Proof.Parts.AluTwoOperands : Prop :=
  ∀ (s : State) (d a b : SReg),
    ScalarResult s (exec (.add d a b) s) d
      (fun k => BitVec.ofNat 32 ((getS s k a).toNat + (getS s k b).toNat)) ∧
    ScalarResult s (exec (.sub d a b) s) d
      (fun k => BitVec.ofInt 32 ((getS s k a).toInt - (getS s k b).toInt)) ∧
    ScalarResult s (exec (.mul d a b) s) d
      (fun k => BitVec.ofNat 32 ((getS s k a).toNat * (getS s k b).toNat)) ∧
    ScalarResult s (exec (.mulh d a b) s) d
      (fun k => BitVec.ofInt 32 ((getS s k a).toInt * (getS s k b).toInt / 2 ^ 32)) ∧
    ScalarResult s (exec (.mulhu d a b) s) d
      (fun k => BitVec.ofNat 32 ((getS s k a).toNat * (getS s k b).toNat / 2 ^ 32)) ∧
    ScalarResult s (exec (.and d a b) s) d (fun k => getS s k a &&& getS s k b) ∧
    ScalarResult s (exec (.or d a b) s) d (fun k => getS s k a ||| getS s k b) ∧
    ScalarResult s (exec (.xor d a b) s) d (fun k => getS s k a ^^^ getS s k b) ∧
    ScalarResult s (exec (.andn d a b) s) d (fun k => getS s k a &&& ~~~(getS s k b)) ∧
    ScalarResult s (exec (.shl d a b) s) d
      (fun k => BitVec.ofNat 32 (if (getS s k b).toNat < 32 then (getS s k a).toNat * 2 ^ (getS s k b).toNat else 0)) ∧
    ScalarResult s (exec (.shr d a b) s) d
      (fun k => BitVec.ofNat 32 (if (getS s k b).toNat < 32 then (getS s k a).toNat / 2 ^ (getS s k b).toNat else 0)) ∧
    ScalarResult s (exec (.sra d a b) s) d
      (fun k =>
        if (getS s k b).toNat < 32 then BitVec.ofInt 32 ((getS s k a).toInt / 2 ^ (getS s k b).toNat)
        else if (getS s k a).getLsbD 31 then 0xFFFFFFFF else 0) ∧
    ScalarResult s (exec (.rol d a b) s) d (fun k => (getS s k a).rotateLeft ((getS s k b).toNat % 32)) ∧
    ScalarResult s (exec (.ror d a b) s) d (fun k => (getS s k a).rotateRight ((getS s k b).toNat % 32)) ∧
    ScalarResult s (exec (.min d a b) s) d
      (fun k => BitVec.ofInt 32 (min (getS s k a).toInt (getS s k b).toInt)) ∧
    ScalarResult s (exec (.max d a b) s) d
      (fun k => BitVec.ofInt 32 (max (getS s k a).toInt (getS s k b).toInt)) ∧
    ScalarResult s (exec (.minu d a b) s) d
      (fun k => BitVec.ofNat 32 (min (getS s k a).toNat (getS s k b).toNat)) ∧
    ScalarResult s (exec (.maxu d a b) s) d
      (fun k => BitVec.ofNat 32 (max (getS s k a).toNat (getS s k b).toNat)) ∧
    ScalarResult s (exec (.adds d a b) s) d
      (fun k => BitVec.ofInt 32 (max (-(2 ^ 31)) (min (2 ^ 31 - 1) ((getS s k a).toInt + (getS s k b).toInt)))) ∧
    ScalarResult s (exec (.subs d a b) s) d
      (fun k => BitVec.ofInt 32 (max (-(2 ^ 31)) (min (2 ^ 31 - 1) ((getS s k a).toInt - (getS s k b).toInt)))) ∧
    ScalarResult s (exec (.addus d a b) s) d
      (fun k => BitVec.ofNat 32 (min (2 ^ 32 - 1) ((getS s k a).toNat + (getS s k b).toNat))) ∧
    ScalarResult s (exec (.subus d a b) s) d
      (fun k => BitVec.ofNat 32 ((getS s k a).toNat - (getS s k b).toNat))

/-- R89: division rounds toward zero, the remainder takes the dividend's sign, and the two borderline inputs have fixed
results. -/
def Obligations.DivisionResults : Prop :=
  ∀ (s : State) (d a b : SReg),
    ScalarResult s (exec (.div d a b) s) d (fun k =>
      let x := getS s k a
      let y := getS s k b
      if y = 0 then 0xFFFFFFFF
      else if x = 0x80000000 ∧ y = 0xFFFFFFFF then 0x80000000
      else BitVec.ofInt 32 (x.toInt.tdiv y.toInt)) ∧
    ScalarResult s (exec (.rem d a b) s) d (fun k =>
      let x := getS s k a
      let y := getS s k b
      if y = 0 then x
      else if x = 0x80000000 ∧ y = 0xFFFFFFFF then 0
      else BitVec.ofInt 32 (x.toInt.tmod y.toInt)) ∧
    ScalarResult s (exec (.divu d a b) s) d (fun k =>
      let x := getS s k a
      let y := getS s k b
      if y = 0 then 0xFFFFFFFF else BitVec.ofNat 32 (x.toNat / y.toNat)) ∧
    ScalarResult s (exec (.remu d a b) s) d (fun k =>
      let x := getS s k a
      let y := getS s k b
      if y = 0 then x else BitVec.ofNat 32 (x.toNat - x.toNat / y.toNat * y.toNat))

/-- R88: the one-operand ALU operations. A count of leading or trailing zeros is described by the bits that it counts. -/
def Sys2Proof.Parts.AluOneOperand : Prop :=
  ∀ (s : State) (d a : SReg),
    (∃ v : Nat → Word, ScalarResult s (exec (.clz d a) s) d v ∧
      ∀ k, (v k).toNat ≤ 32 ∧ (∀ i, i < (v k).toNat → (getS s k a).getLsbD (31 - i) = false) ∧
        ((v k).toNat < 32 → (getS s k a).getLsbD (31 - (v k).toNat) = true)) ∧
    (∃ v : Nat → Word, ScalarResult s (exec (.ctz d a) s) d v ∧
      ∀ k, (v k).toNat ≤ 32 ∧ (∀ i, i < (v k).toNat → (getS s k a).getLsbD i = false) ∧
        ((v k).toNat < 32 → (getS s k a).getLsbD (v k).toNat = true)) ∧
    ScalarResult s (exec (.popc d a) s) d
      (fun k => BitVec.ofNat 32 ((List.range 32).countP (fun i => (getS s k a).getLsbD i))) ∧
    (∃ v : Nat → Word, ScalarResult s (exec (.brev d a) s) d v ∧
      ∀ k i, i < 32 → (v k).getLsbD i = (getS s k a).getLsbD (31 - i)) ∧
    ScalarResult s (exec (.sextb d a) s) d (fun k => BitVec.ofInt 32 ((getS s k a).extractLsb' 0 8).toInt) ∧
    ScalarResult s (exec (.sexth d a) s) d (fun k => BitVec.ofInt 32 ((getS s k a).extractLsb' 0 16).toInt)

/-- R91, R92 and R93: the immediate forms, the shifts by a constant count and LUI. -/
def Sys2Proof.Parts.ImmediateForms : Prop :=
  ∀ (s : State) (d a : SReg) (i : BitVec 14) (c : BitVec 5) (u : BitVec 20),
    ScalarResult s (exec (.addi d a i) s) d (fun k => BitVec.ofInt 32 ((getS s k a).toInt + i.toInt)) ∧
    ScalarResult s (exec (.andi d a i) s) d (fun k => getS s k a &&& BitVec.ofNat 32 i.toNat) ∧
    ScalarResult s (exec (.ori d a i) s) d (fun k => getS s k a ||| BitVec.ofNat 32 i.toNat) ∧
    ScalarResult s (exec (.xori d a i) s) d (fun k => getS s k a ^^^ BitVec.ofNat 32 i.toNat) ∧
    ScalarResult s (exec (.muli d a i) s) d (fun k => BitVec.ofInt 32 ((getS s k a).toInt * i.toInt)) ∧
    ScalarResult s (exec (.shli d a c) s) d (fun k => BitVec.ofNat 32 ((getS s k a).toNat * 2 ^ c.toNat)) ∧
    ScalarResult s (exec (.shri d a c) s) d (fun k => BitVec.ofNat 32 ((getS s k a).toNat / 2 ^ c.toNat)) ∧
    ScalarResult s (exec (.srai d a c) s) d (fun k => BitVec.ofInt 32 ((getS s k a).toInt / 2 ^ c.toNat)) ∧
    ScalarResult s (exec (.lui d u) s) d (fun _ => BitVec.ofNat 32 (u.toNat * 2 ^ 12))

/-- R94 and R71: CMPI writes its condition; CMP writes it, or its AND or OR with a predicate or its complement. -/
def Sys2Proof.Parts.Comparisons : Prop :=
  ∀ (s : State) (p : Reg3) (c : BitVec 4) (a b : SReg) (i : BitVec 13) (q : Reg3) (neg : Bool),
    (∃ v : Nat → Bool, PredResult s (exec (.cmpi p c a i) s) p v ∧
      ∀ k, v k = true ↔ conditionHolds c (getS s k a) (i.signExtend 32)) ∧
    (∃ v : Nat → Bool, PredResult s (exec (.cmp p c a b 0) s) p v ∧
      ∀ k, v k = true ↔ conditionHolds c (getS s k a) (getS s k b)) ∧
    (∃ v : Nat → Bool, PredResult s (exec (.cmp p c a b (0b01#2 ++ BitVec.ofBool neg ++ q)) s) p v ∧
      ∀ k, v k = true ↔ conditionHolds c (getS s k a) (getS s k b) ∧ getP s k q = !neg) ∧
    (∃ v : Nat → Bool, PredResult s (exec (.cmp p c a b (0b10#2 ++ BitVec.ofBool neg ++ q)) s) p v ∧
      ∀ k, v k = true ↔ conditionHolds c (getS s k a) (getS s k b) ∨ getP s k q = !neg)

/-- R95 and R96: predicate logic, and SEL. -/
def Sys2Proof.Parts.PredicateLogic : Prop :=
  ∀ (s : State) (d a b : Reg3) (r x y : SReg),
    PredResult s (exec (.pand d a b) s) d (fun k => getP s k a && getP s k b) ∧
    PredResult s (exec (.por d a b) s) d (fun k => getP s k a || getP s k b) ∧
    PredResult s (exec (.pxor d a b) s) d (fun k => getP s k a ^^ getP s k b) ∧
    PredResult s (exec (.pandn d a b) s) d (fun k => getP s k a && !(getP s k b)) ∧
    PredResult s (exec (.porn d a b) s) d (fun k => getP s k a || !(getP s k b)) ∧
    PredResult s (exec (.pnot d a) s) d (fun k => !(getP s k a)) ∧
    ScalarResult s (exec (.sel r x y a) s) r (fun k => if getP s k a = true then getS s k x else getS s k y)

/-- R97, R98 and R99: the uniform instructions, once for the group. GFROM reads the pair of the lowest-numbered strand
of S. -/
def Sys2Proof.Parts.UniformArithmetic : Prop :=
  ∀ (s : State) (d a b : GReg) (i : BitVec 16) (l : BitVec 20) (p : BitVec 5),
    GroupResult s (exec (.gadd d a b) s) d
      (BitVec.ofNat 64 ((getG s (gk s) a).toNat + (getG s (gk s) b).toNat)) ∧
    GroupResult s (exec (.gsub d a b) s) d
      (BitVec.ofInt 64 ((getG s (gk s) a).toInt - (getG s (gk s) b).toInt)) ∧
    GroupResult s (exec (.gmul d a b) s) d
      (BitVec.ofNat 64 ((getG s (gk s) a).toNat * (getG s (gk s) b).toNat)) ∧
    GroupResult s (exec (.gand d a b) s) d (getG s (gk s) a &&& getG s (gk s) b) ∧
    GroupResult s (exec (.gor d a b) s) d (getG s (gk s) a ||| getG s (gk s) b) ∧
    GroupResult s (exec (.gxor d a b) s) d (getG s (gk s) a ^^^ getG s (gk s) b) ∧
    GroupResult s (exec (.gshl d a b) s) d
      (if (getG s (gk s) b).toNat < 64 then
        BitVec.ofNat 64 ((getG s (gk s) a).toNat * 2 ^ (getG s (gk s) b).toNat) else 0) ∧
    GroupResult s (exec (.gshr d a b) s) d
      (if (getG s (gk s) b).toNat < 64 then
        BitVec.ofNat 64 ((getG s (gk s) a).toNat / 2 ^ (getG s (gk s) b).toNat) else 0) ∧
    GroupResult s (exec (.gmov d a) s) d (getG s (gk s) a) ∧
    GroupResult s (exec (.gfrom d p) s) d
      (getS s (firstActive s) (p ++ 1#1) ++ getS s (firstActive s) (p ++ 0#1)) ∧
    GroupResult s (exec (.gaddi d a i) s) d (BitVec.ofInt 64 ((getG s (gk s) a).toInt + i.toInt)) ∧
    GroupResult s (exec (.gli d l) s) d (BitVec.ofInt 64 l.toInt)

/-- R100 and R17: the pair instructions. -/
def Sys2Proof.Parts.PairArithmetic : Prop :=
  ∀ (s : State) (d a b : BitVec 5) (c : SReg) (g : GReg),
    PairResult s (exec (.addw d a b) s) d
      (fun k => BitVec.ofNat 64 ((getPair s k (a ++ 0#1)).toNat + (getPair s k (b ++ 0#1)).toNat)) ∧
    PairResult s (exec (.subw d a b) s) d
      (fun k => BitVec.ofInt 64 ((getPair s k (a ++ 0#1)).toInt - (getPair s k (b ++ 0#1)).toInt)) ∧
    PairResult s (exec (.mulw d a b) s) d
      (fun k => BitVec.ofNat 64 ((getPair s k (a ++ 0#1)).toNat * (getPair s k (b ++ 0#1)).toNat)) ∧
    PairResult s (exec (.shlw d a c) s) d
      (fun k => if (getS s k c).toNat < 64 then
        BitVec.ofNat 64 ((getPair s k (a ++ 0#1)).toNat * 2 ^ (getS s k c).toNat) else 0) ∧
    PairResult s (exec (.shrw d a c) s) d
      (fun k => if (getS s k c).toNat < 64 then
        BitVec.ofNat 64 ((getPair s k (a ++ 0#1)).toNat / 2 ^ (getS s k c).toNat) else 0) ∧
    PairResult s (exec (.movg d g) s) d (fun _ => getG s (gk s) g)

/-- R102 and R105: votes, MATCH and ACTV, over the active set alone (R101). -/
def Sys2Proof.Parts.VotesAndMasks : Prop :=
  ∀ (s : State) (d : SReg) (p a : Reg3) (x : SReg),
    (∃ v : Bool, PredResult s (exec (.voteAny p a) s) p (fun _ => v) ∧
      (v = true ↔ ∃ l, laneInS s l ∧ getP s (skey s l) a = true)) ∧
    (∃ v : Bool, PredResult s (exec (.voteAll p a) s) p (fun _ => v) ∧
      (v = true ↔ ∀ l, laneInS s l → getP s (skey s l) a = true)) ∧
    (∃ v : Word, ScalarResult s (exec (.voteBal d a) s) d (fun _ => v) ∧
      ∀ l, v.getLsbD l = true ↔ laneInS s l ∧ getP s (skey s l) a = true) ∧
    (∃ v : Nat → Word, ScalarResult s (exec (.matchLanes d x) s) d v ∧
      ∀ k l, (v k).getLsbD l = true ↔ laneInS s l ∧ getS s (skey s l) x = getS s k x) ∧
    ScalarResult s (exec (.actv d) s) d (fun _ => s.issue.mask)

/-- R103: the shuffles. -/
def Sys2Proof.Parts.Shuffles : Prop :=
  ∀ (s : State) (d a b : SReg),
    (∃ v : Nat → Word, ScalarResult s (exec (.shflIdx d a b) s) d v ∧
      ∀ k, fromLane s a k (getS s k b).toNat (v k)) ∧
    (∃ v : Nat → Word, ScalarResult s (exec (.shflUp d a b) s) d v ∧
      ∀ k, fromLane s a k ((k % 32 : Nat) - ((getS s k b).toNat : Int)) (v k)) ∧
    (∃ v : Nat → Word, ScalarResult s (exec (.shflDn d a b) s) d v ∧
      ∀ k, fromLane s a k ((k % 32 : Nat) + ((getS s k b).toNat : Int)) (v k)) ∧
    (∃ v : Nat → Word, ScalarResult s (exec (.shflXor d a b) s) d v ∧
      ∀ k, fromLane s a k ((k % 32 ^^^ (getS s k b).toNat : Nat) : Int) (v k))

/-- R104: the reductions. The sum is modulo 2^32; a minimum or maximum bounds every value of S and, where S is not
empty, is one of them. -/
def Sys2Proof.Parts.Reductions : Prop :=
  ∀ (s : State) (d a : SReg),
    ScalarResult s (exec (.redAdd d a) s) d
      (fun _ => BitVec.ofNat 32 ((lanes s).map (fun l => (getS s (skey s l) a).toNat)).sum) ∧
    (∃ v : Word, ScalarResult s (exec (.redMin d a) s) d (fun _ => v) ∧
      (∀ l, laneInS s l → v.toInt ≤ (getS s (skey s l) a).toInt) ∧
      ((∃ l, laneInS s l) → ∃ l, laneInS s l ∧ v = getS s (skey s l) a)) ∧
    (∃ v : Word, ScalarResult s (exec (.redMax d a) s) d (fun _ => v) ∧
      (∀ l, laneInS s l → (getS s (skey s l) a).toInt ≤ v.toInt) ∧
      ((∃ l, laneInS s l) → ∃ l, laneInS s l ∧ v = getS s (skey s l) a))

/-! ## Floating point -/

/-- R162 and R163 to R166 in outline: each FP32 instruction completes with the result and the flags of its operation in
every strand of S, and adds the flags to FFLAGS; a NaN operand of an addition, subtraction, multiplication, root or
reciprocal gives the canonical NaN. -/
def Obligations.FloatArithmetic : Prop :=
  ∀ (s : State) (d a b c : SReg) (m : BitVec 2),
    let x := fun (k : Nat) => (getS s k a).toNat
    let y := fun (k : Nat) => (getS s k b).toNat
    let z := fun (k : Nat) => (getS s k c).toNat
    let res := fun (f : Nat → Nat × FFlags) (k : Nat) => BitVec.ofNat 32 (f k).1
    let fl := fun (f : Nat → Nat × FFlags) (k : Nat) => (f k).2
    let gives := fun (i : Instr) (f : Nat → Nat × FFlags) => FloatResult s (exec i s) d (res f) (fl f)
    gives (.fadd d a b) (fun k => fpAdd f32 (x k) (y k)) ∧ gives (.fsub d a b) (fun k => fpSub f32 (x k) (y k)) ∧
    gives (.fmul d a b) (fun k => fpMul f32 (x k) (y k)) ∧
    gives (.fmin d a b) (fun k => fpMinMax f32 false (x k) (y k)) ∧
    gives (.fmax d a b) (fun k => fpMinMax f32 true (x k) (y k)) ∧
    gives (.frcp d a) (fun k => fpRcp (x k)) ∧ gives (.frsq d a) (fun k => fpRsq (x k)) ∧
    gives (.fsqrt d a) (fun k => fpSqrt (x k)) ∧ gives (.fexp2 d a) (fun k => fpExp2 (x k)) ∧
    gives (.flog2 d a) (fun k => fpLog2 (x k)) ∧
    gives (.ffma d a b c m) (fun k => fpFma f32 (rmOf m) (x k) (y k) (z k)) ∧
    (∀ k, (f32.value (x k)).isNan = true →
      (fpAdd f32 (x k) (y k)).1 = 0x7FC00000 ∧ (fpSub f32 (x k) (y k)).1 = 0x7FC00000 ∧
      (fpMul f32 (x k) (y k)).1 = 0x7FC00000 ∧ (fpSqrt (x k)).1 = 0x7FC00000 ∧ (fpRcp (x k)).1 = 0x7FC00000)

/-- R88 and R90 to R93: the ALU operations of two operands, of one, and with an immediate. -/
def Obligations.AluOperations : Prop :=
  Sys2Proof.Parts.AluTwoOperands ∧ Sys2Proof.Parts.AluOneOperand ∧ Sys2Proof.Parts.ImmediateForms

/-- R71 and R94 to R96: comparisons into predicates, and the operations on predicates. -/
def Obligations.ComparisonsAndPredicates : Prop :=
  Sys2Proof.Parts.Comparisons ∧ Sys2Proof.Parts.PredicateLogic

/-- R17 and R97 to R100: arithmetic on uniform registers and on register pairs. -/
def Obligations.UniformAndPairArithmetic : Prop :=
  Sys2Proof.Parts.UniformArithmetic ∧ Sys2Proof.Parts.PairArithmetic

/-- R101 to R105: what crosses the lanes of S. -/
def Obligations.CrossLane : Prop :=
  Sys2Proof.Parts.VotesAndMasks ∧ Sys2Proof.Parts.Shuffles ∧ Sys2Proof.Parts.Reductions

/-- R165, fabs and fneg: they change only bit 31 of a non-NaN operand and raise no flag; a NaN operand gives the canonical
NaN, with NV when it is signalling. An FP32 pattern is a NaN when its magnitude lies above that of infinity, and a
signalling one when bit 22 is 0. -/
def Sys2Proof.Parts.FloatSignOperations : Prop :=
  ∀ (s : State) (d a : SReg),
    let x := fun (k : Nat) => getS s k a
    let nan := fun (k : Nat) => 0x7F800000#32 < (x k &&& 0x7FFFFFFF#32)
    let flag := fun (k : Nat) => if nan k ∧ (x k).getLsbD 22 = false then 16#5 else 0#5
    FloatResult s (exec (.fabs d a) s) d
      (fun k => if nan k then 0x7FC00000 else x k &&& 0x7FFFFFFF) flag ∧
    FloatResult s (exec (.fneg d a) s) d
      (fun k => if nan k then 0x7FC00000 else x k ^^^ 0x80000000) flag

/-- R167 and R71: FCMP writes its condition, combined as CMB says, with the flags of the comparison; an equality is false
and an inequality true when an operand is a NaN, and the ordered conditions then raise NV. -/
def Sys2Proof.Parts.FloatComparison : Prop :=
  ∀ (s : State) (p : Reg3) (c : BitVec 4) (a b : SReg) (m : BitVec 6),
    let cmp := fun (k : Nat) => fpCompare c (getS s k a).toNat (getS s k b).toNat
    (∃ t, exec (.fcmp p c a b m) s = .next t ∧
      t = { s with rf := { s.rf with p := t.rf.p }, strands := t.strands } ∧
      (∀ k n, getP t k n = if inS s k = true ∧ n = p ∧ p ≠ 7 then combine s k m (cmp k).1 else getP s k n) ∧
      StrandsAfter s t (fun k x => { goesOn s k x with ff := x.ff ||| (cmp k).2 })) ∧
    (∀ k, (f32.value (getS s k a).toNat).isNan = true ∨ (f32.value (getS s k b).toNat).isNan = true →
      (c = 0 → (cmp k).1 = false) ∧ (c = 1 → (cmp k).1 = true) ∧
      ((c = 2 ∨ c = 3 ∨ c = 4 ∨ c = 5) → cmp k = (false, 16#5)) ∧ (c = 6 → (cmp k).1 = true) ∧ (c = 7 → (cmp k).1 = false))

/-- R168 and R169: FCVT writes the conversion of the exact source value and ORs its flags; FCVT.TRAP does the same when no
strand of S raises NV or OF, and otherwise raises ARITH for the lowest-numbered strand that does, with its source in
bits 31 to 0 of the value and the flags in bits 36 to 32. -/
def Obligations.FloatConversion : Prop :=
  ∀ (s : State) (d a : SReg) (r : BitVec 2) (sat : BitVec 1) (f g : BitVec 4),
    let res := fun (k : Nat) => fcvtResult r sat f g (getS s k a).toNat
    let bad := fun (k : Nat) => (res k).2 &&& 0b10100#5 ≠ 0
    FloatResult s (exec (.fcvt d a r sat f g) s) d (fun k => BitVec.ofNat 32 (res k).1) (fun k => (res k).2) ∧
    ((∀ k ∈ active s, ¬bad k) →
      FloatResult s (exec (.fcvtTrap d a r sat f g) s) d (fun k => BitVec.ofNat 32 (res k).1) (fun k => (res k).2)) ∧
    (∀ k before after, active s = before ++ k :: after → bad k → (∀ j ∈ before, ¬bad j) →
      exec (.fcvtTrap d a r sat f g) s =
        .next (raiseTrap s 0x11 (BitVec.ofNat 64 ((res k).2.toNat * 2 ^ 32 + (getS s k a).toNat)) k))

/-- R170, R171 and R172: the packed operations work on both halves in the format that F or MD selects, and IDP4 adds the
exact sum of four byte products to s[C]. -/
def Obligations.PackedArithmetic : Prop :=
  ∀ (s : State) (d a b c : SReg) (f : BitVec 1) (m : BitVec 2),
    let fmt := if f = 1 then f16 else bf16
    let lo := fun (r : SReg) (k : Nat) => ((getS s k r).extractLsb' 0 16).toNat
    let hi := fun (r : SReg) (k : Nat) => ((getS s k r).extractLsb' 16 16).toNat
    let both := fun (x y : Nat → Nat × FFlags) (i : Instr) =>
      FloatResult s (exec i s) d (fun k => BitVec.ofNat 32 ((x k).1 + 65536 * (y k).1)) (fun k => (x k).2 ||| (y k).2)
    both (fun k => fpAdd fmt (lo a k) (lo b k)) (fun k => fpAdd fmt (hi a k) (hi b k)) (.hadd2 d a b f) ∧
    both (fun k => fpSub fmt (lo a k) (lo b k)) (fun k => fpSub fmt (hi a k) (hi b k)) (.hsub2 d a b f) ∧
    both (fun k => fpMul fmt (lo a k) (lo b k)) (fun k => fpMul fmt (hi a k) (hi b k)) (.hmul2 d a b f) ∧
    both (fun k => fpMinMax fmt false (lo a k) (lo b k)) (fun k => fpMinMax fmt false (hi a k) (hi b k)) (.hmin2 d a b f) ∧
    both (fun k => fpMinMax fmt true (lo a k) (lo b k)) (fun k => fpMinMax fmt true (hi a k) (hi b k)) (.hmax2 d a b f) ∧
    both (fun k => fpFma fmt .rne (lo a k) (lo b k) (lo c k)) (fun k => fpFma fmt .rne (hi a k) (hi b k) (hi c k))
      (.hfma2 d a b c f) ∧
    ScalarResult s (exec (.idp4 d a b c m) s) d (fun k =>
      let x := fun (i : Nat) => if m.getLsbD 1 then (((getS s k a).extractLsb' (8 * i) 8).toNat : Int)
        else ((getS s k a).extractLsb' (8 * i) 8).toInt
      let y := fun (i : Nat) => if m.getLsbD 0 then (((getS s k b).extractLsb' (8 * i) 8).toNat : Int)
        else ((getS s k b).extractLsb' (8 * i) 8).toInt
      BitVec.ofInt 32 ((getS s k c).toInt + (x 0 * y 0 + x 1 * y 1 + x 2 * y 2 + x 3 * y 3)))

/-! ## Control flow -/

/-- R110 and R113: BRA sends the strands whose guard holds to its target and the others on. The statement is for a branch
forward; a branch to its own address or below also ends an iteration of R128, and may park the strand on a monitor. -/
def Sys2Proof.Parts.BranchForward : Prop :=
  ∀ (s : State) (n : BitVec 1) (p : Reg3) (o : BitVec 22),
    s.issue.pc.toNat < (wordOffset s o).toNat →
    ∃ t, exec (.bra n p o) s = .next t ∧ t = { s with strands := t.strands } ∧
      StrandsAfter s t (fun k x =>
        { x with pc := if getP s k p = (n == 0) then wordOffset s o else s.issue.pc + 4, wait := .run })

/-- R110, R111 and R128: a branch to its own address or below sends every strand whose guard holds to its target too,
whether it goes on there or parks; registers and memories stay. -/
def Sys2Proof.Parts.BranchBackward : Prop :=
  ∀ (s : State) (n : BitVec 1) (p : Reg3) (o : BitVec 22) (j : BitVec 26),
    (∃ t, exec (.bra n p o) s = .next t ∧ t.rf = s.rf ∧ t.mem = s.mem ∧ t.corewin = s.corewin ∧ t.cluwin = s.cluwin ∧
      ∀ k x, AMap.get? s.strands k = some x → ∃ y, AMap.get? t.strands k = some y ∧
        y.pc = (if inS s k = true then (if getP s k p = (n == 0) then wordOffset s o else s.issue.pc + 4) else x.pc)) ∧
    (∃ t, exec (.jmp j) s = .next t ∧ t.rf = s.rf ∧ t.mem = s.mem ∧ t.corewin = s.corewin ∧ t.cluwin = s.cluwin ∧
      ∀ k x, AMap.get? s.strands k = some x → ∃ y, AMap.get? t.strands k = some y ∧
        y.pc = (if inS s k = true then wordOffset s j else x.pc))

/-- R111 and R112: JAL writes the link to s63 and jumps; JR and JALR jump to the scalar target in the 4 GiB region of the
PC, JR.G and JALR.G to the uniform one, when the target is aligned; a misaligned target raises ALIGN in the lowest-numbered
such strand, or in the lowest-numbered strand of S for a uniform target, and a uniform target with nonzero upper bits PROT. -/
def Sys2Proof.Parts.JumpsAndCalls : Prop :=
  ∀ (s : State) (d a : SReg) (g : GReg) (o : BitVec 26),
    let ts := fun (k : Nat) => s.issue.pc.extractLsb' 32 20 ++ getS s k a
    let tg := getG s (gk s) g
    JumpResult s (exec (.jal o) s) 63 (fun _ => wordOffset s o) ∧
    ((∀ k ∈ active s, (ts k).toNat % 4 = 0) →
      JumpResult s (exec (.jr a) s) 0 ts ∧ JumpResult s (exec (.jalr d a) s) d ts) ∧
    (tg.toNat % 4 = 0 → tg.toNat < 2 ^ 52 →
      JumpResult s (exec (.jrG g) s) 0 (fun _ => tg.setWidth 52) ∧
      JumpResult s (exec (.jalrG d g) s) d (fun _ => tg.setWidth 52)) ∧
    (∀ k before after, active s = before ++ k :: after → (ts k).toNat % 4 ≠ 0 →
      (∀ j ∈ before, (ts j).toNat % 4 = 0) →
      exec (.jr a) s = .next (raiseTrap s 0x03 ((ts k).setWidth 64) k) ∧
      exec (.jalr d a) s = .next (raiseTrap s 0x03 ((ts k).setWidth 64) k)) ∧
    (tg.toNat % 4 ≠ 0 →
      exec (.jrG g) s = .next (raiseTrap s 0x03 ((tg.setWidth 52).setWidth 64) (firstActive s)) ∧
      exec (.jalrG d g) s = .next (raiseTrap s 0x03 ((tg.setWidth 52).setWidth 64) (firstActive s))) ∧
    (tg.toNat % 4 = 0 → 2 ^ 52 ≤ tg.toNat →
      exec (.jrG g) s = .next (raiseTrap s 0x05 tg (firstActive s)) ∧
      exec (.jalrG d g) s = .next (raiseTrap s 0x05 tg (firstActive s)))

/-- R114 and R115: while no strand waits at the mask, JARM arms it with S and its join PC, and JSET writes s[A] of the
lowest-numbered strand of S without the lanes that have exited; JGET reads it. With waiting strands JARM and JSET raise
JOINFAULT; that its value is the waiting mask is the model's reading: log 76. -/
def Sys2Proof.Parts.JoinMasks : Prop :=
  ∀ (s : State) (j : Reg3) (i : BitVec 20) (a d : SReg),
    let m := getJ s (gk s) j.toNat
    (m.waiting = 0 →
      (∃ t, exec (.jarm j i) s = .next t ∧ t = { s with rf := { s.rf with j := t.rf.j }, strands := t.strands } ∧
        (∀ q n, n < 8 → getJ t q n = if q = gk s ∧ n = j.toNat then ⟨s.issue.mask, wordOffset s i, 0⟩ else getJ s q n) ∧
        StrandsAfter s t (goesOn s)) ∧
      (∃ t v, exec (.jset j a) s = .next t ∧ t = { s with rf := { s.rf with j := t.rf.j }, strands := t.strands } ∧
        (∀ l, v.getLsbD l = true ↔
          (getS s (firstActive s) a).getLsbD l = true ∧ l < 32 ∧ (strandAt s (gk s * 32 + l)).wait ≠ .exited) ∧
        (∀ q n, n < 8 → getJ t q n = if q = gk s ∧ n = j.toNat then { m with mask := v } else getJ s q n) ∧
        StrandsAfter s t (goesOn s))) ∧
    (m.waiting ≠ 0 →
      exec (.jarm j i) s = .next (raiseTrap s 0x0F (m.waiting.setWidth 64) (firstActive s)) ∧
      exec (.jset j a) s = .next (raiseTrap s 0x0F (m.waiting.setWidth 64) (firstActive s))) ∧
    ScalarResult s (exec (.jget j d) s) d (fun _ => m.mask)

/-- R116: a JOIN at another PC than the mask's raises JOINFAULT with the join PC. At the join PC the waiting lanes w are those that
wait already and the lanes of S in the mask. A strand of S outside the mask goes on, one inside it waits; but when w is the whole
mask, the mask empties and every strand that waits there, the earlier ones too, goes on past its JOIN. Every other strand stays as
it is. -/
def Sys2Proof.Parts.JoinReconverges : Prop :=
  ∀ (s : State) (j : Reg3),
    let m := getJ s (gk s) j.toNat
    let w := m.waiting ||| (s.issue.mask &&& m.mask)
    (s.issue.pc ≠ m.pc → exec (.join j) s = .next (raiseTrap s 0x0F (m.pc.setWidth 64) (firstActive s))) ∧
    (s.issue.pc = m.pc → ∃ t, exec (.join j) s = .next t ∧
      t = { s with rf := { s.rf with j := t.rf.j }, strands := t.strands } ∧
      (∀ q n, n < 8 → getJ t q n =
        if q = gk s ∧ n = j.toNat then (if w = m.mask then ⟨0, m.pc, 0⟩ else ⟨m.mask, m.pc, w⟩) else getJ s q n) ∧
      (∀ l x, l < 32 → AMap.get? s.strands (skey s l) = some x →
        AMap.get? t.strands (skey s l) = some (
          if s.issue.mask.getLsbD l = true then
            (if m.mask.getLsbD l = true ∧ w ≠ m.mask then { x with wait := .join j.toNat } else { x with pc := x.pc + 4, wait := .run })
          else if m.waiting.getLsbD l = true ∧ w = m.mask then { x with pc := x.pc + 4, wait := .run }
          else x)) ∧
      (∀ k, k / 32 ≠ gk s → AMap.get? t.strands k = AMap.get? s.strands k))

/-- R117: EXIT ends every strand of S and takes its lanes out of every join mask of the group. No other group register,
no predicate and no byte of memory changes; scalar registers stay too where no strand of S holds a lock bit, since a bit
that is freed completes the LLK of a waiter (R188, R190). -/
def Sys2Proof.Parts.ExitLeaves : Prop :=
  ∀ (s : State),
    ∃ t, exec .exit s = .next t ∧ t.rf.p = s.rf.p ∧ t.rf.g = s.rf.g ∧ t.rf.h = s.rf.h ∧ t.rf.k = s.rf.k ∧
      SameMemory s t ∧ ((∀ k ∈ active s, (strandAt s k).locks = []) → t.rf.s = s.rf.s) ∧
      (∀ k ∈ active s, (strandAt t k).wait = .exited) ∧
      (∀ n l, n < 8 → s.issue.mask.getLsbD l = true → (getJ t (gk s) n).mask.getLsbD l = false)

/-- R117 and R427, for strands of S that hold no lock bit: a join mask whose remaining lanes all wait after the exit empties, and
the strands that wait there go on past their JOIN; a barrier of the cluster or of the task whose generation the exit completes
advances, and the strands that wait at it for that generation go on past their instruction. A barrier counts as complete with the
strands of S exited. Every other strand that waits at a join mask or at a barrier stays as it is. -/
def Sys2Proof.Parts.ExitReleases : Prop :=
  ∀ (s : State) (tk : Nat) (t : Task),
    let left := fun (n : Nat) => (getJ s (gk s) n).mask &&& ~~~s.issue.mask
    let waiting := fun (n : Nat) => (getJ s (gk s) n).waiting
    let ended := modStrands s (active s) (fun x => { x with wait := .exited })
    let cl := s.issue.core / 8
    let bars := fun (c : Bool) => if c = true then (clusterAt s cl).bars else t.bars
    let after := fun (b : Barrier) => if barrierFull ended b = true then { b with arrived := [], generation := b.generation + 1 } else b
    issuer? s = some (tk, t) → (∀ k ∈ active s, (strandAt s k).locks = []) →
    (∀ n l, n < 8 → l < 32 → (waiting n).getLsbD l = true → (strandAt s (skey s l)).wait ≠ .exited) →
    ∃ u, exec .exit s = .next u ∧
      (∀ n, n < 8 → getJ u (gk s) n = if waiting n ≠ 0 ∧ waiting n = left n then ⟨0, (getJ s (gk s) n).pc, 0⟩
        else { getJ s (gk s) n with mask := left n }) ∧
      (∀ n l x, n < 8 → l < 32 → s.issue.mask.getLsbD l = false → (waiting n).getLsbD l = true →
        (∀ i, i < 8 → i ≠ n → (waiting i).getLsbD l = false) →
        AMap.get? s.strands (skey s l) = some x → x.wait = .join n →
        AMap.get? u.strands (skey s l) = some (if waiting n = left n then { x with pc := x.pc + 4, wait := .run } else x)) ∧
      (∀ z b, z < 16 → AMap.get? (clusterAt s cl).bars z = some b → AMap.get? (clusterAt u cl).bars z = some (after b)) ∧
      (∃ t', AMap.get? u.tasks tk = some t' ∧
        ∀ z b, z < 16 → AMap.get? t.bars z = some b → AMap.get? t'.bars z = some (after b)) ∧
      (∀ k x c z a, AMap.get? s.strands k = some x → x.wait = .barrier c z a → inS s k = false →
        (∀ n, n < 8 → k / 32 = gk s → (waiting n).getLsbD (k % 32) = false) →
        AMap.get? u.strands k = some (
          if (if c = true then k / 1024 / 8 == cl else (strandsOfTask t).contains k) = true ∧
              (AMap.get? (bars c) z.toNat).any (fun b => barrierFull ended b && a != b.generation + 1) = true then
            { x with pc := x.pc + 4, wait := .run }
          else x))

/-- R117 and R427: EXIT.
What the spec leaves open here is the model's choice: log 10. -/
def Obligations.ExitEndsStrands : Prop :=
  Sys2Proof.Parts.ExitLeaves ∧ Sys2Proof.Parts.ExitReleases

/-- R71, R165 and R167: sign operations, minimum, maximum and comparisons of floating-point numbers. -/
def Obligations.FloatSignAndComparison : Prop :=
  Sys2Proof.Parts.FloatSignOperations ∧ Sys2Proof.Parts.FloatComparison

/-- R110 to R113 and R128: branches, jumps and calls. -/
def Obligations.BranchesAndJumps : Prop :=
  Sys2Proof.Parts.BranchForward ∧ Sys2Proof.Parts.BranchBackward ∧ Sys2Proof.Parts.JumpsAndCalls

/-- R114 to R116: the join registers, arrival at a join and reconvergence. -/
def Obligations.Joins : Prop :=
  Sys2Proof.Parts.JoinMasks ∧ Sys2Proof.Parts.JoinReconverges

/-! ## Fork, join and the system instructions -/

/-- R120, R121 and R123: with room in the deque, nothing outstanding and an aligned counter in the context's window share,
FORK adds 1 to the counter, pushes one task with the lanes of S at its target and S goes on; FJOIN passes when the counter
reads zero and otherwise waits at it. -/
def Obligations.ForkAndFjoin : Prop :=
  ∀ (s : State) (a : SReg) (o : BitVec 19) (tk : Nat) (t : Task) (base len : Nat) (up : Bool),
    let core := s.issue.core
    let off := (getS s (firstActive s) a).toNat
    let at_ := core / 8 * 2 ^ 23 + base + off
    issuer? s = some (tk, t) → off % 4 = 0 → off + 4 ≤ cluLimit s (core / 8) →
    clusterShare? s (core / 8) t.ctx = some (base, len, up) → (coreAt s core).wbuf = [] →
    ((AMap.getD (coreAt s core).deque t.ctx.toNat []).length < 32 → sidePending s (active s) = false →
      ropsOut s (active s) = false → deferredOf? s = none →
      ∃ u, exec (.fork a o) s = .next u ∧ u.rf = s.rf ∧ u.mem = s.mem ∧ u.corewin = s.corewin ∧
        Mem.nat u.cluwin at_ 4 = (Mem.nat s.cluwin at_ 4 + 1) % 2 ^ 32 ∧
        (∀ b, b < at_ ∨ at_ + 4 ≤ b → Mem.byte u.cluwin b = Mem.byte s.cluwin b) ∧
        (∃ h f, AMap.getD (coreAt u core).deque t.ctx.toNat [] = AMap.getD (coreAt s core).deque t.ctx.toNat [] ++ [h] ∧
          h.work = .fork f ∧ f.pc = wordOffset s o ∧ f.off = at_ ∧ f.lanes.map (·.1) = lanes s) ∧
        ∀ k ∈ active s, ∀ x, AMap.get? s.strands k = some x → (strandAt u k).pc = s.issue.pc + 4) ∧
    (Mem.nat s.cluwin at_ 4 = 0 → ∃ u, exec (.fjoin a) s = .next u ∧ u.rf = s.rf ∧ SameMemory s u ∧
      (coreAt u core).snap = [] ∧ StrandsAfter s u (goesOn s)) ∧
    (Mem.nat s.cluwin at_ 4 ≠ 0 → ∃ u, exec (.fjoin a) s = .next u ∧ u.rf = s.rf ∧ SameMemory s u ∧
      ∀ k ∈ active s, ∀ x, AMap.get? s.strands k = some x →
        (strandAt u k).pc = x.pc ∧ ∃ since, (strandAt u k).wait = .cond (.forkZero (core / 8) at_) since)

/-- R254: NOP changes nothing but the PC; YIELD marks its group; IFLUSH drops from the core's instruction cache the lines of
its context and no others. -/
def Sys2Proof.Parts.NopYieldIflush : Prop :=
  ∀ (s : State),
    (∃ t, exec .nop s = .next t ∧ t = { s with strands := t.strands } ∧ StrandsAfter s t (goesOn s)) ∧
    (∃ t, exec .yield s = .next t ∧ t = { s with strands := t.strands, groups := t.groups } ∧ StrandsAfter s t (goesOn s) ∧
      ∀ g, AMap.get? t.groups g =
        (AMap.get? s.groups g).map (fun x => if g = gk s then { x with yielded := some ⟨[], []⟩ } else x)) ∧
    (∀ tk t, issuer? s = some (tk, t) →
      ∃ u, exec .iflush s = .next u ∧ u = { s with strands := u.strands, cores := u.cores } ∧
        StrandsAfter s u (goesOn s) ∧
        (∀ e, e ∈ (coreAt u s.issue.core).icache ↔
          e ∈ (coreAt s s.issue.core).icache ∧ e.1 / 2 ^ 45 ≠ t.ctx.toNat) ∧
        ∀ c, c ≠ s.issue.core → AMap.get? u.cores c = AMap.get? s.cores c)

/-- R254 and R34: HALT and REPLAY need SVC and SUPV: below it PRIV is raised with the word as the value. At SVC, HALT ends
every strand of its task. At SUPV, REPLAY makes the context's stopped copies retry, and S goes on where no core holds an
entry of the context. -/
def Sys2Proof.Parts.HaltAndReplay : Prop :=
  ∀ (s : State) (tk : Nat) (t : Task), issuer? s = some (tk, t) →
    (∀ k before after, active s = before ++ k :: after → (privOf s k).toNat < 2 →
      (∀ j ∈ before, 2 ≤ (privOf s j).toNat) →
      exec .halt s = .next (raiseTrap s 0x02 (s.issue.word.setWidth 64) k)) ∧
    (∀ k before after, active s = before ++ k :: after → (privOf s k).toNat < 1 →
      (∀ j ∈ before, 1 ≤ (privOf s j).toNat) →
      exec .replay s = .next (raiseTrap s 0x02 (s.issue.word.setWidth 64) k)) ∧
    ((∀ k ∈ active s, 2 ≤ (privOf s k).toNat) →
      ∃ u, exec .halt s = .next u ∧ SameMemory s u ∧ ∀ k ∈ strandsOfTask t, (strandAt u k).wait = .exited) ∧
    ((∀ k ∈ active s, 1 ≤ (privOf s k).toNat) →
      ∃ u, exec .replay s = .next u ∧ u.rf = s.rf ∧ SameMemory s u ∧
        (∀ q c, AMap.get? s.queues q = some c → ∀ y ∈ (queueAt u q).copies, y.ctx = t.ctx → y.stopped.isSome = true →
          y.retry = true) ∧
        (replayCores s t.ctx = [] → ∀ k ∈ active s, ∀ x, AMap.get? s.strands k = some x →
          (strandAt u k).pc = s.issue.pc + 4))

/-- R255: ERET at or above level L lowers the privilege of the strands of S to L and continues them at g[A], when that is an
aligned 52-bit address; below level L it raises PRIV with g[A], at a misaligned address ALIGN, and beyond the context's space
PROT. -/
def Obligations.EretReturns : Prop :=
  ∀ (s : State) (a : GReg) (l : BitVec 2),
    let v := getG s (gk s) a
    ((∀ k ∈ active s, l.toNat ≤ (privOf s k).toNat) → v.toNat % 4 = 0 → v.toNat < 2 ^ 52 →
      ∃ t, exec (.eret a l) s = .next t ∧ t = { s with strands := t.strands } ∧
        StrandsAfter s t (fun _ x => { x with priv := l, pc := v.setWidth 52, wait := .run })) ∧
    (∀ k before after, active s = before ++ k :: after → (privOf s k).toNat < l.toNat →
      (∀ j ∈ before, l.toNat ≤ (privOf s j).toNat) → exec (.eret a l) s = .next (raiseTrap s 0x02 v k)) ∧
    ((∀ k ∈ active s, l.toNat ≤ (privOf s k).toNat) →
      (v.toNat % 4 ≠ 0 → exec (.eret a l) s = .next (raiseFirst s 0x03 v)) ∧
      (v.toNat % 4 = 0 → 2 ^ 52 ≤ v.toNat → exec (.eret a l) s = .next (raiseFirst s 0x05 v)))

/-- R40, R41, R254, R257 and R258: BKPT takes its trap with Z as the value, and TRAP with g[A], at the PC of the instruction
and for the lowest-numbered strand of S. The task's slot is free and its groups are gone. From a task that is neither a
supervisor task nor the service processor's, one TRAP message is then on the mesh for the supervisor of its context, behind
the reports of its deferred faults where it has any, with the cause, the value, the PC, the strand, the MSGID and the TASKID in
its record, and memory is as it was. From one of those, the record is among the error records instead.
What the spec leaves open here is the model's choice: log 21, log 34, log 36. -/
def Obligations.TrapsAreTaken : Prop :=
  ∀ (s : State) (z : BitVec 4) (a : GReg) (tk : Nat) (t : Task), issuer? s = some (tk, t) →
    ∀ (i : Instr) (cause : BitVec 8) (value : DWord),
      (i = .bkpt z ∧ cause = 0x0D ∧ value = z.setWidth 64) ∨ (i = .trap a ∧ cause = 0x0E ∧ value = getG s (gk s) a) →
      let r : TrapRec := ⟨false, cause, s.issue.pc, value, strandIx s (firstActive s), t.msgId, t.taskId⟩
      let special := t.supv = true ∨ ∃ q w0 w1 n, t.work = .service q w0 w1 n
      ∃ u, exec i s = .next u ∧ AMap.get? u.tasks tk = none ∧ (∀ g ∈ t.groups, AMap.get? u.groups g = none) ∧
        (¬special → u.mem = s.mem ∧ ∃ reports msg, u.mesh = s.mesh ++ reports ++ [msg] ∧
          ((∀ k ∈ strandsOfTask t, (strandAt s k).deferred = []) → reports = []) ∧
          msg.supv = true ∧ msg.ctx = t.ctx ∧ kindOf msg.id = kTrap ∧ msg.trap = some r ∧
          msg.a0 = value ∧ msg.a1 = s.issue.pc.setWidth 64 ∧ msg.serial = s.serial) ∧
        (special → ErrRecord.trap t.ctx r ∈ u.mgmt.errOut)

/-- R41: the message that started a task which traps goes back to the head of the mailbox it was taken from, and waits there
for the supervisor task of the TRAP message. -/
def Sys2Proof.Parts.TrapReturnsWork : Prop :=
  ∀ (s : State) (tk : Nat) (t : Task) (m : Message) (cause : BitVec 8) (value : DWord) (k : Nat),
    issuer? s = some (tk, t) → t.supv = false → t.work = .message m → (∀ k ∈ strandsOfTask t, (strandAt s k).deferred = []) →
    let u := raiseTrap s cause value k
    AMap.getD (coreAt u t.fromCore).mbox t.ctx.toNat [] =
      ⟨.message m, s.now, some s.serial⟩ :: AMap.getD (coreAt s t.fromCore).mbox t.ctx.toNat []

/-- R258: a supervisor task that traps sends no TRAP message: its record, with its context, is added to the error records,
and its slot is free. -/
def Sys2Proof.Parts.SupervisorTrap : Prop :=
  ∀ (s : State) (tk : Nat) (t : Task) (cause : BitVec 8) (value : DWord) (k : Nat),
    issuer? s = some (tk, t) → t.supv = true → (∀ k ∈ strandsOfTask t, (strandAt s k).deferred = []) →
    let u := raiseTrap s cause value k
    AMap.get? u.tasks tk = none ∧
      ErrRecord.trap t.ctx ⟨false, cause, s.issue.pc, value, strandIx s k, t.msgId, t.taskId⟩ ∈ u.mgmt.errOut

/-! ## Memory -/

/-- R173, R183 and R186: a load of a window puts the bytes of each strand's place into its registers, from D up; no byte of
memory changes. -/
def Sys2Proof.Parts.WindowLoads : Prop :=
  ∀ (s : State) (d : SReg) (g : GReg) (x : SReg) (sp : BitVec 2) (z : BitVec 3) (i : BitVec 4) (tk : Nat) (t : Task)
    (place : Nat → Nat),
    sp ≠ 0 → issuer? s = some (tk, t) →
    (∀ k ∈ active s, checkWindow s s.issue.core t (sp == 2) (ea s k g x (Machine.sizeOf z) i) (Machine.sizeOf z) = .window (place k)) →
    ∃ u, exec (.ld d g x sp z i) s = .next u ∧
      u = { s with rf := { s.rf with s := u.rf.s }, strands := u.strands } ∧
      (∀ k r, getS u k r = if inS s k = true then
        loadedReg d (loadWords z (winBytes s (sp == 2) (place k) (Machine.sizeOf z))) r (getS s k r) else getS s k r) ∧
      ∀ k y, AMap.get? s.strands k = some y → ∃ w, AMap.get? u.strands k = some w ∧
        (if inS s k = true then w.pc = y.pc + 4 ∧ w.wait = .run else w = y)

/-- R173, R183, R262: a load of GLOBAL memory whose pages are present puts into each strand's registers the bytes as its core
sees them: its own unpublished stores, then its copy of the line, then memory. Where the strands load from several lines, the
load of one may drop another from a full set of the core's cache (log 77), and the bytes of that one then come from memory. No
byte of memory changes. -/
def Sys2Proof.Parts.GlobalLoads : Prop :=
  ∀ (s : State) (d : SReg) (g : GReg) (x : SReg) (z : BitVec 3) (i : BitVec 4) (tk : Nat) (t : Task) (place : Nat → Nat),
    let core := s.issue.core
    let addr := fun (k : Nat) => ea s k g x (Machine.sizeOf z) i
    issuer? s = some (tk, t) → s.badLines = [] →
    (findAll s (fun y k => checkGlobal y core t.ctx (addr k) (Machine.sizeOf z) 0 false)).2 =
      (active s).map (fun k => (k, .page (place k))) →
    (∀ k ∈ active s, plainMem (place k) = true ∧ place k % 128 + Machine.sizeOf z ≤ 128 ∧ sideOnLine s k (lineOf (addr k)) = false) →
    ∃ (u : State) (seen : Nat → List Byte), exec (.ld d g x 0 z i) s = .next u ∧ SameMemory s u ∧
      (∀ k ∈ active s, seen k = viewBytes s core (place k) (Machine.sizeOf z) ∨
        (∃ j ∈ active s, place j / 128 ≠ place k / 128) ∧ seen k = freshBytes s core (place k) (Machine.sizeOf z)) ∧
      u.rf = { s.rf with s := u.rf.s } ∧ u.ctxs = s.ctxs ∧ u.tasks = s.tasks ∧ u.mesh = s.mesh ∧
      (∀ k r, getS u k r = if inS s k = true then
        loadedReg d (loadWords z (seen k)) r (getS s k r) else getS s k r) ∧
      ∀ k y, AMap.get? s.strands k = some y → ∃ w, AMap.get? u.strands k = some w ∧
        (if inS s k = true then w.pc = y.pc + 4 ∧ w.wait = .run else w = y)

/-- R184, R185 and R186: a store to a window writes each strand's bytes at its place, in ascending lane order, and no other
byte; registers stay. -/
def Sys2Proof.Parts.WindowStores : Prop :=
  ∀ (s : State) (d : SReg) (g : GReg) (x : SReg) (sp : BitVec 2) (z : BitVec 3) (i : BitVec 4) (tk : Nat) (t : Task)
    (place : Nat → Nat),
    sp ≠ 0 → issuer? s = some (tk, t) →
    (∀ k ∈ active s, checkWindow s s.issue.core t (sp == 2) (ea s k g x (Machine.sizeOf z) i) (Machine.sizeOf z) = .window (place k)) →
    ∃ u, exec (.st d g x sp z i) s = .next u ∧ u.rf = s.rf ∧ u.mem = s.mem ∧ u.opmem = s.opmem ∧
      (∀ a, Mem.byte u.cluwin a = if sp = 2 then
        lastStore (active s) place (fun k => storeBytes s k d z) a (Mem.byte s.cluwin a) else Mem.byte s.cluwin a) ∧
      (∀ a, Mem.byte u.corewin a = if sp = 2 then Mem.byte s.corewin a else
        lastStore (active s) place (fun k => storeBytes s k d z) a (Mem.byte s.corewin a)) ∧
      ∀ k ∈ active s, ∀ y, AMap.get? s.strands k = some y → (strandAt u k).pc = y.pc + 4 ∧ (strandAt u k).wait = .run

/-- R184, R185, R260 and R265: a store to GLOBAL memory whose pages are present enters the core's write buffer, as long as it
has room: memory at the coherence point is unchanged, and the core then sees each strand's bytes at its place, the last
lane's where lanes overlap, and every other byte as before. -/
def Sys2Proof.Parts.GlobalStores : Prop :=
  ∀ (s : State) (d : SReg) (g : GReg) (x : SReg) (z : BitVec 3) (i : BitVec 4) (tk : Nat) (t : Task) (place : Nat → Nat),
    let core := s.issue.core
    let addr := fun (k : Nat) => ea s k g x (Machine.sizeOf z) i
    issuer? s = some (tk, t) →
    (findAll s (fun y k => checkGlobal y core t.ctx (addr k) (Machine.sizeOf z) 1 true)).2 =
      (active s).map (fun k => (k, .page (place k))) →
    (∀ k ∈ active s, plainMem (place k) = true ∧ behind? s k (lineOf (addr k)) = none) →
    (bufLines (coreAt s core).wbuf).length + 32 ≤ 1024 →
    ∃ u, exec (.st d g x 0 z i) s = .next u ∧ SameMemory s u ∧ u.rf = s.rf ∧ u.fab = s.fab ∧
      (∀ a, bufByte? (coreAt u core).wbuf a =
        (active s).foldl (fun r k => if place k ≤ a ∧ a < place k + (storeBytes s k d z).length then
          (storeBytes s k d z)[a - place k]? else r) (bufByte? (coreAt s core).wbuf a)) ∧
      ∀ k ∈ active s, ∀ y, AMap.get? s.strands k = some y → (strandAt u k).pc = y.pc + 4 ∧ (strandAt u k).wait = .run

/-- R34 and R254: NOP, YIELD, IFLUSH, HALT and REPLAY. -/
def Obligations.SystemWords : Prop :=
  Sys2Proof.Parts.NopYieldIflush ∧ Sys2Proof.Parts.HaltAndReplay

/-- R41 and R258: a trap returns its task's work, and one of a supervisor task is recorded as an error.
What the spec leaves open here is the model's choice: log 34, log 36. -/
def Obligations.TrapsOfServices : Prop :=
  Sys2Proof.Parts.TrapReturnsWork ∧ Sys2Proof.Parts.SupervisorTrap

/-- R173, R183, R186 and R262: LD from a window and from GLOBAL memory.
What the spec leaves open here is the model's choice: log 71, log 77. -/
def Obligations.Loads : Prop :=
  Sys2Proof.Parts.WindowLoads ∧ Sys2Proof.Parts.GlobalLoads

/-- R184 to R186, R260 and R265: ST to a window and to GLOBAL memory.
What the spec leaves open here is the model's choice: log 12. -/
def Obligations.Stores : Prop :=
  Sys2Proof.Parts.WindowStores ∧ Sys2Proof.Parts.GlobalStores

/-! ## Locks, tags, atomics and remote operations -/

/-- R187 to R190, for an issue of one strand whose place in the window is found: LLK on a free lock bit takes it and loads,
on a bit that another strand holds it waits at the end of the bit's queue, or outside it while 32 strands wait at the bank,
and with two bits held it raises LOCKLIM; SUL by the holder stores and frees the bit when nobody waits for it, or else passes it to
the next strand of the bit's queue, which loads what then stands at its place and goes on; and SUL without the bit raises LOCKLIM
with bit 63 set.
What the spec leaves open here is the model's choice: log 94. -/
def Obligations.WindowLocks : Prop :=
  ∀ (s : State) (d : SReg) (g : GReg) (x : SReg) (sp : BitVec 2) (z : BitVec 3) (i : BitVec 4) (tk : Nat) (t : Task)
    (k place : Nat) (y : Strand),
    let a := ea s k g x (Machine.sizeOf z) i
    let bit := lockBit s.issue.core (sp == 2) a place
    let bytes := winBytes s (sp == 2) place (Machine.sizeOf z)
    let stores := fun (u : State) => u.mem = s.mem ∧
      (∀ b, Mem.byte (if sp = 2 then u.cluwin else u.corewin) b =
        lastStore [k] (fun _ => place) (fun _ => storeBytes s k d z) b
          (Mem.byte (if sp = 2 then s.cluwin else s.corewin) b)) ∧
      (if sp = 2 then u.corewin = s.corewin else u.cluwin = s.cluwin) ∧
      (∀ b, b ≠ bit → AMap.get? u.locks b = AMap.get? s.locks b) ∧
      (strandAt u k).locks.contains bit = false ∧ (strandAt u k).pc = y.pc + 4 ∧ (strandAt u k).wait = .run
    issuer? s = some (tk, t) → t.saving = false → active s = [k] → AMap.get? s.strands k = some y →
    checkWindow s s.issue.core t (sp == 2) a (Machine.sizeOf z) = .window place →
    (AMap.get? s.locks bit = none → y.locks.contains bit = false → y.locks.length < 2 →
      ∃ u, exec (.llk d g x sp z i) s = .next u ∧ SameMemory s u ∧ AMap.get? u.locks bit = some ⟨k, []⟩ ∧
        (∀ b, b ≠ bit → AMap.get? u.locks b = AMap.get? s.locks b) ∧
        (∀ r, getS u k r = loadedReg d (loadWords z bytes) r (getS s k r)) ∧
        (∀ k' r, k' ≠ k → getS u k' r = getS s k' r) ∧
        (strandAt u k).locks = y.locks ++ [bit] ∧ (strandAt u k).pc = y.pc + 4 ∧ (strandAt u k).wait = .run) ∧
    (∀ h q, AMap.get? s.locks bit = some ⟨h, q⟩ → y.locks.contains bit = false → y.locks.length < 2 →
      ∃ u, exec (.llk d g x sp z i) s = .next u ∧ u.rf = s.rf ∧ SameMemory s u ∧
        (bankQueue s (bit / 64) < 32 → AMap.get? u.locks bit = some ⟨h, q ++ [k]⟩ ∧ u.cores = s.cores) ∧
        (32 ≤ bankQueue s (bit / 64) → u.locks = s.locks ∧
          (coreAt u (bit / 64)).lockLate = (coreAt s (bit / 64)).lockLate ++ [k]) ∧
        (strandAt u k).pc = y.pc ∧ (strandAt u k).wait = .lock bit (sp == 2) place d z) ∧
    (y.locks.contains bit = false → 2 ≤ y.locks.length → exec (.llk d g x sp z i) s = .next (raiseTrap s 0x08 a k)) ∧
    (AMap.get? s.locks bit = some ⟨k, []⟩ → y.locks.contains bit = true →
      ∃ u, exec (.sul d g x sp z i) s = .next u ∧ u.rf = s.rf ∧ stores u ∧ AMap.get? u.locks bit = none) ∧
    (∀ k' q y' b' cl' p' d' z', AMap.get? s.locks bit = some ⟨k, k' :: q⟩ → y.locks.contains bit = true → k' ≠ k →
      AMap.get? s.strands k' = some y' → y'.wait = .lock b' cl' p' d' z' → (coreAt s (bit / 64)).lockLate = [] →
      ∃ u, exec (.sul d g x sp z i) s = .next u ∧ stores u ∧ AMap.get? u.locks bit = some ⟨k', q⟩ ∧
        (∀ r, getS u k' r = loadedReg d' (loadWords z' (winBytes u cl' p' (Machine.sizeOf z'))) r (getS s k' r)) ∧
        (∀ j r, j ≠ k' → getS u j r = getS s j r) ∧
        (strandAt u k').locks = y'.locks ++ [bit] ∧ (strandAt u k').pc = y'.pc + 4 ∧ (strandAt u k').wait = .run) ∧
    (y.locks.contains bit = false →
      exec (.sul d g x sp z i) s = .next (raiseTrap s 0x08 (a ||| 0x8000000000000000) k))

/-- R197 and R198: TLOOK gives the slot whose tag is valid for the key, or all ones when no way of its set holds it; TCLR
invalidates every tag of the task and no other tag; a task without an allocation raises WINDOW. -/
def Sys2Proof.Parts.TagLookup : Prop :=
  ∀ (s : State) (d a : SReg) (tk : Nat) (t : Task),
    let hit := fun (k slot : Nat) => slot / 4 = ((getS s k a).toNat / 128 % 1024) % (t.winUnits * 32) ∧
      Sparse.read s.tags (tk * 4096 + slot) = 1#1 ++ (getS s k a).extractLsb' 7 25
    issuer? s = some (tk, t) →
    (t.winUnits ≠ 0 → t.winUnits ≤ 32 →
      (∃ v, ScalarResult s (exec (.tlook d a) s) d v ∧
        ∀ k, (∃ slot, slot < 4096 ∧ v k = BitVec.ofNat 32 slot ∧ hit k slot ∧ ∀ n, n < slot → ¬hit k n) ∨
          (v k = 0xFFFFFFFF ∧ ∀ slot, ¬hit k slot)) ∧
      (∃ u, exec .tclr s = .next u ∧ u = { s with tags := u.tags, strands := u.strands } ∧ StrandsAfter s u (goesOn s) ∧
        (∀ slot, slot < 4096 → Sparse.read u.tags (tk * 4096 + slot) = 0) ∧
        ∀ n, n / 4096 ≠ tk → AMap.rising s.tags = true → Sparse.read u.tags n = Sparse.read s.tags n)) ∧
    (t.winUnits = 0 →
      exec (.tlook d a) s = .next (raiseTrap s 0x04 0 (firstActive s)) ∧
      exec .tclr s = .next (raiseTrap s 0x04 0 (firstActive s)))

/-- R198, for an issue of one strand: TINS makes the key's tag valid in the way that s[B] names and in no other way of its
set, and returns the old tag with its valid bit that stood there, or 0; TDEL invalidates the key's tag and returns its slot, or all
ones when no way holds it. -/
def Sys2Proof.Parts.TagUpdate : Prop :=
  ∀ (s : State) (d a b : SReg) (tk k : Nat) (t : Task),
    let key := getS s k a
    let set := (key.toNat / 128 % 1024) % (t.winUnits * 32)
    let tag : BitVec 26 := 1#1 ++ key.extractLsb' 7 25
    let slot := tk * 4096 + set * 4 + (getS s k b).toNat % 4
    let old := Sparse.read s.tags slot
    issuer? s = some (tk, t) → t.winUnits ≠ 0 → active s = [k] →
    (∃ u, exec (.tins d a b) s = .next u ∧
      u = { s with tags := u.tags, strands := u.strands, rf := { s.rf with s := u.rf.s } } ∧
      Sparse.read u.tags slot = tag ∧
      (∀ w, w < 4 → tk * 4096 + set * 4 + w ≠ slot → Sparse.read u.tags (tk * 4096 + set * 4 + w) ≠ tag) ∧
      (d ≠ 0 → getS u k d = if old.getLsbD 25 then BitVec.ofNat 32 ((old.toNat % 2 ^ 25) * 128 + 1) else 0) ∧
      StrandsAfter s u (goesOn s)) ∧
    (∃ u, exec (.tdel d a) s = .next u ∧
      u = { s with tags := u.tags, strands := u.strands, rf := { s.rf with s := u.rf.s } } ∧
      ((∀ w, w < 4 → Sparse.read s.tags (tk * 4096 + set * 4 + w) ≠ tag) →
        u.tags = s.tags ∧ (d ≠ 0 → getS u k d = 0xFFFFFFFF)) ∧
      (∀ w, w < 4 → Sparse.read s.tags (tk * 4096 + set * 4 + w) = tag →
        (∀ v, v < w → Sparse.read s.tags (tk * 4096 + set * 4 + v) ≠ tag) →
        Sparse.read u.tags (tk * 4096 + set * 4 + w) = 0 ∧
        (d ≠ 0 → getS u k d = BitVec.ofNat 32 (set * 4 + w))) ∧
      StrandsAfter s u (goesOn s))

/-- R191 to R193, for an issue of one strand whose page is present in plain memory, with nothing of the strand pending
and no unpublished store of its core: each atomic puts its new value at its place and, with return, the old value into its registers; no other byte of
memory changes. -/
def Obligations.Atomics : Prop :=
  ∀ (s : State) (d : SReg) (g : GReg) (x : SReg) (f : BitVec 3) (tk k pa : Nat) (t : Task) (y : Strand),
    let core := s.issue.core
    let n := if f.getLsbD 2 then 8 else 4
    let a := getG s (gk s) g + (getS s k x).signExtend 64
    let old := Mem.nat s.mem pa n
    let operand := natOfWords (getRegs s k d (n / 4))
    let swap := natOfWords (getRegs s k (d + BitVec.ofNat 6 (n / 4)) (n / 4))
    let sgn := fun (v : Nat) => if v < 2 ^ (8 * n - 1) then (v : Int) else (v : Int) - 2 ^ (8 * n)
    let performs := fun (i : Instr) (new : Nat) =>
      ∃ u, exec i s = .next u ∧ Mem.nat u.mem pa n = new % 2 ^ (8 * n) ∧
        (∀ b, b < pa ∨ pa + n ≤ b → Mem.byte u.mem b = Mem.byte s.mem b) ∧
        u.corewin = s.corewin ∧ u.cluwin = s.cluwin ∧ u.opmem = s.opmem ∧
        (∀ k' r, getS u k' r = if k' = k ∧ f.getLsbD 0 = false then
          loadedReg d (wordsOf (n / 4) old) r (getS s k r) else getS s k' r) ∧
        (strandAt u k).pc = y.pc + 4 ∧ (strandAt u k).wait = .run
    issuer? s = some (tk, t) → active s = [k] → AMap.get? s.strands k = some y → y.deferred = [] → s.badLines = [] →
    (coreAt s core).wbuf = [] → sidePending s (active s) = false → ropsOut s (active s) = false →
    (checkGlobal s core t.ctx a n 3 true).2 = .page pa → plainMem pa = true → plainMem (pa + n - 1) = true →
    performs (.atomAdd d g x f) (old + operand) ∧
    performs (.atomMin d g x f) (if sgn operand < sgn old then operand else old) ∧
    performs (.atomMax d g x f) (if sgn old < sgn operand then operand else old) ∧
    performs (.atomMinu d g x f) (min old operand) ∧
    performs (.atomMaxu d g x f) (max old operand) ∧
    performs (.atomAnd d g x f) (old &&& operand) ∧
    performs (.atomOr d g x f) (old ||| operand) ∧
    performs (.atomXor d g x f) (old ^^^ operand) ∧
    performs (.atomXchg d g x f) operand ∧
    performs (.atomCas d g x f) (if old = operand then swap else old) ∧
    (n = 4 → performs (.atomFadd d g x f) (fpAdd f32 old operand).1)

/-- R194, R195 and R393, for an issue of one strand with no ROP to this part outstanding and no rop.st to it in the side log, at an
aligned address of this part, be it under the part's own number, whose page is present in plain memory at both checks of the issue: a ROP goes as one message on the REQ network to the
near-memory operation unit that has its line, with its operands and, for a chase, as many hops as its field says. A rop.st goes on
at once; any other ROP waits for the result. No register and no byte of memory changes with the issue. -/
def Sys2Proof.Parts.RopGoesToUnit : Prop :=
  ∀ (s : State) (d : SReg) (g : GReg) (x : SReg) (z : BitVec 2) (w : BitVec 1) (q : BitVec 4) (p : BitVec 5) (h : BitVec 3)
    (tk k pa : Nat) (t : Task) (y : Strand),
    let core := s.issue.core
    let a := getG s (gk s) g + (getS s k x).signExtend 64
    let d4 : SReg := q ++ 0#2
    let d2 : SReg := p ++ 0#1
    let goes := fun (i : Instr) (op flags : Nat) (dst : SReg) (data : List Word) (n right : Nat) (wr : Bool) =>
      let at1 := checkPage s (coreCaches core) t.ctx (ropVa a) right wr
      a.toNat % n = 0 → at1.2 = .page pa →
      (op ≠ 1 → ∃ again, (checkPage at1.1 (coreCaches core) t.ctx (ropVa a) right wr).2 = .page again ∧ plainMem again = true) →
      ∃ u j, exec i s = .next u ∧ u.rf = s.rf ∧ SameMemory s u ∧
        u.mesh = s.mesh ++ [ropMessage (.ropReq j) .req (.core (BitVec.ofNat 8 core)) t.ctx] ∧
        j.source = .strand k core ∧ j.unit = nearUnit j.pa ∧ (vfPart? s t.ctx = none → j.pa = pa) ∧
        j.next = ropVa a ∧ j.left = flags + 1 ∧ j.index = 0 ∧
        j.e.ea = a ∧ j.e.aop.toNat = op ∧ j.e.fl.toNat = flags ∧ j.e.d = dst ∧ j.e.data = data ∧
        j.e.ctx = t.ctx ∧ j.e.uid = t.uid ∧ j.e.strand = strandIx s k ∧
        AMap.get? u.strands k = some (if op = 1 then { y with pc := y.pc + 4, wait := .run } else { y with wait := .rop })
    issuer? s = some (tk, t) → active s = [k] → AMap.get? s.strands k = some y → s.badLines = [] → roomWait? s k = none →
    (groupAt? s (gk s)).bind (·.parked) = none → plainMem pa = true →
    a.toNat < 2 ^ 52 ∨ (a.getLsbD 63 = true ∧ a.getLsbD 52 = false ∧ a.extractLsb' 53 10 = s.fab.self ∧
      connected s s.fab.self = true) →
    sideRops s k none = [] → unitOut s (Entry.ofStrands s [k]) = false →
    (z ≠ 3 → goes (.ropLd d g x z) 0 z.toNat d [] (4 * 2 ^ z.toNat) 0 false) ∧
    (z ≠ 3 → goes (.ropSt d g x z) 1 z.toNat d (getRegs s k d (2 ^ z.toNat)) (4 * 2 ^ z.toNat) 1 true) ∧
    goes (.ropAdd d g x w) 2 w.toNat d (getRegs s k d (2 ^ w.toNat)) (4 * 2 ^ w.toNat) 3 true ∧
    goes (.ropCas2 q g x) 3 0 d4 (getRegs s k d4 4) 8 3 true ∧
    goes (.ropEnq p g x) 4 0 d2 (getRegs s k d2 2) 8 3 true ∧
    goes (.ropChase p g x h) 5 h.toNat d2 [] 8 0 false

/-- R194, R260, R393 and R394: the first operation of a near-memory operation unit, whose page is present in plain memory with its
right, performs at the coherence point and its result leaves on the REPLY network: the load and the add give the old value, the store
and the add write, CAS2 writes where the compared value stands, an enqueue writes the node into the tail and, where an old node
stood there, into that one too, and gives the old tail. A chase gives the word that it finds when that is 0 or its hops are used up,
and otherwise goes on there, at this unit or, on the SYS network, at the unit that has the next line. No other byte of memory and
no register changes. -/
def Sys2Proof.Parts.UnitPerforms : Prop :=
  ∀ (s : State) (n pa : Nat) (j : RopJob) (r : List RopJob),
    let s0 := { s with units := AMap.put s.units n r }
    let u := unitStep s n
    let size := 4 * 2 ^ j.e.fl.toNat
    let data := natOfWords j.e.data
    let old := fun (m : Nat) => Mem.nat s.mem pa m
    let finds := fun (a : DWord) (m right : Nat) (wr : Bool) =>
      (checkPage s0 j.caches j.e.ctx a right wr).2 = .page pa ∧ plainMem pa = true ∧ plainMem (pa + m - 1) = true
    let same := fun (b : Nat) => Mem.byte s.mem b
    let wrote := fun (m v b : Nat) => if pa ≤ b ∧ b < pa + m then BitVec.ofNat 8 (v / 256 ^ (b - pa)) else Mem.byte s.mem b
    let gives := fun (ws : List Word) (m : Nat → Byte) => u.rf = s.rf ∧ (∀ b, Mem.byte u.mem b = m b) ∧
      AMap.getD u.units n [] = r ∧ u.mesh = s.mesh ++ [ropMessage (.ropRes j (.done ws)) .reply (.nearMemory j.unit) j.e.ctx]
    AMap.getD s.units n [] = j :: r → j.unit.toNat = n → s.badLines = [] →
    (j.e.aop = 0 → j.e.fl.toNat < 3 → finds (ropVa j.e.ea) size 0 false → gives (wordsOf (size / 4) (old size)) same) ∧
    (j.e.aop = 1 → j.e.fl.toNat < 3 → finds (ropVa j.e.ea) size 1 true → gives [] (wrote size data)) ∧
    (j.e.aop = 2 → j.e.fl.toNat < 2 → finds (ropVa j.e.ea) size 3 true → gives (wordsOf (size / 4) (old size)) (wrote size (old size + data))) ∧
    (j.e.aop = 3 → finds (ropVa j.e.ea) 8 3 true → gives (wordsOf 2 (old 8))
      (if old 8 = natOfWords (j.e.data.take 2) then wrote 8 (natOfWords (j.e.data.drop 2)) else same)) ∧
    (j.e.aop = 4 → finds (ropVa j.e.ea) 8 3 true → old 8 = 0 → gives (wordsOf 2 0) (wrote 8 data)) ∧
    (∀ p2, j.e.aop = 4 → finds (ropVa j.e.ea) 8 3 true → old 8 ≠ 0 → old 8 % 8 = 0 → plainMem p2 = true → plainMem (p2 + 7) = true →
      (checkPage (checkPage s0 j.caches j.e.ctx (ropVa j.e.ea) 3 true).1 j.caches j.e.ctx (BitVec.ofNat 64 (old 8)) 3 true).2 = .page p2 →
      gives (wordsOf 2 (old 8)) (fun b => if p2 ≤ b ∧ b < p2 + 8 then BitVec.ofNat 8 (data / 256 ^ (b - p2)) else wrote 8 data b)) ∧
    (j.e.aop = 5 → j.next.toNat % 8 = 0 → finds j.next 8 0 false → old 8 = 0 ∨ j.left ≤ 1 → gives (wordsOf 2 (old 8)) same) ∧
    (j.e.aop = 5 → j.next.toNat % 8 = 0 → finds j.next 8 0 false → old 8 ≠ 0 → 1 < j.left →
      let met := wakeLine (checkPage s0 j.caches j.e.ctx j.next 0 false).1 (.global (pa / 128)) .all
      let on := { j with next := BitVec.ofNat 64 (old 8), left := j.left - 1 }
      u.rf = s.rf ∧ (∀ b, Mem.byte u.mem b = same b) ∧
      ((∀ v, (placeOf? met j.caches j.e.ctx (old 8)).map nearUnit = some v → v = j.unit) →
        AMap.getD u.units n [] = on :: r ∧ u.mesh = s.mesh) ∧
      (∀ v, (placeOf? met j.caches j.e.ctx (old 8)).map nearUnit = some v → v ≠ j.unit → AMap.getD u.units n [] = r ∧
        u.mesh = s.mesh ++ [ropMessage (.ropReq { on with unit := v, index := j.e.fl.toNat + 2 - on.left }) .sys
          (.nearMemory j.unit) j.e.ctx]))

/-- R393, R195: an operation that has come to its unit's router stands behind those that its unit holds; the result of a ROP that comes
back to its core enters the registers of its strand, which goes on after the ROP, and no other register and no byte of memory
changes. -/
def Sys2Proof.Parts.RopAnswered : Prop :=
  ∀ (s : State) (n : Nat) (m : Message) (j : RopJob), meshAt? s n = some m → m.peer = none →
    (m.kind = .ropReq j → exec (.messageArrival n) s =
      .next { s with mesh := s.mesh.eraseIdx n, units := AMap.put s.units j.unit.toNat (AMap.getD s.units j.unit.toNat [] ++ [j]) }) ∧
    (∀ ws k core tk t y, m.kind = .ropRes j (.done ws) → j.source = .strand k core → j.e.kind ≠ .ropSt → j.e.sent = false →
      taskByUid? s j.e.uid = some (tk, t) → strandByIx? t j.e.strand = some k → AMap.get? s.strands k = some y → y.wait = .rop →
      ∃ u, exec (.messageArrival n) s = .next u ∧ SameMemory s u ∧ u.mesh = s.mesh.eraseIdx n ∧
        (∀ i r, getS u i r = if i = k then loadedReg j.e.d ws r (getS s k r) else getS s i r) ∧
        ∀ i x, AMap.get? s.strands i = some x → ∃ x', AMap.get? u.strands i = some x' ∧
          (if i = k then x'.pc = y.pc + 4 ∧ x'.wait = .run else x' = x))

/-- R194 to R196, R393 and R394: remote operations whose target is this part.
What the spec leaves open here is the model's choice: log 79, log 93, log 103. -/
def Obligations.RemoteOperationsHere : Prop :=
  Sys2Proof.Parts.RopGoesToUnit ∧ Sys2Proof.Parts.UnitPerforms ∧ Sys2Proof.Parts.RopAnswered

/-- R126 and R275: MONW of one strand on a present page goes on when its last value-returning access was to the line, by its
address or by its place in memory, and a wake event has come since, and its core then drops the line; otherwise it parks the
strand on a monitor of the line, counted in SPINCOUNT. No byte of memory changes. -/
def Obligations.MonitorParks : Prop :=
  ∀ (s : State) (g : GReg) (x : SReg) (i : BitVec 4) (tk k pa : Nat) (t : Task) (y : Strand),
    let core := s.issue.core
    let a := ea s k g x 4 i
    let seen := (y.lastLine = some (pa / 128) ∨ y.lastVa = some (a.toNat / 128)) ∧ y.woken = true
    issuer? s = some (tk, t) → active s = [k] → AMap.get? s.strands k = some y → s.badLines = [] → k / 32 = gk s →
    (checkGlobal s core t.ctx a 4 0 false).2 = .page pa → plainMem pa = true → sideOnLine s k (lineOf a) = false →
    ∃ u, exec (.monw g x i) s = .next u ∧ u.rf = s.rf ∧ SameMemory s u ∧ (strandAt u k).pc = y.pc + 4 ∧
      (seen → (strandAt u k).wait = .run ∧ AMap.get? (coreAt u core).snap (pa / 128) = none ∧
         (AMap.get? u.tasks tk).map (·.spinCount) = some t.spinCount) ∧
      (¬seen →
        (strandAt u k).wait = .monitor (.global (pa / 128)) s.now ∧
        (AMap.get? u.tasks tk).map (·.spinCount) = some (t.spinCount + 1))

/-- R266 and R268: a PHASE waits while a ROP of a strand of S is outstanding, or an atomic or rop.st of one stands in the side log. One with nothing outstanding and no peer written
goes on. A release at CHIP or FABRIC scope empties
the core's write buffer into memory, the last store of each byte standing; an acquire empties the core's copies of lines. -/
def Obligations.PhaseOrdersMemory : Prop :=
  ∀ (s : State) (k z : BitVec 2) (tk : Nat) (t : Task),
    let core := s.issue.core
    let c := coreAt s core
    (issuer? s = some (tk, t) → ropsOut s (active s) = true ∨ sideUnperformed s (active s) = true → WaitsFor s (exec (.phase k z) s) (.ropsQuiet (active s))) ∧
    (issuer? s = some (tk, t) → s.badLines = [] → sidePending s (active s) = false → ropsOut s (active s) = false →
    deferredOf? s = none → c.peersWritten = [] → groupCopies s t.uid (((groupAt? s (gk s)).map (·.index)).getD 0)
      (fun _ c => shDst c.shape == 4) = false →
    (∀ b ∈ c.wbuf, ∀ n, n < b.bytes.length → plainMem (b.pa + n) = true) →
    ∃ u, exec (.phase k z) s = .next u ∧ u.rf = s.rf ∧ u.corewin = s.corewin ∧ u.cluwin = s.cluwin ∧
      (∀ a, Mem.byte u.mem a =
        if k ≠ 2 ∧ z ≠ 0 then (bufByte? c.wbuf a).getD (Mem.byte s.mem a) else Mem.byte s.mem a) ∧
      (coreAt u core).wbuf = (if k ≠ 2 ∧ z ≠ 0 then [] else c.wbuf) ∧
      (k ≠ 1 ∧ z ≠ 0 → (coreAt u core).snap = []) ∧
      ∀ j ∈ active s, ∀ y, AMap.get? s.strands j = some y → (strandAt u j).pc = s.issue.pc + 4)

/-- R427: the barrier instructions, for strands of S that have not exited. Each first waits while a ROP of a strand of S is
outstanding, or an atomic or rop.st of one stands in the side log (R272). An arrival makes the task a member of the barrier and marks
the strands of S in its generation. With these marks the generation is complete when every strand of every member is marked or has
exited: it then advances without a mark, and every strand that waits at the barrier for the earlier generation goes on past its
instruction, those of the task for a task barrier and those on the cluster for a cluster barrier; otherwise the marks that stood stay
and no other strand changes. BAR.ARRIVE goes on; BAR.SYNC goes on where it completes the generation and waits for it otherwise;
BAR.WAIT waits with the strands that are marked in the generation, and the others go on. Z of a cluster barrier counts within the
share of the context; without a share, or with Z outside it, PROT is raised with Z.
What the spec leaves open here is the model's choice: log 10, log 14. -/
def Obligations.Barriers : Prop :=
  ∀ (s : State) (z : BitVec 4) (tk : Nat) (t : Task), issuer? s = some (tk, t) →
    (∀ k ∈ active s, (strandAt s k).wait ≠ .exited) →
    let cluster := s.issue.core / 8
    let mark := fun (k : Nat) => (t.uid, (strandIx s k).toNat)
    let quiet := ropsOut s (active s) = false ∧ sideUnperformed s (active s) = false
    let acts := fun (cl : Bool) (n : BitVec 4) (arrive wait sync : Instr) =>
      let b := barrierAt s cl t n
      let marked := b.arrive t.uid ((active s).map (fun k => (strandIx s k).toNat))
      let full := barrierFull s marked
      let passes := fun (k : Nat) (x : Strand) => full &&
        (match x.wait with | .barrier c m a => c == cl && m == n && a != b.generation + 1 | _ => false) &&
        (if cl = true then k / 1024 / 8 == cluster else (strandsOfTask t).contains k)
      let arrived := fun (u : State) =>
        ∃ b' : Barrier,
          (∀ e, e ∈ b'.members ↔ e ∈ b.members ∨ e = t.uid) ∧
          (full = true → b'.generation = b.generation + 1 ∧ b'.arrived = []) ∧
          (full = false → b'.generation = b.generation ∧ ∀ e, e ∈ b'.arrived ↔ e ∈ b.arrived ∨ ∃ k ∈ active s, e = mark k) ∧
          (if cl = true then u = { s with strands := u.strands, clusters := u.clusters } ∧
              ∀ m, AMap.get? (clusterAt u cluster).bars m = if m = n.toNat then some b' else AMap.get? (clusterAt s cluster).bars m
            else u = { s with strands := u.strands, tasks := u.tasks } ∧
              ∃ bs, AMap.get? u.tasks tk = some { t with bars := bs } ∧
                ∀ m, AMap.get? bs m = if m = n.toNat then some b' else AMap.get? t.bars m)
      let others := fun (u : State) (f : Strand → Strand) => ∀ k x, AMap.get? s.strands k = some x →
        AMap.get? u.strands k = some (if inS s k = true then f x else if passes k x = true then { x with pc := x.pc + 4, wait := .run } else x)
      let goes := fun (x : Strand) => { x with pc := s.issue.pc + 4, wait := .run }
      let waits := fun (x : Strand) => { x with wait := .barrier cl n b.generation }
      (quiet →
        (∃ u, exec arrive s = .next u ∧ arrived u ∧ others u goes) ∧
        (∃ u, exec sync s = .next u ∧ arrived u ∧ others u (if full = true then goes else waits)) ∧
        (∃ u, exec wait s = .next u ∧ u = { s with strands := u.strands } ∧
          StrandsAfter s u (fun k x => if b.arrived.contains (mark k) = true then waits x else { x with pc := x.pc + 4, wait := .run }))) ∧
      (¬quiet → ∀ i, i = arrive ∨ i = wait ∨ i = sync → WaitsFor s (exec i s) (.ropsQuiet (active s)))
    acts false z (.barArrive z) (.barWait z) (.barSync z) ∧
    (∀ first m, barShare? s cluster t.ctx = some (first, m) → z.toNat < m →
      acts true (BitVec.ofNat 4 (first + z.toNat)) (.barArriveCl z) (.barWaitCl z) (.barSyncCl z)) ∧
    ((∀ first m, barShare? s cluster t.ctx = some (first, m) → m ≤ z.toNat) →
      ∀ i, i = .barArriveCl z ∨ i = .barWaitCl z ∨ i = .barSyncCl z →
        exec i s = .next (raiseTrap s 0x05 (z.setWidth 64) (firstActive s)))

/-- R197 and R198: the tag table. -/
def Obligations.TagTable : Prop :=
  Sys2Proof.Parts.TagLookup ∧ Sys2Proof.Parts.TagUpdate

/-! ## Shapes, tokens, copies and tile tasks -/

/-- R210, R211 and R213: TWAIT goes on once its threshold is reached, the error bit is set or nothing is outstanding, and
TREAD once nothing is outstanding, with the count in g[D]; both then empty the core's copies of lines. Until then the
strands of S wait. -/
def Sys2Proof.Parts.TokenWaits : Prop :=
  ∀ (s : State) (d a : GReg) (k : KReg),
    let t := getK s (gk s) k
    let n := (getG s (gk s) a).toNat % 2 ^ 31
    let acquired := fun (u : State) => ∀ c, coreAt u c =
      if c = s.issue.core then { coreAt s c with snap := [] } else coreAt s c
    let reached := n ≤ t.count.toNat % 2 ^ 31 ∨ t.count.getLsbD 31 = true ∨ t.outstanding = 0
    (reached → GoesOn s (exec (.twait a k) s) (fun u =>
      u = { s with cores := u.cores, strands := u.strands } ∧ acquired u)) ∧
    (¬reached → WaitsFor s (exec (.twait a k) s) (.tokAtLeast (gk s * 16 + k.toNat) n)) ∧
    (t.outstanding = 0 → GoesOn s (exec (.tread d k) s) (fun u =>
      u = { s with cores := u.cores, strands := u.strands, rf := { s.rf with g := u.rf.g } } ∧ acquired u ∧
      ∀ q m, getG u q m = if q = gk s ∧ m = d ∧ d ≠ 0 then t.count.setWidth 64 else getG s q m)) ∧
    (t.outstanding ≠ 0 → WaitsFor s (exec (.tread d k) s) (.tokQuiet (gk s * 16 + k.toNat)))

/-- R210 and R212: TSET writes the count and, with bit 31 clear, restarts the queues halted on the token; TADD adds to the
count modulo 2^31 and keeps bit 31. The outstanding count stays. -/
def Sys2Proof.Parts.TokenWrites : Prop :=
  ∀ (s : State) (a : GReg) (k : KReg),
    let t := getK s (gk s) k
    let v := (getG s (gk s) a).toNat
    GoesOn s (exec (.tset a k) s) (fun u =>
      u = { s with rf := { s.rf with k := u.rf.k }, queues := u.queues, strands := u.strands } ∧
      (∀ q m, getK u q m =
        if q = gk s ∧ m = k then { t with count := BitVec.ofNat 32 v } else getK s q m) ∧
      ∀ q, queueAt u q =
        if v / 2 ^ 31 % 2 = 0 ∧ (queueAt s q).halted = some (tokRef s k) then { queueAt s q with halted := none }
        else queueAt s q) ∧
    GoesOn s (exec (.tadd a k) s) (fun u =>
      u = { s with rf := { s.rf with k := u.rf.k }, strands := u.strands } ∧
      ∀ q m, getK u q m =
        if q = gk s ∧ m = k then
          { t with count := BitVec.ofNat 32 (t.count.toNat / 2 ^ 31 * 2 ^ 31 + (t.count.toNat + v) % 2 ^ 31) }
        else getK s q m)

/-- R204: HSET writes one 64-bit word of a shape register and nothing else. -/
def Sys2Proof.Parts.ShapeWord : Prop :=
  ∀ (s : State) (h : Reg3) (a : GReg) (w : BitVec 2),
    GoesOn s (exec (.hset h a w) s) (fun u =>
      u = { s with rf := { s.rf with h := u.rf.h }, strands := u.strands } ∧
      ∀ q m (v : Nat), v < 4 → (getH u q m).extractLsb' (64 * v) 64 =
        if q = gk s ∧ m = h ∧ v = w.toNat then getG s (gk s) a else (getH s q m).extractLsb' (64 * v) 64)

/-- R205 and R214: a CPY that its checks pass goes to the end of its queue, with its own copy of the shape, and makes one
more operation outstanding on its token; one that they fail traps with the check's cause and value, ILLEGAL with the word
for an invalid shape. QFENCE goes on when the group has no copy in a queue of its mask that was queued up to the first issue
of the QFENCE, and waits otherwise. -/
def Sys2Proof.Parts.CopyIssue : Prop :=
  ∀ (s : State) (h : Reg3) (a b : GReg) (k : KReg) (tk : Nat) (t : Task),
    let sh := getH s (gk s) h
    let src := getG s (gk s) a
    let dst := getG s (gk s) b
    let cl := clusterOfCore s.issue.core
    let ix := ((groupAt? s (gk s)).map (·.index)).getD 0
    let m := getG s (gk s) a
    let inMask := fun (q : Nat) => ∃ n, n < 12 ∧ m.getLsbD n = true ∧ q = cl * 12 + n
    let busy := ∃ e ∈ s.queues, inMask e.1 ∧ ∃ c ∈ e.2.copies, c.tok.uid = t.uid ∧ c.tok.group = ix ∧
      c.since ≤ fenceTime s
    issuer? s = some (tk, t) →
    (copyFault s t sh src dst = none →
      GoesOn s (exec (.cpy h a b k) s) (fun u =>
        u = { s with rf := { s.rf with k := u.rf.k }, queues := u.queues, strands := u.strands } ∧
        (∀ q m, getK u q m = if q = gk s ∧ m = k then
          { getK s q m with outstanding := (getK s q m).outstanding + 1 } else getK s q m) ∧
        (∀ q, (queueAt u q).halted = (queueAt s q).halted) ∧
        ∀ q, if q = cl * 12 + shQueue sh then
          ∃ c, (queueAt u q).copies = (queueAt s q).copies ++ [c] ∧ c.shape = sh ∧ c.src = src ∧ c.dst = dst ∧
            c.tok = tokRef s k ∧ c.ctx = t.ctx ∧ c.run = 0 ∧ c.done = false ∧ c.since = s.now
          else (queueAt u q).copies = (queueAt s q).copies)) ∧
    (∀ c v, copyFault s t sh src dst = some (c, v) → exec (.cpy h a b k) s = .next (raiseFirst s c v)) ∧
    (invalidShape (featureOn s 2) sh = true →
      exec (.cpy h a b k) s = .next (raiseFirst s 0x01 (s.issue.word.setWidth 64))) ∧
    (¬busy → GoesOn s (exec (.qfence a) s) (fun u => u = { s with strands := u.strands })) ∧
    (busy → ∃ c, WaitsFor s (exec (.qfence a) s) c)

/-- R216 and R217, with memories in their canonical form: MCLAIM claims and zeroes the lowest free slot of the share and
returns its number, or 0xFFFF with none free; MRELEASE frees a slot of the context that no queued work names, waits while
work names it, and raises SLOTFAULT for a slot that the context has not claimed. Without a share both raise PROT. -/
def Sys2Proof.Parts.OperandSlots : Prop :=
  ∀ (s : State) (d a : GReg) (tk : Nat) (t : Task),
    let cl := clusterOfCore s.issue.core
    let v := getG s (gk s) a
    let claim := fun (x : State) (i : Nat) => AMap.get? (clusterAt x cl).claims i
    let onlyClaims := fun (u : State) => ∀ c, clusterAt u c =
      if c = cl then { clusterAt s c with claims := (clusterAt u c).claims } else clusterAt s c
    issuer? s = some (tk, t) → MemoriesCanonical s →
    (clusterShare? s cl t.ctx = none →
      exec (.mclaim d) s = .next (raiseFirst s 0x05 0) ∧ exec (.mrelease a) s = .next (raiseFirst s 0x05 v)) ∧
    ∀ first n, slotShare? s cl t.ctx = some (first, n) →
      ((∀ i, i < n → claim s (first + i) ≠ none) → GroupResult s (exec (.mclaim d) s) d 0xFFFF) ∧
      (∀ i, i < n → claim s (first + i) = none → (∀ j, j < i → claim s (first + j) ≠ none) →
        GoesOn s (exec (.mclaim d) s) (fun u =>
          u = { s with clusters := u.clusters, opmem := u.opmem, badOps := u.badOps, rf := { s.rf with g := u.rf.g },
                       strands := u.strands } ∧ onlyClaims u ∧
          (∀ m, claim u m = if m = first + i then some t.ctx else claim s m) ∧
          (∀ b, Mem.byte u.opmem b =
            if cl * 2 ^ 22 + (first + i) * 8192 ≤ b ∧ b < cl * 2 ^ 22 + (first + i + 1) * 8192 then 0
            else Mem.byte s.opmem b) ∧
          ∀ q m, getG u q m = if q = gk s ∧ m = d ∧ d ≠ 0 then BitVec.ofNat 64 i else getG s q m)) ∧
      (v.toNat < n → claim s (first + v.toNat) = some t.ctx →
        (condHolds s (.slotIdle cl (first + v.toNat)) = true →
          GoesOn s (exec (.mrelease a) s) (fun u =>
            u = { s with clusters := u.clusters, strands := u.strands } ∧ onlyClaims u ∧
            ∀ m, claim u m = if m = first + v.toNat then none else claim s m)) ∧
        (condHolds s (.slotIdle cl (first + v.toNat)) = false →
          WaitsFor s (exec (.mrelease a) s) (.slotIdle cl (first + v.toNat)))) ∧
      ((n ≤ v.toNat ∨ claim s (first + v.toNat) ≠ some t.ctx) → exec (.mrelease a) s = .next (raiseFirst s 0x0C v))

/-- R222: MPOST with a readable, aligned record whose slots and window pass, and a place in the posting buffer, posts a
record that is not refused and makes one more operation outstanding on the token; a refused one makes the token update with
the error bit and posts nothing. A misaligned address raises ALIGN. -/
def Obligations.RecordPosted : Prop :=
  ∀ (s : State) (a b : GReg) (k : KReg) (tk pa : Nat) (t : Task),
    let cl := clusterOfCore s.issue.core
    let addr := getG s (gk s) a
    let dep := getG s (gk s) b
    let r : BitVec 512 := BitVec.ofNat 512 (blockAt s pa 64)
    let posts := fun (x : State) (c : Nat) => AMap.getD x.posts c []
    issuer? s = some (tk, t) → (clusterShare? s cl t.ctx).isSome = true →
    (addr.toNat % 64 ≠ 0 → exec (.mpost a b k) s = .next (raiseFirst s 0x03 addr)) ∧
    (addr.toNat % 64 = 0 → BlockReadable s t addr 64 pa → recordFault s t r = none → (posts s cl).length < 256 →
      GoesOn s (exec (.mpost a b k) s) (fun u =>
        u = { s with rf := { s.rf with k := u.rf.k }, posts := u.posts, cores := u.cores, tlbs := u.tlbs,
                     strands := u.strands } ∧ SameCores s u ∧
        (if refused s cl t.ctx r dep = true then
          u.posts = s.posts ∧ ∀ q m, getK u q m = if q = gk s ∧ m = k then
            { getK s q m with count := BitVec.ofNat 32 (2 ^ 31 + ((getK s q m).count.toNat + 1) % 2 ^ 31) } else getK s q m
        else
          (∀ q m, getK u q m = if q = gk s ∧ m = k then
            { getK s q m with outstanding := (getK s q m).outstanding + 1 } else getK s q m) ∧
          ∃ p : Record, p.words = r ∧ p.ctx = t.ctx ∧ p.tok = tokRef s k ∧
            p.pred = (if dep.getLsbD 12 = true then
              some (((counterShare? s cl t.ctx).map (·.1)).getD 0 + dep.toNat % 4096) else none) ∧
            ∀ c, posts u c = if c = cl then posts s c ++ [p] else posts s c)))

/-- R229: PCSET and PCREAD write and read the counter that g[GA] names in the share; PCWAIT goes on with an acquire when it
reads zero, and waits otherwise. An index outside the share raises PROT with g[GA]. -/
def Sys2Proof.Parts.PredecessorCounters : Prop :=
  ∀ (s : State) (d a b : GReg) (tk first n : Nat) (t : Task),
    let cl := clusterOfCore s.issue.core
    let v := getG s (gk s) a
    let key := cl * 4096 + (first + v.toNat)
    issuer? s = some (tk, t) → counterShare? s cl t.ctx = some (first, n) →
    (n ≤ v.toNat → ∀ i, i = .pcset a b ∨ i = .pcread d a ∨ i = .pcwait a → exec i s = .next (raiseFirst s 0x05 v)) ∧
    (v.toNat < n →
      GoesOn s (exec (.pcset a b) s) (fun u =>
        u = { s with pcs := u.pcs, strands := u.strands } ∧
        ∀ j, Sparse.read u.pcs j = if j = key then (getG s (gk s) b).setWidth 32 else Sparse.read s.pcs j) ∧
      GroupResult s (exec (.pcread d a) s) d ((Sparse.read s.pcs key).setWidth 64) ∧
      (Sparse.read s.pcs key = 0 → GoesOn s (exec (.pcwait a) s) (fun u =>
        u = { s with cores := u.cores, strands := u.strands } ∧
        ∀ c, coreAt u c = if c = s.issue.core then { coreAt s c with snap := [] } else coreAt s c)) ∧
      (Sparse.read s.pcs key ≠ 0 → WaitsFor s (exec (.pcwait a) s) (.counterZero cl (first + v.toNat))))

/-- R210 to R213: the instructions on completion tokens. -/
def Obligations.Tokens : Prop :=
  Sys2Proof.Parts.TokenWaits ∧ Sys2Proof.Parts.TokenWrites

/-- R204, R205 and R214: shape words, the issue of copies, and QFENCE. -/
def Obligations.ShapesAndCopies : Prop :=
  Sys2Proof.Parts.ShapeWord ∧ Sys2Proof.Parts.CopyIssue

/-- R216, R217 and R229: the operand slots of a cluster, and its predecessor counters. -/
def Obligations.SlotsAndCounters : Prop :=
  Sys2Proof.Parts.OperandSlots ∧ Sys2Proof.Parts.PredecessorCounters

/-! ## Messages -/

/-- R231 to R233, R325 and R434, on one of the 256 cores: a SEND whose destination word passes the checks puts its message at the end of the send
queue of its network, with the next identifier of the core, or waits while the queue is full; SEND.C holds the message in the
task, up to 16; SEND.NB goes on either way and tells in p[D] that the queue was full. A destination word with a reserved
form raises ILLEGAL, and one that needs SUPER raises PRIV when a strand of S is below it, for the lowest-numbered strand of S.
What the spec leaves open here is the model's choice: log 39. -/
def Obligations.Sends : Prop :=
  ∀ (s : State) (p : Reg3) (a : GReg) (b w : BitVec 4) (tk : Nat) (t : Task),
    let core := s.issue.core
    let c := coreAt s core
    let dw := getG s (gk s) a
    let arg := fun (n : Nat) => getG s (gk s) ((b ++ 0#1) + BitVec.ofNat 5 n)
    let net : VNet := if dw.extractLsb' 14 2 = 0 then .req else if dw.extractLsb' 14 2 = 1 then .bulk else .sys
    let m : Message :=
      { kind := .task, dw := dw, peer := if dw.getLsbD 63 = true then some (dw.extractLsb' 53 10) else none,
        core := dw.extractLsb' 16 8, ctx := dw.extractLsb' 32 12, slot := dw.extractLsb' 0 6, supv := false, vnet := net,
        origin := ⟨none, BitVec.ofNat 8 core, t.ctx, none⟩, id := 0#4 ++ BitVec.ofNat 8 core ++ 0#1 ++ c.idCount,
        a0 := arg 0, a1 := arg 1, payload := (List.range w.toNat).map (fun n => arg (n + 2)), trap := none, serial := 0,
        agent := .core (BitVec.ofNat 8 core), seat := none, landed := false, forEntry := none, ack := none }
    let counted : Core := { c with idCount := c.idCount + 1 }
    let queued : Core :=
      match net with
      | .req => { counted with sendReq := c.sendReq ++ [m] }
      | .bulk => { counted with sendBulk := c.sendBulk ++ [m] }
      | .sys => { counted with sendSys := c.sendSys ++ [m] }
      | .reply => counted
    let room := (sendQ c net).length < c.sqLim
    let forms := fun (i : Instr) => i = .send a b w ∨ i = .sendC a b w ∨ i = .sendNb p a b w
    issuer? s = some (tk, t) → core < 256 →
    (badDest dw w.toNat = true → ∀ i, forms i → exec i s = .next (raiseFirst s 0x01 dw)) ∧
    (badDest dw w.toNat = false → privDest t.ctx dw = true → (∃ k ∈ active s, privOf s k = 0) →
      ∀ i, forms i → exec i s = .next (raiseTrap s 0x02 dw (firstActive s))) ∧
    (badDest dw w.toNat = false → (privDest t.ctx dw = true → Privileged s 1) →
      (dw.getLsbD 63 = true → connected s (dw.extractLsb' 53 10) = true) →
      (dw.getLsbD 52 = true → badPc (arg 2) = false) →
      (room → GoesOn s (exec (.send a b w) s) (fun u =>
        u = { s with cores := u.cores, strands := u.strands } ∧ OnlyCore s u queued)) ∧
      (¬room → WaitsFor s (exec (.send a b w) s) (.sendRoom core net dw)) ∧
      (16 ≤ t.held.length - (if t.refused = true then 1 else 0) →
        exec (.sendC a b w) s = .next (raiseFirst s 0x07 16)) ∧
      (t.held.length - (if t.refused = true then 1 else 0) < 16 →
        GoesOn s (exec (.sendC a b w) s) (fun u =>
          u = { s with cores := u.cores, tasks := u.tasks, strands := u.strands } ∧ OnlyCore s u counted ∧
          ∀ j, AMap.get? u.tasks j = if j = tk then some { t with held := t.held ++ [m] } else AMap.get? s.tasks j)) ∧
      GoesOn s (exec (.sendNb p a b w) s) (fun u =>
        u = { s with cores := u.cores, rf := { s.rf with p := u.rf.p }, strands := u.strands } ∧
        ((room ∧ OnlyCore s u queued) ∨ (¬room ∧ OnlyCore s u counted)) ∧
        ∀ k n, getP u k n = if inS s k = true ∧ n = p ∧ p ≠ 7 then decide ¬room else getP s k n))

/-- R237 and R238, on one of the 256 cores: REPLY answers the request that started the task, at its origin and its reply slot, with its identifier
made a REPLY's, and waits for room; REFUSE holds the refusal of the request once, and after a TRAP marks the trapped task's
work for discard. A task without a request gets PROT with value 0 from both. -/
def Sys2Proof.Parts.RepliesAndRefusals : Prop :=
  ∀ (s : State) (b w : BitVec 4) (tk : Nat) (t : Task),
    let core := s.issue.core
    let c := coreAt s core
    let arg := fun (n : Nat) => getG s (gk s) ((b ++ 0#1) + BitVec.ofNat 5 n)
    let room := c.sendReply.length < c.sqLim
    let request := fun (m : Message) => t.work = .message m ∧ m.id.toNat / 2 ^ 28 = 0
    let onlyTask := fun (u : State) (x : Task) => u = { s with tasks := u.tasks, strands := u.strands } ∧
      ∀ j, AMap.get? u.tasks j = if j = tk then some x else AMap.get? s.tasks j
    issuer? s = some (tk, t) → core < 256 →
    ((∀ m, ¬request m) → exec (.reply b w) s = .next (raiseFirst s 0x05 0) ∧
      ((∀ m, t.work = .message m → m.id.toNat / 2 ^ 28 ≠ 5) → exec .refuse s = .next (raiseFirst s 0x05 0))) ∧
    (∀ m, request m →
      (room → GoesOn s (exec (.reply b w) s) (fun u =>
        u = { s with cores := u.cores, strands := u.strands } ∧
        ∃ r : Message, OnlyCore s u { c with sendReply := c.sendReply ++ [r] } ∧
          r.peer = m.origin.peer ∧ r.core = m.origin.core ∧ r.ctx = m.origin.ctx ∧ r.slot = m.dw.extractLsb' 8 6 ∧
          r.vnet = .reply ∧ r.id.toNat = 2 ^ 28 + m.id.toNat % 2 ^ 28 ∧ r.a0 = arg 0 ∧ r.a1 = arg 1 ∧
          r.payload = (List.range w.toNat).map (fun n => arg (n + 2)))) ∧
      (¬room → WaitsFor s (exec (.reply b w) s) (.sendRoom core .reply m.dw)) ∧
      GoesOn s (exec .refuse s) (fun u =>
        ∃ r : Message, onlyTask u (if t.refused = true then t else { t with refused := true, held := t.held ++ [r] }) ∧
          r.peer = m.origin.peer ∧ r.core = m.origin.core ∧ r.ctx = m.origin.ctx ∧ r.slot = m.dw.extractLsb' 8 6 ∧
          r.vnet = .reply ∧ r.id.toNat = 4 * 2 ^ 28 + m.id.toNat % 2 ^ 28 ∧ r.a0 = m.a0 ∧ r.a1 = m.a1 ∧
          r.payload = m.payload)) ∧
    (∀ m, t.work = .message m → m.id.toNat / 2 ^ 28 = 5 → t.supv = true →
      GoesOn s (exec .refuse s) (fun u => onlyTask u { t with discardWork := true }))

/-- R239: MQSTAT gives the starting message's payload words, their count and its destination word, the counts of the
mailbox, the overflow mailbox and the held messages, and the occupancies of the send queues; another selector raises PROT
with it. -/
def Sys2Proof.Parts.QueueStatus : Prop :=
  ∀ (s : State) (d a : GReg) (tk : Nat) (t : Task),
    let c := coreAt s s.issue.core
    let sel := (getG s (gk s) a).toNat
    let gives := fun (v : Nat) => GroupResult s (exec (.mqstat d a) s) d (BitVec.ofNat 64 v)
    let payload : List DWord := match t.work with | .message m => m.payload | _ => []
    issuer? s = some (tk, t) →
    (sel < 0x0C → gives ((payload[sel]?).getD 0).toNat) ∧
    (sel = 0x0C → gives payload.length) ∧
    (∀ m, t.work = .message m → sel = 0x0D → gives m.dw.toNat) ∧
    (sel = 0x10 → gives (AMap.getD c.mbox t.ctx.toNat []).length) ∧
    (sel = 0x11 → gives (((ctxAt? s t.ctx).map (fun x => x.ovf.length)).getD 0)) ∧
    (sel = 0x12 → gives (heldCount s s.issue.core t.ctx (List.range 64))) ∧
    (sel = 0x14 → gives c.sendReq.length) ∧ (sel = 0x15 → gives c.sendReply.length) ∧
    (sel = 0x16 → gives c.sendSys.length) ∧ (sel = 0x17 → gives c.sendBulk.length) ∧
    ((0x17 < sel ∨ sel = 0x0E ∨ sel = 0x0F ∨ sel = 0x13) →
      exec (.mqstat d a) s = .next (raiseFirst s 0x05 (getG s (gk s) a)))

/-- R240 to R242: MBIND binds the slot of a good descriptor of a context of the partition to an entry, and MUNBIND removes a
binding; both write the count of the messages that are held for the slot above their status. The status NOCTX comes first, with
no messages counted, then BADDESC and BADENTRY of MBIND, or NOTBOUND of MUNBIND. A descriptor of another context or of the
supervisor handler raises PRIV, with the descriptor as the value, when a strand of S is below SUPER.
What the spec leaves open here is the model's choice: log 40, log 96, log 97. -/
def Obligations.SlotBindings : Prop :=
  ∀ (s : State) (d a b : GReg) (tk : Nat) (t : Task),
    let desc := getG s (gk s) a
    let entry := getG s (gk s) b
    let ctx : CtxId := desc.extractLsb' 32 12
    let key := if desc.getLsbD 24 = true then 64 else desc.toNat % 64
    let binding : Binding :=
      ⟨entry.setWidth 52, (desc.extractLsb' 8 3).toNat, (desc.extractLsb' 16 6).toNat, desc.extractLsb' 22 2⟩
    let needs := desc.getLsbD 24 = true ∨ ctx ≠ t.ctx
    let answers := fun (u x : State) (st : Nat) => ∀ q n, getG u q n =
      if q = gk s ∧ n = d ∧ d ≠ 0 then BitVec.ofNat 64 (heldEverywhere x ctx key * 2 ^ 32 + st) else getG s q n
    let refuses := fun (i : Instr) (st : Nat) => GoesOn s (exec i s) (fun u =>
      u = { s with rf := { s.rf with g := u.rf.g }, strands := u.strands } ∧ answers u s st)
    issuer? s = some (tk, t) →
    (needs → ¬Privileged s 1 →
      exec (.mbind d a b) s = .next (raiseTrap s 0x02 desc (firstActive s)) ∧
      exec (.munbind d a) s = .next (raiseTrap s 0x02 desc (firstActive s))) ∧
    ((needs → Privileged s 1) →
      (foreign s t.ctx ctx = true → GroupResult s (exec (.mbind d a b) s) d 0x05 ∧
        GroupResult s (exec (.munbind d a) s) d 0x05) ∧
      (foreign s t.ctx ctx = false →
        (badDesc s desc = true → refuses (.mbind d a b) 0x01) ∧
        (badDesc s desc = false → badPc entry = true → refuses (.mbind d a b) 0x02) ∧
        (badDesc s desc = false → badPc entry = false → GoesOn s (exec (.mbind d a b) s) (fun u =>
          u = { s with ctxs := u.ctxs, rf := { s.rf with g := u.rf.g }, strands := u.strands } ∧ answers u s 0x00 ∧
          ∀ x, AMap.get? u.ctxs x = if x = ctx.toNat then
            (AMap.get? s.ctxs x).map (fun y => { y with binds := AMap.put y.binds key binding })
            else AMap.get? s.ctxs x)) ∧
        (bound s ctx key = false → refuses (.munbind d a) 0x04) ∧
        (bound s ctx key = true → GoesOn s (exec (.munbind d a) s) (fun u =>
          u = { s with ctxs := u.ctxs, cores := u.cores, rf := { s.rf with g := u.rf.g }, strands := u.strands } ∧
          answers u u 0x00 ∧ bound u ctx key = false ∧
          ∀ x, x ≠ ctx.toNat → AMap.get? u.ctxs x = AMap.get? s.ctxs x))))

/-- R243 to R245: a LAUNCH of a readable descriptor that is not refused makes one operation outstanding on the token and a
launch of N tasks, and goes on; with N = 0 it has ended at once, where its core has written no peer and has no copy to one out. A refused descriptor makes the token update with the error
bit and starts nothing; a misaligned address raises ALIGN. -/
def Obligations.LaunchStarts : Prop :=
  ∀ (s : State) (a : GReg) (k : KReg) (tk pa : Nat) (t : Task),
    let addr := getG s (gk s) a
    let desc : BitVec 256 := BitVec.ofNat 256 (blockAt s pa 32)
    let n := (desc.extractLsb' 16 16).toNat
    issuer? s = some (tk, t) →
    (addr.toNat % 32 ≠ 0 → exec (.launch a k) s = .next (raiseFirst s 0x03 addr)) ∧
    (addr.toNat % 32 = 0 → BlockReadable s t addr 32 pa →
      (badLaunch s t.ctx desc = true → GoesOn s (exec (.launch a k) s) (fun u =>
        u = { s with rf := { s.rf with k := u.rf.k }, cores := u.cores, tlbs := u.tlbs, strands := u.strands } ∧
        SameCores s u ∧ ∀ q m, getK u q m = if q = gk s ∧ m = k then
          { getK s q m with count := BitVec.ofNat 32 (2 ^ 31 + ((getK s q m).count.toNat + 1) % 2 ^ 31) } else getK s q m)) ∧
      (badLaunch s t.ctx desc = false → 0 < n → (clusterAt s (clusterOfCore s.issue.core)).launchQ.length < 64 →
        GoesOn s (exec (.launch a k) s) (fun u =>
          u = { s with rf := { s.rf with k := u.rf.k }, cores := u.cores, clusters := u.clusters, ctxs := u.ctxs,
                       launches := u.launches, uid := s.uid + 1, tlbs := u.tlbs, strands := u.strands } ∧
          (∀ q m, getK u q m = if q = gk s ∧ m = k then
            { getK s q m with outstanding := (getK s q m).outstanding + 1 } else getK s q m) ∧
          ∃ l : Launch, l.ctx = t.ctx ∧ l.core = s.issue.core ∧ l.tok = tokRef s k ∧ l.left = n ∧
            ∀ i, AMap.get? u.launches i = if i = s.uid then some l else AMap.get? s.launches i)) ∧
      (badLaunch s t.ctx desc = false → n = 0 → (coreAt s s.issue.core).peersWritten = [] →
        peerCopiesOut s s.issue.core s.now = false →
        ∃ u, exec (.launch a k) s = .next u ∧ AMap.get? u.launches s.uid = none ∧
          ∀ j ∈ active s, ∀ x, AMap.get? s.strands j = some x →
            (strandAt u j).pc = s.issue.pc + 4 ∧ (strandAt u j).wait = .run))

/-- R237 to R239: REPLY, refusals, and the status of queues.
What the spec leaves open here is the model's choice: log 16. -/
def Obligations.RepliesAndQueues : Prop :=
  Sys2Proof.Parts.RepliesAndRefusals ∧ Sys2Proof.Parts.QueueStatus

/-! ## The mapping engine and the Privet engine -/

/-- R246 to R248: MAP and GRANT of a readable request. A request that the checks refuse answers its status in g[D] and
changes no node. MAP otherwise adds a node under the source with the request's extent and rights, gives its handle with
status 0, and writes the new leaves, here for pages of 512 KiB; GRANT adds the node as granted, queues the invalidation of
the giver's translations and waits for its reply. While a frame of the source is still being reclaimed both wait with the
request held (R293, log 51). A misaligned address raises ALIGN. -/
def Sys2Proof.Parts.MappingRequests : Prop :=
  ∀ (s : State) (d a b : GReg) (tk pa : Nat) (t : Task),
    let addr := getG s (gk s) a
    let g := getG s (gk s) b
    let target := g.toNat % 4096
    let me := t.ctx.toNat
    let bs := viewBytes s s.issue.core pa 32
    let r := mapReq bs
    let check := fun (grant : Bool) => deriveCheck s.map grant me target (foreign s t.ctx (g.setWidth 12)) (g.extractLsb' 12 52 != 0) r
    let bare := fun (n : Node) => { n with backed := [], unbacked := false }
    let added := fun (u : State) (grant : Bool) (src i : Nat) (place : Place) =>
      (∃ n, nodeAt? u.map i = some n ∧ n.parent = some src ∧ n.space = target ∧ n.va = r.dst ∧ n.pva = r.src ∧
        n.pages = r.pages ∧ n.psize = r.psize ∧ n.rights = r.rights ∧ n.granted = grant ∧ n.cut = false ∧
        n.gen = Sparse.read s.map.gens i) ∧
      ∀ j, j ≠ i →
        let same := if j = src then (nodeAt? s.map j).map (fun n => { n with children := n.children ++ [i] }) else nodeAt? s.map j
        (place = .fresh → nodeAt? u.map j = same) ∧ (nodeAt? u.map j).map bare = same.map bare
    let only := fun (u : State) =>
      u = { s with map := u.map, rf := { s.rf with g := u.rf.g }, cores := u.cores, tlbs := u.tlbs, draws := u.draws,
                   strands := u.strands } ∧ SameCores s u
    issuer? s = some (tk, t) →
    (addr.toNat % 32 ≠ 0 → ∀ i, i = .map d a b ∨ i = .grant d a b → exec i s = .next (raiseFirst s 0x03 addr)) ∧
    (addr.toNat % 32 = 0 → BlockReadable s t addr 32 pa → s.map.stopped = false →
      (∀ st grant i, (grant = false ∧ i = .map d a b) ∨ (grant = true ∧ i = .grant d a b) → check grant = .inl st →
        GoesOn s (exec i s) (fun u => only u ∧ u.map = s.map ∧
          ∀ q m, getG u q m = if q = gk s ∧ m = d ∧ d ≠ 0 then BitVec.ofNat 64 st else getG s q m)) ∧
      (sourceBusy s me r = true → ∀ src place grant i, (grant = false ∧ i = .map d a b) ∨ (grant = true ∧ i = .grant d a b) →
        check grant = .inr (src, place) →
        WaitsReply s (exec i s) s.map.nextRequest (fun u => only u ∧ u.rf = s.rf ∧ ∃ x, u.map = { s.map with
          heldMaps := s.map.heldMaps ++ [x], nextRequest := s.map.nextRequest + 1 } ∧ x.req = r ∧ x.grant = grant ∧
          x.who = .group (gk s) s.map.nextRequest d)) ∧
      (sourceBusy s me r = false → ∀ src place, check false = .inr (src, place) →
        GoesOn s (exec (.map d a b) s) (fun u => only u ∧ ∃ i, added u false src i place ∧
          (∀ q m, getG u q m = if q = gk s ∧ m = d ∧ d ≠ 0 then
            BitVec.ofNat 64 ((i + (Sparse.read s.map.gens i).toNat * 2 ^ 22) * 2 ^ 32) else getG s q m) ∧
          (place = .fresh → r.psize = 0 → ∀ p, p < r.pages → ∃ l, unitLeaf? s.map me (r.src + p * 2 ^ 19) = some l ∧
            AMap.get? u.map.leaf3 (target * 2 ^ 33 + r.dst / 2 ^ 19 + p) =
              some { l with rights := r.rights.setWidth 4, node := i, revoked := false }))) ∧
      (sourceBusy s me r = false → ∀ src place, check true = .inr (src, place) →
        WaitsReply s (exec (.grant d a b) s) s.map.nextRequest (fun u => only u ∧ u.rf = s.rf ∧
          u.map.nextRequest = s.map.nextRequest + 1 ∧ ∃ i v, added u true src i place ∧
            u.map.invals = s.map.invals ++ [v] ∧ v.kind = .grant ∧ v.node = i ∧ v.sent = false ∧
            v.reply = .group (gk s) s.map.nextRequest d ∧
            v.status = BitVec.ofNat 64 ((i + (Sparse.read s.map.gens i).toNat * 2 ^ 22) * 2 ^ 32))))

/-- R249 and R291: UNMAP of a handle that names no live node answers 0x07, of a node that the context does not hold 0x08;
of another it cuts the node at once, ends the migrations of the pages that go with it (R298), queues its invalidation and waits for
the reply. An UNMAP of a node that is cut waits for
the reply of the UNMAP that cut it. MQUERY answers as the node stands. -/
def Sys2Proof.Parts.UnmapAndQuery : Prop :=
  ∀ (s : State) (d a : GReg) (tk : Nat) (t : Task),
    let h := getG s (gk s) a
    let me := t.ctx.toNat
    issuer? s = some (tk, t) → s.map.stopped = false → s.badLines = [] →
    (byHandle? s.map h = none →
      GroupResult s (exec (.unmap d a) s) d 0x07 ∧ GroupResult s (exec (.mquery d a) s) d 0x07) ∧
    ∀ i n, byHandle? s.map h = some (i, n) →
      (owns s.map me i = false → GroupResult s (exec (.mquery d a) s) d 0x08 ∧
        (isCut s.map i = false → GroupResult s (exec (.unmap d a) s) d 0x08)) ∧
      (owns s.map me i = true → GroupResult s (exec (.mquery d a) s) d (BitVec.ofNat 64 (n.rights.toNat * 2 ^ 8 +
        (if isCut s.map i = true then 2 ^ 13 else 0) + (if n.granted = true then 2 ^ 14 else 0) +
        n.space % 4096 * 2 ^ 20 + n.pages % 2 ^ 32 * 2 ^ 32))) ∧
      (owns s.map me i = true → isCut s.map i = false →
        let stamped := { s.map with nodes := AMap.modify s.map.nodes i (fun n => { n with cut := true }) }
        WaitsReply s (exec (.unmap d a) s) s.map.nextRequest (fun u =>
          u = { s with map := u.map, strands := u.strands } ∧ isCut u.map i = true ∧
          u.map.nextRequest = s.map.nextRequest + 1 ∧
          u.map.migrations = s.map.migrations.map (fun g =>
            if ends stamped (withdrawn stamped i) g = true then { g with ended := some i } else g) ∧
          ∃ v, u.map.invals = s.map.invals ++ [v] ∧
            v.kind = .unmap ∧ v.node = i ∧ v.reply = .group (gk s) s.map.nextRequest d ∧
            (s.map.migrations = [] → u.map = { stamped with
              invals := s.map.invals ++ [v], nextRequest := s.map.nextRequest + 1 }))) ∧
      (∀ x, isCut s.map i = true → unmapPending? s.map i = some x →
        WaitsReply s (exec (.unmap d a) s) s.map.nextRequest (fun u =>
          u = { s with map := u.map, strands := u.strands } ∧ u.map = { s.map with
            heldUnmaps := s.map.heldUnmaps ++ [(x, .group (gk s) s.map.nextRequest d)],
            nextRequest := s.map.nextRequest + 1 })) ∧
      (isCut s.map i = true → unmapPending? s.map i = none → GroupResult s (exec (.unmap d a) s) d 0x07)

/-- R250 and R252: CINV with a good capability and a readable block passes its call to the Privet engine and waits for its
reply. SLOTCALL posts the record by setting its STATE to 1 and waits; SLOTCALL.NB posts it and goes on with 0. A record that
is posted already answers 0x20. A capability that names no service raises CAPFAULT.
What the spec leaves open here is the model's choice: log 18, log 45. -/
def Obligations.PrivetCalls : Prop :=
  ∀ (s : State) (d a b : GReg) (tk pa : Nat) (t : Task) (e : DWord),
    let core := s.issue.core
    let ga := getG s (gk s) a
    let gb := getG s (gk s) b
    let n := s.map.nextRequest
    let cap : DWord := BitVec.ofNat 64 (blockAt s pa 8 % 2 ^ 32)
    let state := blockAt s pa 8 / 2 ^ 32
    let posted := fun (u : State) (c : Call) => u.calls = AMap.put s.calls (nextCall s) c ∧
      u.map.nextRequest = n + 1 ∧ c.ctx = t.ctx ∧ c.service = e.extractLsb' 4 4 ∧ c.cap = e ∧ c.request = n ∧ c.d = d
    let waits := fun (u : State) => ∀ k ∈ active s, ∀ x, AMap.get? s.strands k = some x →
      (strandAt u k).wait = .reply n ∧ (strandAt u k).pc = x.pc
    issuer? s = some (tk, t) →
    (s.badLines = [] → capability? s t.ctx ga = none → exec (.cinv d a b) s = .next (raiseFirst s 0x0B ga)) ∧
    (s.badLines = [] → capability? s t.ctx ga = some e → gb.toNat % 64 ≠ 0 → exec (.cinv d a b) s = .next (raiseFirst s 0x03 gb)) ∧
    (capability? s t.ctx ga = some e → gb.toNat % 64 = 0 → BlockReadable s t gb 64 pa →
      ∃ u c, exec (.cinv d a b) s = .next u ∧ u.rf = s.rf ∧ posted u c ∧ waits u ∧ c.slot = false ∧
        c.gkey = some (gk s) ∧ c.block = gb.setWidth 52 ∧ c.args = words64 (viewBytes s core pa 64)) ∧
    (ga.toNat % 128 ≠ 0 → ∀ i, i = .slotcall d a ∨ i = .slotcallNb d a → exec i s = .next (raiseFirst s 0x03 ga)) ∧
    (ga.toNat % 128 = 0 → BlockReadable s t ga 8 pa → ∀ i, i = .slotcall d a ∨ i = .slotcallNb d a →
      (state = 1 → GoesOn s (exec i s) (fun u =>
        u = { s with rf := { s.rf with g := u.rf.g }, cores := u.cores, tlbs := u.tlbs, strands := u.strands } ∧
        SameCores s u ∧ ∀ q m, getG u q m = if q = gk s ∧ m = d ∧ d ≠ 0 then 0x20 else getG s q m)) ∧
      (state ≠ 1 → capability? s t.ctx cap = some e →
        (checkPage (checkPage s (coreCaches core) t.ctx ga rR false).1 (coreCaches core) t.ctx ga rW true).2 = .page pa →
        plainMem (pa + 7) = true →
        ∃ u c, exec i s = .next u ∧ posted u c ∧ c.slot = true ∧ c.block = ga.setWidth 52 ∧ Mem.nat u.mem (pa + 4) 4 = 1 ∧
          (i = .slotcall d a → u.rf = s.rf ∧ waits u ∧ c.gkey = some (gk s)) ∧
          (i = .slotcallNb d a → c.gkey = none ∧
            (∀ q m, getG u q m = if q = gk s ∧ m = d ∧ d ≠ 0 then 0 else getG s q m) ∧
            ∀ k ∈ active s, ∀ x, AMap.get? s.strands k = some x →
              (strandAt u k).pc = s.issue.pc + 4 ∧ (strandAt u k).wait = .run)))

/-- R246 to R249 and R291: MAP, GRANT, UNMAP and MQUERY.
What the spec leaves open here is the model's choice: log 17, log 41, log 42. -/
def Obligations.MappingInstructions : Prop :=
  Sys2Proof.Parts.MappingRequests ∧ Sys2Proof.Parts.UnmapAndQuery

/-! ## Control and status registers -/

/-- R22 to R25, R253 and R342: CSRR of a listed register whose privilege the strands have gives every strand of S the register's
value, which for a register of the Pleach table is zero unless the task is of its owner; a LO half captures its HI half for the strand and the HI half gives what was captured. An address that is no register
raises ILLEGAL, and a strand below the register's privilege PRIV. -/
def Obligations.CsrReads : Prop :=
  ∀ (s : State) (d : SReg) (c : BitVec 12) (tk : Nat) (t : Task),
    let n := c.toNat
    let reads := fun (v : Nat → Nat) => ScalarResult s (exec (.csrr d c) s) d (fun k => BitVec.ofNat 32 (v k))
    let field := fun (f : TrapRec → Nat) => match t.trap with | some r => f r | none => 0
    let ctx := fun (f : Ctx → Nat) => match ctxAt? s t.ctx with | some x => f x | none => 0
    let owned := fun (v : Nat) => reads (fun _ => if s.pl.owner = some t.ctx then v else 0)
    issuer? s = some (tk, t) →
    (csrListed s n = false → exec (.csrr d c) s = .next (raiseFirst s 0x01 (s.issue.word.setWidth 64))) ∧
    (csrListed s n = true → (∃ k ∈ active s, (privOf s k).toNat < n / 1024) →
      ∃ k ∈ active s, (privOf s k).toNat < n / 1024 ∧
        exec (.csrr d c) s = .next (raiseTrap s 0x02 (s.issue.word.setWidth 64) k)) ∧
    (csrListed s n = true → Privileged s (n / 1024) →
      (n = 0x000 → reads (fun k => (strandIx s k).toNat)) ∧
      (n = 0x001 → reads (fun k => (strandIx s k).toNat / 32)) ∧
      (n = 0x002 → reads (fun _ => t.taskId.toNat)) ∧
      (n = 0x003 → reads (fun k => k / 1024)) ∧
      (n = 0x004 → reads (fun k => k / 1024 / 8)) ∧
      (n = 0x005 → reads (fun _ => t.ctx.toNat)) ∧
      (n = 0x006 → reads (fun _ => t.msgId.toNat)) ∧
      (n = 0x007 → reads (fun k => (privOf s k).toNat)) ∧
      (n = 0x008 → reads (fun k => k / 32 % 16)) ∧
      (n = 0x010 → reads (fun k => (strandAt s k).ff.toNat)) ∧
      (n = 0x030 → reads (fun _ => t.spinCount.toNat)) ∧
      (n = 0x400 → reads (fun _ => field (fun r => r.cause.toNat + (if r.deferred = true then 2 ^ 31 else 0)))) ∧
      (n = 0x405 → reads (fun _ => field (fun r => r.strand.toNat))) ∧
      (n = 0x406 → reads (fun _ => field (fun r => r.msg.toNat))) ∧
      (n = 0x407 → reads (fun _ => field (fun r => r.task.toNat))) ∧
      (n = 0x410 → reads (fun _ => ctx (fun x => x.parkLim.toNat))) ∧
      (n = 0x411 → reads (fun _ => ctx (fun x => x.budget.toNat))) ∧
      (n = 0x412 → reads (fun _ => ctx (fun x => x.budgetCfg.toNat))) ∧
      (n = 0x421 → reads (fun k => (coreAt s (k / 1024)).sqLim)) ∧
      (n = 0x800 → reads (fun _ => (if s.determEn = true then 1 else 0) + (if s.determActive = true then 2 else 0))) ∧
      (n = 0x420 → reads (fun k => AMap.getD (coreAt s (k / 1024)).mboxLim t.ctx.toNat 128)) ∧
      (n = 0x430 → reads (fun _ => if residentPart s t.ctx = true then 1 else 0)) ∧
      (n = 0x600 → owned 0) ∧ (n = 0x601 → owned s.pl.len.toNat) ∧ (n = 0x602 → owned s.pl.head.toNat) ∧
      (n = 0x603 → owned s.pl.up.toNat) ∧ (n = 0x604 → owned s.pl.down.toNat) ∧ (n = 0x605 → owned s.pl.status.toNat) ∧
      (n = 0x606 → owned s.pl.errIx.toNat) ∧ (n = 0x607 → owned (2 ^ 31 + t.ctx.toNat)) ∧
      (∀ i, i < 16 → (n = 0x620 + i → owned (s.pl.stash.getD i 0)) ∧
        (n = 0x630 + i → owned (s.pl.credG.getD i 0 * 2 ^ 8 + s.pl.credA.getD i 0)) ∧
        (n = 0x640 + i → owned ((s.pl.arrG.getD i []).length * 2 ^ 8 + (s.pl.arrA.getD i []).length))) ∧
      (n = 0x402 ∨ n = 0x404 ∨ n = 0x021 ∨ n = 0x609 ∨ (0x610 ≤ n ∧ n ≤ 0x61D ∧ n % 2 = 1) →
        reads (fun k => (Sparse.read s.rf.hold (k * 4096 + (n - 1))).toNat)) ∧
      (∀ v, (n = 0x401 ∧ v = field (fun r => r.pc.toNat)) ∨ (n = 0x403 ∧ v = field (fun r => r.value.toNat)) ∨
          (n = 0x020 ∧ v = ctx (fun x => (x.vtBase.toNat + x.vtCycles * 5 / 4) % 2 ^ 64)) ∨
          (n = 0x608 ∧ v = if s.pl.owner = some t.ctx then s.pl.clock.toNat else 0) ∨
          (∃ i, i < 7 ∧ n = 0x610 + 2 * i ∧ v = if s.pl.owner = some t.ctx then (s.pl.bubbles.getD i 0).toNat else 0) →
        GoesOn s (exec (.csrr d c) s) (fun u =>
          u = { s with rf := { s.rf with s := u.rf.s, hold := u.rf.hold }, strands := u.strands } ∧
          (∀ k r, getS u k r = if inS s k = true ∧ r = d ∧ d ≠ 0 then BitVec.ofNat 32 v else getS s k r) ∧
          ∀ k ∈ active s, Sparse.read u.rf.hold (k * 4096 + n) = BitVec.ofNat 32 (v / 2 ^ 32))) ∧
      ∃ u, exec (.csrr d c) s = .next u ∧ StrandsAfter s u (goesOn s))

/-- R22, R24, R26 to R28, R253 and R342: CSRW of a listed register whose privilege the strands have. FFLAGS takes each
strand's own value. For one strand: the context's PARKLIM, BUDGET and BUDGETCFG, the core's MBOXLIM and SQLIM within their
limits, DETERM.EN with its feature, and the Pleach table's LEN, HEAD, UP, DOWN and STATUS for the owner take the value; a
register that is read only keeps its own. -/
def Sys2Proof.Parts.CsrWrites : Prop :=
  ∀ (s : State) (a : SReg) (c : BitVec 12) (tk k : Nat) (t : Task),
    let n := c.toNat
    let v := getS s k a
    let only := fun (f : State → State) => GoesOn s (exec (.csrw a c) s) (fun u =>
      u = { f s with strands := u.strands })
    let inCtx := fun (f : Ctx → Ctx) (x : State) => { x with ctxs := AMap.modify x.ctxs t.ctx.toNat f }
    let inCore := fun (f : Core → Core) (x : State) => modCore x (k / 1024) f
    let inPl := fun (f : Pleach → Pleach) (x : State) => { x with pl := f x.pl }
    issuer? s = some (tk, t) →
    (csrListed s n = false → exec (.csrw a c) s = .next (raiseFirst s 0x01 (s.issue.word.setWidth 64))) ∧
    (csrListed s n = true → Privileged s (n / 1024) →
      (n = 0x010 → ∃ u, exec (.csrw a c) s = .next u ∧ u = { s with strands := u.strands } ∧
        StrandsAfter s u (fun j x => { goesOn s j x with ff := (getS s j a).setWidth 5 })) ∧
      ((n < 0x010 ∨ n = 0x020 ∨ n = 0x021 ∨ n = 0x030 ∨ (0x400 ≤ n ∧ n < 0x408) ∨ n = 0x430) →
        GoesOn s (exec (.csrw a c) s) (fun u => u = { s with strands := u.strands })) ∧
      (active s = [k] →
        (n = 0x410 → only (inCtx (fun x => { x with parkLim := v }))) ∧
        (n = 0x411 → only (inCtx (fun x => { x with budget := v }))) ∧
        (n = 0x412 → only (inCtx (fun x => { x with budgetCfg := BitVec.ofNat 32 (v.toNat % 2) }))) ∧
        (n = 0x420 → 1 ≤ v.toNat → v.toNat ≤ 128 →
          only (inCore (fun x => { x with mboxLim := AMap.put x.mboxLim t.ctx.toNat v.toNat }))) ∧
        (n = 0x420 → v.toNat = 0 ∨ 128 < v.toNat → only (fun x => x)) ∧
        (n = 0x421 → 1 ≤ v.toNat → v.toNat ≤ 32 → only (inCore (fun x => { x with sqLim := v.toNat }))) ∧
        (n = 0x421 → v.toNat = 0 ∨ 32 < v.toNat → only (fun x => x)) ∧
        (n = 0x800 → featureOn s 5 = true → only (fun x => { x with determEn := v.getLsbD 0 })) ∧
        (n = 0x800 → featureOn s 5 = false → only (fun x => x)) ∧
        (0x600 ≤ n → n < 0x700 → s.pl.owner ≠ some t.ctx → only (fun x => x)) ∧
        (s.pl.owner = some t.ctx → s.pl.running = false →
          (n = 0x601 → 1 ≤ v.toNat % 1024 → v.toNat % 1024 ≤ 512 →
            only (inPl (fun p => { p with len := BitVec.ofNat 10 v.toNat }))) ∧
          (n = 0x602 → v.toNat % 512 < s.pl.len.toNat → only (inPl (fun p => { p with head := BitVec.ofNat 9 v.toNat, unboundFor := 0 }))) ∧
          (n = 0x603 → only (inPl (fun p => { p with up := v &&& 0x800003FF }))) ∧
          (n = 0x604 → only (inPl (fun p => { p with down := v &&& 0x800003FF })))) ∧
        (s.pl.owner = some t.ctx → n = 0x605 →
          only (inPl (fun p => { p with status := p.status &&& ~~~(v.setWidth 4) })))))

/-- R253: CSRS and CSRC give the register's old value and set or clear the bits of s[A] in it, here in FFLAGS, each strand
its own; with s[A] zero nothing is written. -/
def Sys2Proof.Parts.CsrBits : Prop :=
  ∀ (s : State) (d a : SReg) (c : BitVec 12) (tk : Nat) (t : Task),
    let old := fun (k : Nat) => (strandAt s k).ff
    issuer? s = some (tk, t) → c = 0x010 →
    FloatResult s (exec (.csrs d a c) s) d (fun k => (old k).setWidth 32) (fun k => (getS s k a).setWidth 5) ∧
    (∃ u, exec (.csrc d a c) s = .next u ∧ u = { s with rf := { s.rf with s := u.rf.s }, strands := u.strands } ∧
      (∀ k r, getS u k r = if inS s k = true ∧ r = d ∧ d ≠ 0 then (old k).setWidth 32 else getS s k r) ∧
      StrandsAfter s u (fun k x => { goesOn s k x with ff := x.ff &&& ~~~((getS s k a).setWidth 5) }))

/-- R22, R24, R26 to R28, R253 and R342: CSRW, CSRS and CSRC. -/
def Obligations.CsrChanges : Prop :=
  Sys2Proof.Parts.CsrWrites ∧ Sys2Proof.Parts.CsrBits

/-! ## The Pleach table's instructions -/

/-- R259 and R340: the instructions of the Pleach table, for strands with SUPER of a task of the table's owner: PLWR writes
an entry that is not issued, or whose task has trapped, with time stamp 0, and waits for any other, PLGO starts the walk unless a flag is set, PLHALT halts it, STASHA and STASHF count a stage's
free stash slots down to 0 and up to 64. An index, stage or count outside its range raises PROT with it, and a task of
another context PROT with 0. With a strand of S below SUPER each raises PRIV with the word, for the lowest-numbered strand of
S. -/
def Sys2Proof.Parts.PleachControl : Prop :=
  ∀ (s : State) (a b : GReg) (q : BitVec 4) (tk : Nat) (t : Task),
    let p := s.pl
    let va := getG s (gk s) a
    let vb := getG s (gk s) b
    let only := fun (i : Instr) (f : Pleach) => GoesOn s (exec i s) (fun u => u = { s with pl := f, strands := u.strands })
    let prot := fun (i : Instr) (v : DWord) => exec i s = .next (raiseFirst s 0x05 v)
    let free := fun (e : Nat) => ∀ x, (AMap.getD p.entries e PlEntry.init).issued = some x → x = .restart ∨ ∃ n, x = .trapped n
    let forms := [Instr.plwr a q, .plgo, .plhalt, .stasha a b, .stashf a b, .slotgive a b]
    issuer? s = some (tk, t) →
    (¬Privileged s 1 → ∀ i ∈ forms, exec i s = .next (raiseFirst s 0x02 (s.issue.word.setWidth 64))) ∧
    (Privileged s 1 → p.owner ≠ some t.ctx → ∀ i ∈ forms, prot i 0) ∧
    (Privileged s 1 → p.owner = some t.ctx →
      (512 ≤ va.toNat → prot (.plwr a q) va) ∧
      (va.toNat < 512 → free va.toNat → ∃ e : PlEntry,
        e.bits = getG s (gk s) ((q ++ 0#1) + 1) ++ getG s (gk s) (q ++ 0#1) ∧ e.issued = none ∧ e.stamp = 0 ∧
        only (.plwr a q) { p with entries := AMap.put p.entries va.toNat e }) ∧
      (va.toNat < 512 → ¬free va.toNat → WaitsFor s (exec (.plwr a q) s) (.entryFree va.toNat)) ∧
      (p.status = 0 → only .plgo { p with running := true }) ∧
      (p.status ≠ 0 → only .plgo p) ∧
      only .plhalt { p with running := false } ∧
      (16 ≤ va.toNat → prot (.stasha a b) va ∧ prot (.stashf a b) va) ∧
      (va.toNat < 16 → 64 < vb.toNat → prot (.stasha a b) vb ∧ prot (.stashf a b) vb) ∧
      (va.toNat < 16 → vb.toNat ≤ 64 →
        only (.stasha a b) { p with stash := p.stash.set va.toNat (p.stash.getD va.toNat 0 - vb.toNat) } ∧
        only (.stashf a b) { p with stash := p.stash.set va.toNat (min 64 (p.stash.getD va.toNat 0 + vb.toNat)) }))

/-- R259, R340 and R346: the owner's PLRD reads an entry into a pair of uniform registers and PLSTAT a selected value; for
another context's task both give zero; a selector that is not listed raises PROT with it. SLOTGIVE with a stage and a count of 1
to 16 sends one message to a neighbour on this part or to a connected peer, and keeps it under PEERERR for a peer that is not; with
another operand it raises PROT. -/
def Sys2Proof.Parts.PleachReads : Prop :=
  ∀ (s : State) (d a b : GReg) (q : BitVec 4) (tk : Nat) (t : Task),
    let p := s.pl
    let va := getG s (gk s) a
    let vb := getG s (gk s) b
    let pair := fun (v : BitVec 128) => GoesOn s (exec (.plrd q a) s) (fun u =>
      u = { s with rf := { s.rf with g := u.rf.g }, strands := u.strands } ∧
      ∀ g n, getG u g n =
        if g = gk s ∧ n = q ++ 0#1 ∧ n ≠ 0 then v.extractLsb' 0 64
        else if g = gk s ∧ n = q ++ 1#1 then v.extractLsb' 64 64 else getG s g n)
    let stat := fun (v : Nat) => GroupResult s (exec (.plstat d a) s) d (BitVec.ofNat 64 v)
    issuer? s = some (tk, t) →
    (p.owner ≠ some t.ctx → pair 0 ∧ stat 0) ∧
    (p.owner = some t.ctx →
      (512 ≤ va.toNat → exec (.plrd q a) s = .next (raiseFirst s 0x05 va)) ∧
      (va.toNat < 512 → pair (AMap.getD p.entries va.toNat PlEntry.init).bits) ∧
      (va.toNat ≤ 6 → stat (p.bubbles.getD va.toNat 0).toNat) ∧
      (va.toNat = 8 → stat (p.head.toNat + (if p.running = true then 2 ^ 16 else 0))) ∧
      (0x10 ≤ va.toNat → va.toNat ≤ 0x1F → stat (p.stash.getD (va.toNat - 0x10) 0)) ∧
      (0x200 ≤ va.toNat → va.toNat ≤ 0x3FF → stat (AMap.getD p.entries (va.toNat - 0x200) PlEntry.init).stamp.toNat) ∧
      (va.toNat = 7 ∨ (9 ≤ va.toNat ∧ va.toNat ≤ 0xF) ∨ (0x20 ≤ va.toNat ∧ va.toNat ≤ 0x1FF) ∨ 0x400 ≤ va.toNat → exec (.plstat d a) s = .next (raiseFirst s 0x05 va)) ∧
      (Privileged s 1 →
        (va &&& ~~~0x30F#64 ≠ 0 → exec (.slotgive a b) s = .next (raiseFirst s 0x05 va)) ∧
        (va &&& ~~~0x30F#64 = 0 → (vb = 0 ∨ 16 < vb.toNat) → exec (.slotgive a b) s = .next (raiseFirst s 0x05 vb)) ∧
        (va &&& ~~~0x30F#64 = 0 → 1 ≤ vb.toNat → vb.toNat ≤ 16 →
          let dest := plPeer? s (if va.getLsbD 9 = true then p.down else p.up)
          let kind : MsgKind := .slotgive (BitVec.ofNat 4 va.toNat) (va.getLsbD 8) (va.getLsbD 9) (BitVec.ofNat 5 vb.toNat)
          ((∀ x, dest = some x → connected s x = true) →
            GoesOn s (exec (.slotgive a b) s) (fun u => u = { s with mesh := u.mesh, plIds := s.plIds + 1, strands := u.strands } ∧
              ∃ m : Message, u.mesh = s.mesh ++ [m] ∧ m.vnet = .sys ∧ m.id = 9#4 ++ 0#8 ++ 1#1 ++ 65#7 ++ s.plIds ∧
                m.peer = dest ∧ m.kind = kind)) ∧
          (∀ x, dest = some x → connected s x = false → GoesOn s (exec (.slotgive a b) s) (fun u => u = { s with
            strands := u.strands
            pl := { p with
              running := false
              status := p.status ||| 1
              errIx := if p.status = 0 then p.head else p.errIx
              stalled := p.stalled ++ [(x, kind, none)] } })))))

/-- R259, R340 and R346: the instructions on the Pleach table.
What the spec leaves open here is the model's choice: log 57. -/
def Obligations.PleachInstructions : Prop :=
  Sys2Proof.Parts.PleachControl ∧ Sys2Proof.Parts.PleachReads

/-! ## Messages and tasks on their way -/

namespace Sys2Proof.Parts

/-- R234, R235, R323 and R373: a message for a task that has left its last router, the first of those that have. For no such context
it is refused as NOCTX to its origin when it is a request and discarded otherwise. It goes to the overflow mailbox of its context
where the context is not resident on its core or older messages for the core stand there, and as a reply that finds its mailbox
full; else to the mailbox, which has 16 places more for TRAP, PAGEREQ and UNBOUND messages. Where there is no place, and behind
an older one that waits for a place, a reply or one of those three waits in the message router, and any other is refused as FULL.
The packet that brought a message from a peer is acknowledged when it is delivered or refused. -/
def Arrival : Prop :=
  ∀ (s : State) (n : Nat) (m : Message),
    let core := m.core.toNat
    let kind := m.id.toNat / 2 ^ 28
    let part := m.supv = true ∧ (kind = 5 ∨ kind = 6 ∨ kind = 7)
    let places := AMap.getD (coreAt s core).mboxLim m.ctx.toNat 128 + (if part then 16 else 0)
    let taken := { s with mesh := s.mesh.eraseIdx n }
    let ends := fun (u : State) => exec (.messageArrival n) s = .next (acked u m)
    let home := fun (k : Nat) => ∃ r : Message, ends { taken with mesh := taken.mesh ++ [r] } ∧
      r.peer = (if m.origin.peer = some s.fab.self then none else m.origin.peer) ∧ r.core = m.origin.core ∧
      r.ctx = m.origin.ctx ∧ r.slot = m.dw.extractLsb' 8 6 ∧ r.vnet = .reply ∧
      r.id.toNat = k * 2 ^ 28 + m.id.toNat % 2 ^ 28 ∧ r.a0 = m.a0 ∧ r.a1 = m.a1 ∧ r.payload = m.payload
    let held := exec (.messageArrival n) s =
      .next { taken with ctxs := AMap.modify s.ctxs m.ctx.toNat (fun c => { c with routerHeld := c.routerHeld ++ [m] }) }
    s.mesh[n]? = some m → m.landed = true → (∀ x ∈ s.mesh.take n, x.landed = false) → m.kind = .task → m.peer = none →
    m.origin.window = none →
    (noSuchCtx s m = true → (kind ≠ 0 → ends taken) ∧ (kind = 0 → home 3)) ∧
    (∀ c, noSuchCtx s m = false → ctxAt? s m.ctx = some c →
      let full := places ≤ (mailbox s core m.ctx).length
      let ring := resident s core m.ctx = false ∨ (∃ x ∈ c.ovf, x.2.core = m.core) ∨ (m.vnet = .reply ∧ full)
      let room := overflowRoom c = true
      (behindHeld s m = true → held) ∧
      (behindHeld s m = false → ring → room → ∃ u, ends u ∧ u.mesh = taken.mesh ∧
        ctxAt? u m.ctx = some { c with ovf := c.ovf ++ [(c.ovfIndex, m)], ovfIndex := c.ovfIndex + 1 } ∧
        ∀ d x, mailbox u d x = mailbox s d x) ∧
      (behindHeld s m = false → ¬ring → ¬full → ∃ u, ends u ∧ u = { taken with cores := u.cores } ∧
        ∀ d x, mailbox u d x = if d = core ∧ x = m.ctx then mailbox s d x ++ [⟨.message m, s.now, none⟩] else mailbox s d x) ∧
      (behindHeld s m = false → (ring ∧ ¬room) ∨ (¬ring ∧ full) →
        (m.vnet = .reply ∨ part → held) ∧ (¬(m.vnet = .reply ∨ part) → home 2)))

/-- R325 and R374: a core's send queues are served in rotation; the first message of the queue whose turn it is enters the local
input of its first router when that has room for all of it, be it for this part or for a peer, and the turn passes on without it
otherwise. A message that names the part's own number is for this part. -/
def Injection : Prop :=
  ∀ (s : State) (core : CoreId) (i : Nat) (v : VNet) (m : Message) (r : List Message),
    let e := (m.local s.fab.self).entered
    (sendOrder (coreAt s core.toNat).sendTurn).find? (fun e => !(sendQ (coreAt s core.toNat) e.2).isEmpty) = some (i, v) →
    sendQ (coreAt s core.toNat) v = m :: r →
    ∃ u, exec (.sendQueueInject core) s = .next u ∧ (coreAt u core.toNat).sendTurn = (i + 1) % 4 ∧
      (hasRoom s.mesh e = true → u = { s with cores := u.cores, mesh := s.mesh ++ [e], strands := u.strands } ∧
        ∀ w, sendQ (coreAt u core.toNat) w = if w = v then r else sendQ (coreAt s core.toNat) w) ∧
      (hasRoom s.mesh e = false → u = { s with cores := u.cores } ∧
        ∀ w, sendQ (coreAt u core.toNat) w = sendQ (coreAt s core.toNat) w)

/-- R122, R322 and R326: a core without forked work takes the next message of its mailbox, whose task gets its slots, its
window run and its start. -/
def Dequeue : Prop :=
  ∀ (s : State) (core : CoreId) (ctx : CtxId) (h : Held) (b : Binding) (p : Fit),
    let c := core.toNat
    let st := startOf ctx h.work b
    admitting? s c = some ctx → nextFork? s c ctx = none → nextMail? s c ctx = some h →
    bindingFor? s ctx h.work = some b → fits? s c (issuingBank s c) (2 ^ b.glog) b.window = some p →
    (∀ f, h.work ≠ .fork f) →
    ∃ u t, exec (.mailboxDequeue core) s = .next u ∧ u.uid = s.uid + 1 ∧ SameMemory s { u with corewin := s.corewin } ∧
      (∀ j, AMap.get? u.tasks j = if j = p.task then some t else AMap.get? s.tasks j) ∧
      t.uid = s.uid ∧ t.ctx = ctx ∧ t.work = h.work ∧ t.groups = p.groups ∧ t.winBase = p.win ∧ t.winUnits = b.window ∧
      t.domain = b.domain ∧ t.supv = st.supv ∧ t.msgId = st.msgId ∧
      mailbox u c ctx = (mailbox s c ctx).erase h ∧
      (∀ gi g, p.groups[gi]? = some g → (AMap.get? u.groups g).map (fun x => (x.task, x.index)) = some (p.task, gi) ∧
        ∀ l, l < 32 → ∃ x, AMap.get? u.strands (g * 32 + l) = some x ∧ x.pc = st.pc ∧ x.priv = st.priv ∧ x.wait = .run) ∧
      (∀ g, p.groups = [g] → (∀ l, l < 32 → getS u (g * 32 + l) 1 = BitVec.ofNat 32 l ∧ getS u (g * 32 + l) 2 = 0) ∧
        ∀ m, h.work = .message m → getG u g 1 = m.a0 ∧ getG u g 2 = m.a1 ∧ getG u g 3 = m.id.setWidth 64)

/-- R119 to R122: a core takes the newest entry of its own deque, and an idle core the oldest that it may steal of the
victim that the placement order gives; the forked task starts with the lanes of its image. -/
def ForkedWork : Prop :=
  ∀ (s : State) (core : CoreId) (ctx : CtxId) (h : Held) (f : ForkImage) (p : Fit),
    let c := core.toNat
    let starts := fun (i : Instr) (from_ : Nat) => ∃ u t, exec i s = .next u ∧ u.uid = s.uid + 1 ∧
      (∀ j, AMap.get? u.tasks j = if j = p.task then some t else AMap.get? s.tasks j) ∧
      t.uid = s.uid ∧ t.ctx = ctx ∧ t.work = .fork f ∧ t.groups = p.groups ∧ t.domain = f.domain ∧
      dequeOf u from_ ctx = (dequeOf s from_ ctx).erase h ∧
      ∀ g ∈ p.groups, ∀ l, l < 32 → ∃ x, AMap.get? u.strands (g * 32 + l) = some x ∧
        (if (f.lanes.any (fun e => e.1 == l)) = true then x.pc = f.pc ∧ x.wait = .run else x.wait = .exited)
    admitting? s c = some ctx → h.work = .fork f → f.ctx = ctx → fits? s c (issuingBank s c) 1 0 = some p →
    (nextFork? s c ctx = some h → starts (.taskAdmission core) c) ∧
    (∀ v pl, nextFork? s c ctx = none → nextMail? s c ctx = none → (clusterShare? s (c / 8) ctx).isSome = true →
      choosePlace s.determActive (weightOf s) false ((coresOf s ctx).filter (fun v => (stealable? s c v ctx).isSome))
        (coreAt s c).stealPlace = some (v, pl) →
      stealable? s c v ctx = some (h, f) → v ≠ c ∧ starts (.workSteal core) v)

/-- R36: a task whose strands have all exited, with nothing outstanding and no message held, ends: its task slot and group
slots are free. -/
def Ending : Prop :=
  ∀ (s : State) (tk : Nat) (t : Task),
    AMap.get? s.tasks tk = some t → (∀ k ∈ strandsOfTask t, (strandAt s k).wait = .exited) → taskBusy s t = false →
    t.held = [] →
    ∃ u, exec (.taskEnd tk) s = .next u ∧ u.tasks = AMap.erase s.tasks tk ∧
      (∀ g ∈ t.groups, AMap.get? u.groups g = none) ∧ ∀ g, g ∉ t.groups → AMap.get? u.groups g = AMap.get? s.groups g

/-- R244: the first waiting task of a launch queue goes to the end of the mailbox of the core that the placement order
gives, when that has room. -/
def Placing : Prop :=
  ∀ (s : State) (cl : ClusterId) (id c : Nat) (i : LaunchItem) (is : List LaunchItem) (cset : Word)
    (rest : List (Nat × List LaunchItem × Word)) (p : Placement) (x : Ctx),
    (clusterAt s cl.toNat).launchQ = (id, i :: is, cset) :: rest → ctxAt? s i.ctx = some x →
    choosePlace s.determActive (weightOf s) true (launchCores s i.ctx cset) x.launchPlace = some (c, p) →
    launchRoom s i.ctx cset = true → mailFull s c i.ctx = false →
    ∃ u, exec (.launchPlacement cl) s = .next u ∧
      u = { s with cores := u.cores, clusters := u.clusters, ctxs := u.ctxs } ∧
      (clusterAt u cl.toNat).launchQ = (if is = [] then rest else (id, is, cset) :: rest) ∧
      ∀ d y, mailbox u d y = if d = c ∧ y = i.ctx then mailbox s d y ++ [⟨.launch i, s.now, none⟩] else mailbox s d y

/-- R233 and R237: a blocking send of a message-started task that has found its queue full for 4,096 cycles raises SENDQ with
its destination word. -/
def SendTimeout : Prop :=
  ∀ (s : State) (g tk c : Nat) (t : Task) (m : Message) (k since : Nat) (v : VNet) (dw : DWord),
    taskOfGroup? s g = some (tk, t) → t.work = .message m → k < 32 →
    (∀ j, j < k → ∀ c v dw n, (strandAt s (g * 32 + j)).wait ≠ .cond (.sendRoom c v dw) n) →
    (strandAt s (g * 32 + k)).wait = .cond (.sendRoom c v dw) since → since + 4096 ≤ s.now →
    (coreAt s c).sqLim ≤ (sendQ (coreAt s c) v).length →
    exec (.sendqTimeout g) s =
      .next (takeTrap s tk 0x07 dw (strandAt s (g * 32 + k)).pc (strandIx s (g * 32 + k)))

/-- R242, R324 and R127: the UNBOUND message for a slot whose messages have been held for more than 2^20 cycles; the refill of
a mailbox from the overflow mailbox; and the wake of a monitor after 65,536 cycles, with which its
core acquires (R269). -/
def Waiting : Prop :=
  (∀ (s : State) (core : CoreId) (ctx : CtxId) (slot : BitVec 6),
    let c := core.toNat
    let held := (mailbox s c ctx).filter (fun h => h.work.forSlot slot.toNat)
    bound s ctx slot.toNat = false → (∃ h ∈ held, h.since + 2 ^ 20 < s.now) →
    AMap.get? (coreAt s c).unbound (ctx.toNat * 64 + slot.toNat) = none →
    ∃ u m, exec (.unbound core ctx slot) s = .next u ∧ u = { s with cores := u.cores, mesh := s.mesh ++ [m] } ∧
      m.supv = true ∧ m.vnet = .sys ∧ m.core = core ∧ m.ctx = ctx ∧ m.id.toNat / 2 ^ 28 = 7 ∧
      m.a0 = slot.setWidth 64 ∧ m.a1 = BitVec.ofNat 64 held.length) ∧
  (∀ (s : State) (core : CoreId) (ctx : CtxId) (c : Ctx) (x : Nat × Message),
    ctxAt? s ctx = some c → c.ovf.find? (fun x => x.2.core == core) = some x → resident s core.toNat ctx = true →
    (mailbox s core.toNat ctx).length < AMap.getD (coreAt s core.toNat).mboxLim x.2.ctx.toNat 128 + (if ofPart x.2 = true then 16 else 0) →
    ∃ u, exec (.overflowRefill core ctx) s = .next u ∧ u = { s with cores := u.cores, ctxs := u.ctxs } ∧
      mailbox u core.toNat ctx = mailbox s core.toNat ctx ++ [⟨.message x.2, s.now, none⟩] ∧
      ctxAt? u ctx = some { c with ovf := c.ovf.erase x }) ∧
  ∀ (s : State) (k since : Nat) (line : MonLine) (x : Strand),
    AMap.get? s.strands k = some x → x.wait = .monitor line since → since + 65536 ≤ s.now →
    ∃ u, exec (.monitorTimeout k) s = .next u ∧ u = { s with strands := u.strands, cores := u.cores } ∧
      (∀ j, AMap.get? u.strands j = if j = k then some { x with wait := .run } else AMap.get? s.strands j) ∧
      ∀ c, coreAt u c = if c = k / 1024 then { coreAt s c with snap := [] } else coreAt s c

/-- R372, R374, R375: an output of a router that still passes a message passes no other; an output that is free moves one message
whole, if one waits for it: a message at the router, the first of its buffer, whose route goes on over that output, and whose next
input has room for every flit of it, or whose receiver takes it. It stands then at the next router's input, behind those that are
there, or has left its last router. The input after the one served last goes first, and of that input the virtual network after
the one served last. -/
def MeshMoves : Prop :=
  ∀ (s : State) (r out k : Nat),
    let o := routerOut s (r * 8 + out)
    let w := waitingFor s k r out
    let busy := s.now < o.freeAt
    (busy → outputCycle (s, k) r out = (s, k)) ∧
    (¬busy → w = [] → outputCycle (s, k) r out = (s, k)) ∧
    (¬busy → w ≠ [] → ∃ u n m, outputCycle (s, k) r out = (u, k + 1) ∧ (n, m) ∈ w ∧
      u = { s with mesh := s.mesh.eraseIdx n ++ [match nextRouter m.exit r with
        | some q => { m with seat := some ⟨q, some r⟩ }
        | none => { m with landed := true }], routers := u.routers } ∧
      (routerOut u (r * 8 + out)).freeAt = s.now + m.flits ∧
      (routerOut u (r * 8 + out)).lastInput = some (inputOf m) ∧
      (s.determActive = false ∨ out ≠ 4 →
        rotate (w.map (fun x => inputOf x.2)) o.lastInput = some (inputOf m) ∧
        rotate ((w.filter (fun x => inputOf x.2 == inputOf m)).map (fun x => x.2.vnet.code)) (AMap.get? o.lastVnet (inputOf m)) =
          some m.vnet.code)) ∧
    (∀ n m, (n, m) ∈ w → s.mesh[n]? = some m ∧ m.inMesh = true ∧ (∀ x ∈ s.mesh.take n, sameBuffer m x = false) ∧
      (∃ i, m.seat = some ⟨r, i⟩) ∧
      (∀ q, nextRouter m.exit r = some q → sideOf4 r q = out ∧ hasRoom s.mesh { m with seat := some ⟨q, some r⟩ } = true) ∧
      (nextRouter m.exit r = none → out = 4 ∧ ∀ j, m.kind = .ropReq j → unitRoom s j = true))

end Sys2Proof.Parts

/-- R127, R233 to R235, R237, R242, R324, R325 and R372 to R375: messages on their way, and strands that wait for them.
What the spec leaves open here is the model's choice: log 21, log 46, log 49, log 78. -/
def Obligations.MessageDelivery : Prop :=
  Sys2Proof.Parts.Arrival ∧ Sys2Proof.Parts.MeshMoves ∧ Sys2Proof.Parts.Injection ∧ Sys2Proof.Parts.SendTimeout ∧ Sys2Proof.Parts.Waiting

/-- R36, R119 to R122, R244, R322 and R326: tasks are admitted, stolen and placed, and end.
What the spec leaves open here is the model's choice: log 5. -/
def Obligations.TaskLife : Prop :=
  Sys2Proof.Parts.Dequeue ∧ Sys2Proof.Parts.ForkedWork ∧ Sys2Proof.Parts.Ending ∧ Sys2Proof.Parts.Placing

/-! ## Page requests, replays, coppicing and the mapping engine's background work -/

namespace Sys2Proof.Parts

/-- R305 to R307 and R323: a queued page request becomes a PAGEREQ message, with the page and the fields of R306, on the SYS network
to the supervisor's context, on the first of that context's cores (log 21); while no place is free there, while another of the part's
messages is on its way there or before the queue's time it stays. The request of a stage-2 miss goes, while there is room, into the
page-request ring of a virtual function. -/
def PageRequests : Prop :=
  (∀ (s : State) (queue : CtxId) (c d : Ctx) (r : PageReq) (rest : List PageReq),
    let x := pageMessage s r
    ctxAt? s queue = some c → c.pageQ = r :: rest → ctxAt? s r.dest = some d →
    (c.pageQNot ≤ s.now → partComing s x = false → pagePlace s d x = true →
      ∃ u m, exec (.pagereq false queue) s = .next u ∧
        u = { s with ctxs := u.ctxs, mesh := s.mesh ++ [m], prqIds := s.prqIds + 1 } ∧
        ctxAt? u queue = some { c with pageQ := rest } ∧ m.kind = .task ∧ m.supv = true ∧ m.vnet = .sys ∧ m.peer = none ∧
        m.ctx = r.dest ∧ m.core = BitVec.ofNat 8 ((coresOf s r.dest).headD 0) ∧ m.agent = .mappingEngine ∧
        m.id.toNat / 2 ^ 28 = 6 ∧ m.a0 = BitVec.ofNat 64 r.unit ∧
        m.a1.toNat / 2 ^ 28 % 16 = reasonCode r.reason ∧ m.a1.toNat / 2 ^ 24 % 16 = accessCode r.access ∧
        m.a1.extractLsb' 32 12 = r.ctx) ∧
    (s.now < c.pageQNot ∨ partComing s x = true ∨ pagePlace s d x = false → exec (.pagereq false queue) s = .next s)) ∧
  ∀ (s : State) (queue : CtxId) (r : PageReq) (rest : List PageReq),
    let fn : BitVec 6 := queue.setWidth 6
    let w := windowAt s fn
    w.pageQ = r :: rest → ringRoom w.prqTail w.prqHead w.prqSize = true →
    ∃ u, exec (.pagereq true queue) s = .next u ∧
      windowAt u fn = { w with pageQ := rest, prqTail := (w.prqTail + 1) % 2 ^ w.prqSize }

/-- R256, R308 and R309: a replay reaches a core, which is then no longer awaited. A parked word load whose page is now present
is made: the strand has its value and goes on, and the entry is gone. -/
def CoreReplays : Prop :=
  ∀ (s : State) (core : CoreId) (ctx : CtxId),
    let c := core.toNat
    let left := (s.replays.map (fun x => if x.ctx = ctx then { x with cores := x.cores.erase c } else x)).filter
      (fun x => !x.cores.isEmpty)
    (∃ r ∈ s.replays, r.ctx = ctx ∧ c ∈ r.cores) →
    ((∀ e ∈ (coreAt s c).parked ++ (coreAt s c).sidelog, e.ctx ≠ ctx) →
      ∃ u, exec (.coreReplay core ctx) s = .next u ∧ u.replays = left) ∧
    (∀ e k y pa, (coreAt s c).parked = [e] → (coreAt s c).sidelog = [] → e.ctx = ctx → e.kind = .load → e.size = 2 →
      entryStrand? s e = some k → AMap.get? s.strands k = some y → sideOnLine s k (e.line s) = false → s.badLines = [] →
      (checkPage s (coreCaches c) e.ctx e.ea e.right e.writes).2 = .page pa → plainMem pa = true → pa % 128 + 4 ≤ 128 →
      ∃ u, exec (.coreReplay core ctx) s = .next u ∧ u.replays = left ∧ (coreAt u c).parked = [] ∧
        (strandAt u k).pc = y.pc + 4 ∧ (strandAt u k).wait = .run ∧
        (e.d ≠ 0 → getS u k e.d = BitVec.ofNat 32 (natOfBytes (viewBytes s c pa 4))))

/-- R310 to R312: a core that wants room chooses a task, which stops issuing; once what it had outstanding is complete it is
saved into a free frame of its context's list, and its places are free. With no frame it stays and goes on. -/
def Coppicing : Prop :=
  ∀ (s : State) (core : CoreId) (tk : Nat) (t : Task) (fork : Bool) (x : Ctx),
    let out := takeFrame t.ctx x.coppiceList.toNat 256 0 (publish s core.toNat)
    wantsRoom s core.toNat = true →
    (stoppingOn? s core.toNat = none → chooseCoppice s core.toNat = some (tk, t, fork) → AMap.get? s.tasks tk = some t →
      ∃ u, exec (.coppice core) s = .next u ∧ u = { s with tasks := u.tasks } ∧
        AMap.get? u.tasks tk = some { t with stopping := true }) ∧
    ∀ n, stoppingOn? s core.toNat = some (tk, t) → eligible s t = some (n, fork) → ctxAt? s t.ctx = some x →
      (settled s t = false → exec (.coppice core) s = .next s) ∧
      (settled s t = true →
        (∀ i f, out.2 = some (i, f) → ∃ u c y, exec (.coppice core) s = .next u ∧ u.tasks = AMap.erase s.tasks tk ∧
          (∀ g ∈ t.groups, AMap.get? u.groups g = none) ∧ ctxAt? u t.ctx = some y ∧ AMap.get? y.coppiced t.uid = some c ∧
          c.task = { t with stopping := false, saving := false } ∧ c.frame = BitVec.ofNat 52 f ∧ c.entry = i ∧ c.saved = false) ∧
        (out.2 = none → AMap.get? s.tasks tk = some t →
          ∃ u, exec (.coppice core) s = .next u ∧ AMap.get? u.tasks tk = some { t with stopping := false }))

/-- R314, R316 and R317: the head of a re-admission queue, its frame readable or its bytes saved, takes places on the core that
the placement order gives, of those with room for it, and leaves the queue; its identifiers and its window are as the frame's bytes
say. -/
def Readmission : Prop :=
  ∀ (s : State) (cl : ClusterId) (uid core : Nat) (rest : List Nat) (ctx : CtxId) (c : Coppiced) (pl : Placement) (f : Fit)
    (rd : Nat → Nat → Nat),
    let k := cl.toNat
    let fit := fitsAway? s ctx (frameGroups rd) (frameUnits rd)
    let w := walkPages s ctx [c.frame.toNat, c.frame.toNat + 2 ^ 19]
    (clusterAt s k).readmit = uid :: rest → coppicedBy? s uid = some (ctx, c) → preempted s k ctx = false →
    ((c.saved = true ∧ rd = fun off n => Mem.nat c.bytes off n) ∨
      (c.saved = false ∧ s.badLines = [] ∧ rd 0 4 = 0x43504F43 ∧ rd 4 2 = 1 ∧ frameReadable w ctx c.frame.toNat = true ∧
        ∃ a b, frameAt w ctx c.frame.toNat = .inr (a, b) ∧
          rd = fun off n => natOfBytes (memBytes s (if off < 2 ^ 19 then a + off else b + (off - 2 ^ 19)) n))) →
    choosePlace s.determActive (weightOf s) true
      (((List.range 8).map (fun i => k * 8 + i)).filter (fun j => (fit j).isSome && hasPlaces s rd j))
      (clusterAt s k).readmitPlace = some (core, pl) →
    fit core = some f → rd 0x18 2 = 0 → rd 0x1A 2 = 0 →
    (∀ e ∈ (coreAt s core).parked ++ (coreAt s core).sidelog, e.uid ≠ uid) →
    ∃ u t, exec (.reAdmission cl) s = .next u ∧ AMap.get? u.tasks f.task = some t ∧ t.uid = c.task.uid ∧
      t.ctx = BitVec.ofNat 12 (rd 0xC 4) ∧ t.groups = f.groups ∧ t.winBase = f.win ∧ t.saving = false ∧ t.stopping = false ∧
      t.taskId = BitVec.ofNat 32 (rd 8 4) ∧ t.msgId = BitVec.ofNat 32 (rd 0x10 4) ∧ t.winUnits = rd 0x14 2 ∧
      t.spinCount = BitVec.ofNat 32 (rd 0x20 4) ∧ t.budgetLeft = rd 0x24 4 ∧
      (clusterAt u k).readmit = rest ∧ ∀ x, ctxAt? u ctx = some x → AMap.get? x.coppiced uid = none

/-- R280, R283, R291 and R292: with none in progress, the first queued invalidation of an UNMAP makes the leaves of the withdrawn
nodes, and those whose frames they back, REVOKED entries that name the unmapped node and hold nothing more; it marks the nodes
and asks every cache for an acknowledgement. -/
def Invalidating : Prop :=
  ∀ (s : State) (v : Inval),
    let w := withdrawn s.map v.node
    s.badLines = [] → s.map.stopped = false → (∀ x ∈ s.map.invals, x.sent = true → x.kind ≠ .unmap ∧ x.kind ≠ .grant) →
    s.map.invals.find? (fun x => !x.sent) = some v → v.kind = .unmap →
    ∃ u, exec .invalidation s = .next u ∧
      (∃ x ∈ u.map.invals, x.kind = .unmap ∧ x.node = v.node ∧ x.sent = true ∧ x.acks = List.range 416 ∧ x.reply = v.reply) ∧
      (s.map.migrations = [] → ∀ k l, AMap.get? s.map.leaf3 k = some l →
        AMap.get? u.map.leaf3 k = some (if l.revoked = false ∧ l.of w = true then Leaf.gone v.node else l)) ∧
      ∀ i n, nodeAt? s.map i = some n → (nodeAt? u.map i).map (·.reclaim) = some (n.reclaim || w.contains i)

/-- R288, R289, R292 and R293: a cache that acknowledges a shootdown has dropped the translations of the contexts in its filter, a
port's those that it has from peers too, a core's cache only after that of its cluster; with the last acknowledgement the UNMAP is answered and its reclaim is due. -/
def Acknowledging : Prop :=
  ∀ (s : State) (cache : Nat) (v : Inval),
    s.map.invals.find? (fun x => x.sent && x.acks.contains cache &&
      !((fillsFrom? cache).map x.acks.contains).getD false) = some v →
    (∃ u, exec (.shootdownAck cache) s = .next u ∧
      u.fab.remote = s.fab.remote.filter (fun e => !(384 + e.port % 32 == cache && inFilter s v.filter e.ctx)) ∧
      ∀ n, n < 416 → tlbAt u n = if n = cache then (tlbAt s n).filter (fun e => !inFilter s v.filter e.ctx) else tlbAt s n) ∧
    ∀ g r d, s.map.invals = [v] → v.acks = [cache] → v.peers = [] → v.kind = .unmap → v.after = [] → v.reply = .group g r d →
      s.map.heldUnmaps = [] → 256 ≤ cache →
      ∃ u, exec (.shootdownAck cache) s = .next u ∧ u.map.invals = [] ∧ u.map.reclaims = s.map.reclaims ++ [v.node] ∧
        ∀ l, l < 32 → ∀ x, AMap.get? s.strands (g * 32 + l) = some x → x.wait = .reply r →
          (strandAt u (g * 32 + l)).wait = .run ∧ (strandAt u (g * 32 + l)).pc = x.pc + 4 ∧ (d ≠ 0 → getG u g d = v.status)

/-- R285, R286, R293 and R298: at the end of a reclaim the withdrawn nodes are gone, each place with its next generation, no leaf
maps for one of them or is kept for it, and the migrations that the UNMAP ended are done with. -/
def Reclaiming : Prop :=
  ∀ (s : State) (r : Nat) (rest : List Nat),
    let w := withdrawn s.map r
    s.map.reclaims = r :: rest → s.badLines = [] → s.map.stopped = false → s.map.heldMaps = [] →
    ∃ u, exec .reclaimEnd s = .next u ∧ u = { s with map := u.map } ∧ u.map.reclaims = rest ∧
      (∀ i ∈ w, nodeAt? u.map i = none) ∧
      (∀ i ∈ w, ∀ n, nodeAt? s.map i = some n → Sparse.read u.map.gens i = n.gen + 1) ∧
      u.map.migrations = s.map.migrations.filter (fun g => g.ended != some r) ∧
      (∀ e ∈ u.map.leaf3 ++ u.map.leaf2, e.2.revoked = false → e.2.node ∉ w) ∧
      ∀ e ∈ u.map.kept3 ++ u.map.kept2, e.2.node ∉ w

/-- R276, R296 and R298: a migration that may begin takes its page's frame and the new one (the host's, where the host asked),
protects the page and asks for acknowledgements; with the memories in their canonical form and no task off the cores, the switch
makes the new frame hold the old one's bytes, and no core keeps a line of what that held before; the release clears MOVING and ends the migration. -/
def Migrating : Prop :=
  ∀ (s : State) (g : Migration),
    let moved := fun (st : MigStage) => s.map.migrations.map (fun h => if h = g then { g with stage := st } else h)
    s.badLines = [] →
    (∀ f, s.map.stopped = false → s.map.migrations.find? (startable s) = some g → newFrame? s g = some f →
      ∃ u, exec .migrationProtect s = .next u ∧ (g.reply ≠ .nobody → f = g.newFrame) ∧
        u.map.migrations = s.map.migrations.map (fun h => if h = g then
          { g with stage := .protecting, newFrame := f, oldFrame := ((pageLeaf? s.map g).map (·.frame)).getD g.oldFrame }
          else h) ∧
        (∀ n, nodeAt? s.map g.node = some n → (nodeAt? u.map g.node).map (·.moving) = some true) ∧
        ∃ v ∈ u.map.invals, v.kind = .protect ∧ v.node = g.node ∧ v.sent = true ∧ v.acks = List.range 416) ∧
    (∀ old new, s.map.stopped = false → MemoriesCanonical s → (∀ e ∈ s.ctxs, e.2.coppiced = []) → s.images = [] →
      s.map.migrations.find? (fun g => g.stage == .copying && movable s g && !frameHeld s g &&
        (frameAddr? s g.space g.oldFrame).isSome && (frameAddr? s g.space g.newFrame).isSome) = some g →
      frameAddr? s g.space g.oldFrame = some old → frameAddr? s g.space g.newFrame = some new → plainMem old = true → plainMem new = true →
      ∃ u, exec .migrationSwitch s = .next u ∧ u.map.migrations = moved .switched ∧
        (∀ i, i < 2 ^ 19 → Mem.byte u.mem (new + i) = Mem.byte s.mem (old + i)) ∧
        (∀ a, a < new ∨ new + 2 ^ 19 ≤ a → Mem.byte u.mem a = Mem.byte s.mem a) ∧
        (∀ c ∈ u.cores, ∀ l ∈ c.2.snap, l.1 < new / 128 ∨ new / 128 + 4096 ≤ l.1) ∧
        ∃ v ∈ u.map.invals, v.kind = .release ∧ v.node = g.node ∧ v.sent = true) ∧
    (s.map.migrations.find? (fun g => g.stage == .switched && g.ended.isNone &&
        !s.map.invals.any (fun v => v.kind == .release && v.node == g.node)) = some g →
      ∃ u, exec .migrationRelease s = .next u ∧ u.map.migrations = s.map.migrations.filter (fun h => h != g) ∧
        ∀ n, nodeAt? s.map g.node = some n → (nodeAt? u.map g.node).map (·.moving) = some false)

end Sys2Proof.Parts

/-- R256, R305 to R312, R314, R316 and R317: page requests, replays, coppicing and re-admission.
What the spec leaves open here is the model's choice: log 15, log 21, log 23, log 53, log 54, log 101. -/
def Obligations.PageRequestsAndReplays : Prop :=
  Sys2Proof.Parts.PageRequests ∧ Sys2Proof.Parts.CoreReplays ∧ Sys2Proof.Parts.Coppicing ∧ Sys2Proof.Parts.Readmission

/-- R280, R283, R285, R286, R288, R289, R291 to R293, R296 and R298: invalidation, reclaim and migration.
What the spec leaves open here is the model's choice: log 6, log 11, log 51, log 52. -/
def Obligations.MappingEvents : Prop :=
  Sys2Proof.Parts.Invalidating ∧ Sys2Proof.Parts.Acknowledging ∧ Sys2Proof.Parts.Reclaiming ∧ Sys2Proof.Parts.Migrating

/-! ## Copy engines and matrix engines -/

namespace Sys2Proof.Parts

/-- The count of a token after a completion (R210). -/
def countAfter (c : Word) (error : Bool) : Word :=
  BitVec.ofNat 32 ((if error = true then 2 ^ 31 else c.toNat / 2 ^ 31 * 2 ^ 31) + (c.toNat + 1) % 2 ^ 31)

/-- R206, R208 and R209: the engine performs one run without a transform of the first copy of a queue that is not halted, from a
window or from a present page of GLOBAL memory at the coherence point, to a window: the run's bytes stand at its
destination and no other byte changes. An empty copy is done at once. R332: a copy of a saved task that is not yet back stands
still. -/
def CopyOneRun : Prop :=
  ∀ (s : State) (cl : ClusterId) (qn : BitVec 4) (c : Copy) (r : List Copy),
    let q := cl.toNat * 12 + qn.toNat
    let cache := 288 + cl.toNat * 3 + qn.toNat / 4
    let h := c.shape
    let n := shLen h
    let i1 := c.run % shRuns1 h
    let i2 := c.run / shRuns1 h
    let a := (runAddr h false c.src i1 i2).toNat
    let b := (runAddr h true c.dst i1 i2).toNat
    qn.toNat < 12 → queueAt s q = ⟨c :: r, none⟩ →
    (savedOff s c.tok.uid = true → exec (.copyRun cl qn) s = .next s) ∧
    (copyReady c = true → savedOff s c.tok.uid = false → n = 0 → ∃ u, exec (.copyRun cl qn) s = .next u ∧ u = { s with queues := u.queues } ∧
      queueAt u q = ⟨{ c with done := true } :: r, none⟩) ∧
    ∀ (src : Nat → Byte) (dc : Bool) (db : Nat),
      copyReady c = true → savedOff s c.tok.uid = false → n ≠ 0 → shXform h = 0 → copyPeer? s h = none →
      ((shSrc h = 1 ∨ shSrc h = 2) ∧ (∃ sc sb, sideBase? s c cl.toNat (shSrc h) = some (sc, sb) ∧
          ∀ j, src j = Mem.byte (if sc = true then s.cluwin else s.corewin) (sb + a + j)) ∨
        shSrc h = 0 ∧ (∃ pa, (checkPage s [cache] c.ctx (BitVec.ofNat 64 a) rR false).2 = .page pa ∧ a < 2 ^ 64 ∧
          a % 2 ^ 19 + n ≤ 2 ^ 19 ∧ plainMem pa = true ∧ plainMem (pa + (n - 1)) = true ∧ s.badLines = [] ∧
          ∀ j, src j = memByte s (pa + j))) →
      (shDst h = 1 ∨ shDst h = 2) → sideBase? s c cl.toNat (shDst h) = some (dc, db) →
      ∃ u, exec (.copyRun cl qn) s = .next u ∧ u.mem = s.mem ∧ u.opmem = s.opmem ∧ u.rf = s.rf ∧
        (∀ x, Mem.byte u.cluwin x =
          if dc = true ∧ db + b ≤ x ∧ x < db + b + n then src (x - (db + b)) else Mem.byte s.cluwin x) ∧
        (∀ x, Mem.byte u.corewin x =
          if dc = false ∧ db + b ≤ x ∧ x < db + b + n then src (x - (db + b)) else Mem.byte s.corewin x) ∧
        ∃ c', queueAt u q = ⟨c' :: r, none⟩ ∧ c'.run = c.run + 1 ∧ c'.done = decide (shRuns h ≤ c.run + 1) ∧
          c'.stopped = none ∧ c'.tok = c.tok

/-- R209, R210 and R212: a copy that has ended leaves its queue and its token is updated, with the error bit when it ended in
error; then the queue halts until that token's TSET. -/
def CopyEnds : Prop :=
  ∀ (s : State) (cl : ClusterId) (qn : BitVec 4) (c : Copy) (r : List Copy) (g : Nat),
    let q := cl.toNat * 12 + qn.toNat
    let t := getK s g c.tok.k
    qn.toNat < 12 → queueAt s q = ⟨c :: r, none⟩ → c.done = true → c.peerOut = 0 → c.tok.uid ≠ 0 →
    tokGroup? s c.tok = some g →
    ∃ u, exec (.copyComplete cl qn) s = .next u ∧
      u = { s with queues := u.queues, rf := { s.rf with k := u.rf.k } } ∧
      (∀ p, queueAt u p = if p = q then ⟨r, if c.error = true then some c.tok else none⟩ else queueAt s p) ∧
      getK u g c.tok.k = ⟨countAfter t.count c.error, t.outstanding - 1⟩

/-- R223 and R364: the tile scheduler hands the first posted record, when its engine can take it, to that engine: it executes, or
is pending behind the record that executes, where one past its release point no longer counts. -/
def RecordHanded : Prop :=
  ∀ (s : State) (cl : ClusterId) (r : Record) (rest : List Record) (e : Nat),
    AMap.getD s.posts cl.toNat [] = r :: rest → engineFor? s cl.toNat [] r = some e →
    ∃ u, exec (.recordIssue cl) s = .next u ∧ u = { s with posts := u.posts, engines := u.engines } ∧
      (∀ c, AMap.getD u.posts c [] = if c = cl.toNat then rest else AMap.getD s.posts c []) ∧
      ∀ x, engineAt u x = if x = e then
        (match (engineAt s e).advance.executing with
         | none => { (engineAt s e).advance with executing := some (Running.start r) }
         | some _ => { (engineAt s e).advance with pending := some r })
        else engineAt s x

/-- R224, R362 and R363: with operand memory free of errors, WLOAD puts the 256 columns of 64 bytes into the shadow plane and
SWAP exchanges the planes. -/
def PlaneRecords : Prop :=
  ∀ (s : State) (en : BitVec 9) (q : Running),
    let e := en.toNat
    let x := engineAt s e
    let r := q.record.words
    let o := operandsOf s e q.record.ctx
    let only := fun (u : State) => u = { s with engines := u.engines } ∧ ∀ y, y ≠ e → engineAt u y = engineAt s y
    x.executing = some q → q.done = false →
    (rcKind r = 1 → s.badOps = [] → rcBsrc r + 256 * 64 ≤ o.size →
      ∃ u, exec (.wload en) s = .next u ∧ only u ∧
        ((engineAt u e).executing.map (·.done)) = some true ∧ (engineAt u e).active = x.active ∧
        (engineAt u e).acc = x.acc ∧ (engineAt u e).shadow.wfmt = BitVec.ofNat 4 (rcWfmt r) ∧
        (engineAt u e).shadow.sparse = rcSparse r ∧ (engineAt u e).shadow.bad = false ∧
        ∀ c, c < 256 → Sparse.read (engineAt u e).shadow.cols c =
          BitVec.ofNat 512 (Mem.nat s.opmem (o.cluster * 2 ^ 22 + (o.base + (rcBsrc r + c * 64))) 64)) ∧
    (rcKind r = 2 → ∃ u, exec (.swap en) s = .next u ∧ only u ∧ (engineAt u e).active = x.shadow ∧
      (engineAt u e).shadow = x.active ∧ (engineAt u e).acc = x.acc ∧
      ((engineAt u e).executing.map (fun y => (y.done, y.error))) = some (true, q.error))

/-- R154, R155, R224 and R226: with operand memory and accumulators free of errors, MSTREAM gives each cell of its rows the sum
of R154 or R155 of the row against the active plane, and GEMM of one chunk that accumulates does so against the plane that
it loads; with a plane that does not pair, MSTREAM ends in error and changes no cell. R331: outside deterministic mode the
multiply-accumulates of the format are counted for the context (log 100). -/
def StreamRecords : Prop :=
  ∀ (s : State) (en : BitVec 9) (q : Running),
    let e := en.toNat
    let x := engineAt s e
    let r := q.record.words
    let o := operandsOf s e q.record.ctx
    let cell := fun (m : Sparse 32) (i c : Nat) => Sparse.read m (cellKey (rcBank r) (rcRow0 r + i) c)
    let row := fun (p : Plane) (i : Nat) => (operandBytes s o (rcAsrc r + i * aRow p.sparse) (aRow p.sparse)).1
    let scale := fun (p : Plane) (i : Nat) =>
      (operandBytes s o (rcAsc r + i * vScale (rcAfmt r) p.sparse) (vScale (rcAfmt r) p.sparse)).1
    let old := fun (i : Nat) => (List.range 256).map (fun c => if rcAcc r = true then cell x.acc i c else 0)
    let counts := fun (u : State) => ∀ y, ctxAt? s q.record.ctx = some y → ∃ z, ctxAt? u q.record.ctx = some z ∧
      AMap.getD z.activity (64 + rcAfmt r) 0 = AMap.getD y.activity (64 + rcAfmt r) 0 +
        if s.determActive = true then 0 else rcRows r * 256 * kPerRow (rcAfmt r)
    let sums := fun (p : Plane) (u : State) => ∀ i, i < rcRows r → ∀ c, c < 256 →
      cell (engineAt u e).acc i c = (streamRow (columnsOf p) (rcAfmt r) (old i) (row p i) (scale p i)).getD c 0
    x.executing = some q → q.done = false → s.badOps = [] → x.badCells = [] →
    (rcKind r = 3 → x.active.bad = false → pairs (rcAfmt r) x.active.wfmt.toNat = true →
      ∃ u, exec (.mstream en) s = .next u ∧ u = { s with engines := u.engines, ctxs := u.ctxs } ∧ sums x.active u ∧ counts u ∧
        (engineAt u e).active = x.active ∧ (engineAt u e).shadow = x.shadow ∧
        ((engineAt u e).executing.map (fun y => (y.done, y.error))) = some (true, q.error)) ∧
    (rcKind r = 3 → (x.active.bad = true ∨ pairs (rcAfmt r) x.active.wfmt.toNat = false) →
      ∃ u, exec (.mstream en) s = .next u ∧ (engineAt u e).acc = x.acc ∧
        ((engineAt u e).executing.map (fun y => (y.done, y.error))) = some (true, true)) ∧
    ∀ p, rcKind r = 4 → x.draining = none → q.streamed = false → rcNk r = 1 → rcAcc r = true → rcDrn r = false →
      loadPlane s o r 0 x.shadow = (p, false) → pairs (rcAfmt r) p.wfmt.toNat = true →
      ∃ u, exec (.gemm en) s = .next u ∧ u = { s with engines := u.engines, ctxs := u.ctxs } ∧ sums p u ∧ counts u ∧
        (engineAt u e).active = p ∧ (engineAt u e).shadow = x.active ∧
        ((engineAt u e).executing.map (fun y => (y.done, y.error))) = some (true, q.error || badNibble p)

/-- R225 and R226: a DRAIN of one row to the cluster window, with no other drain under way in its engine, writes the row's bytes
at its address. -/
def DrainRecords : Prop :=
  ∀ (s : State) (en : BitVec 9) (q : Running) (first len : Nat) (up : Bool),
    let e := en.toNat
    let x := engineAt s e
    let r := q.record.words
    let cells := (List.range 256).map (fun c => Sparse.read x.acc (cellKey (rcBank r) (rcRow0 r) c))
    let bs := (drainBytes (rcDfmt r) (rcSat r) cells).1
    let base := e / 16 * 2 ^ 23 + first + (rcDaddr r).toNat
    x.executing = some q → q.done = false → q.drained = 0 → q.rowOut = [] → q.stopped = none → x.draining = none → rcKind r = 5 → rcDsp r = 1 →
    isKX (rcDfmt r) = false → rcRows r = 1 → x.badCells = [] →
    clusterShare? s (e / 16) q.record.ctx = some (first, len, up) →
    ∃ u, exec (.drain en) s = .next u ∧ u.mem = s.mem ∧ u.corewin = s.corewin ∧ u.opmem = s.opmem ∧
      (∀ a, Mem.byte u.cluwin a = if base ≤ a ∧ a < base + bs.length then bs.getD (a - base) 0 else Mem.byte s.cluwin a) ∧
      (engineAt u e).acc = x.acc ∧ ((engineAt u e).executing.map (fun y => (y.done, y.error))) = some (true, q.error)

/-- R227 and R364: a record that is done decrements its counters and then updates its token. One that has been released completes
first, the oldest; the executing one completes when none of them is done, and the pending record then executes. -/
def RecordEnds : Prop :=
  ∀ (s : State) (en : BitVec 9) (q : Running) (g first n : Nat),
    let e := en.toNat
    let x := engineAt s e
    let r := q.record.words
    let t := getK s g q.record.tok.k
    let dec := fun (o : Option Nat) (j v : Nat) => if o.map (fun i => e / 16 * 4096 + first + i) = some j then v - 1 else v
    let counted := fun (u : State) =>
      u = { s with engines := u.engines, pcs := u.pcs, rf := { s.rf with k := u.rf.k } } ∧
      (∀ j, (Sparse.read u.pcs j).toNat = dec (rcD1 r) j (dec (rcD0 r) j (Sparse.read s.pcs j).toNat)) ∧
      getK u g q.record.tok.k = ⟨countAfter t.count q.error, t.outstanding - 1⟩
    tokGroup? s q.record.tok = some g → counterShare? s (e / 16) q.record.ctx = some (first, n) →
    (x.units.find? (fun y => y.done) = some q → ∃ u, exec (.recordComplete en) s = .next u ∧ counted u ∧
      engineAt u e = { x with units := x.units.erase q }) ∧
    ((∀ y ∈ x.units, y.done = false) → x.executing = some q → q.done = true →
      ∃ u, exec (.recordComplete en) s = .next u ∧ counted u ∧
        engineAt u e = { x with executing := x.pending.map Running.start, pending := none })

end Sys2Proof.Parts

/-- R206, R208 to R210 and R212: a copy runs, stops, fails and completes. -/
def Obligations.CopyRuns : Prop :=
  Sys2Proof.Parts.CopyOneRun ∧ Sys2Proof.Parts.CopyEnds

/-- R154, R155, R223 to R227 and R362 to R364: tile tasks on their engines.
What the spec leaves open here is the model's choice: log 58, log 100. -/
def Obligations.EngineRecords : Prop :=
  Sys2Proof.Parts.RecordHanded ∧ Sys2Proof.Parts.PlaneRecords ∧ Sys2Proof.Parts.StreamRecords ∧ Sys2Proof.Parts.DrainRecords ∧ Sys2Proof.Parts.RecordEnds

/-! ## Scheduling, contexts and the Pleach table -/

namespace Sys2Proof.Parts

/-- R28, R321, R330 and R331: the banks of a cluster in RESIDENT mode switch; a changed DETERM.EN takes effect with no task and
no message; a pre-emption request, or the end of a slice in IMAGE mode, makes the pre-emption of the context pending on its
clusters. At the end of a slice the activity counters of the context are clear, and firmware reads the control block (R402). -/
def Switching : Prop :=
  (∀ (s : State) (cl : ClusterId), (clusterAt s cl.toNat).resident = true →
    ∃ u, exec (.residentSwitch cl) s = .next u ∧ u = { s with clusters := u.clusters } ∧
      ∀ c, clusterAt u c = if c = cl.toNat then
        { clusterAt s c with bank := if (clusterAt s c).bank = 0 then 1 else 0 } else clusterAt s c) ∧
  (∀ s : State, s.determEn ≠ s.determActive → s.tasks = [] → s.mesh = [] →
    ∃ u, exec .determSwitch s = .next u ∧ u = { s with determActive := s.determEn, cores := u.cores } ∧
      ∀ c, coreAt u c = { coreAt s c with lastSlot := [] }) ∧
  (∀ (s : State) (ctx : CtxId) (m : BitVec 32) (c : Ctx), ctxAt? s ctx = some c →
    ∃ u, exec (.preemptionRequest ctx m) s = .next u ∧
      ∀ x ∈ c.clusters, m.getLsbD x.toNat = true →
        ctx ∈ (clusterAt u x.toNat).preempt ∧ ((ctxAt? u ctx).bind (·.plan)).isSome = true) ∧
  ∀ (s : State) (ctx : CtxId) (c : Ctx), ctxAt? s ctx = some c → c.clusters ≠ [] → sliceUsed s c ctx = true →
    ∃ u, exec (.sliceEnd ctx) s = .next u ∧
      (∃ d, ctxAt? u ctx = some d ∧ d.sliceCycles = 0 ∧ d.activity = []) ∧
      (∀ k ∈ u.cores, AMap.get? k.2.traffic ctx.toNat = none) ∧
      (∀ p, AMap.get? s.parts c.part = some p →
        (AMap.get? u.parts c.part).map (·.block) = some (memBytes s p.cbBase (0x100 + 8 * p.ctxCount))) ∧
      (residentPart s ctx = false → ∀ x ∈ c.clusters, ctx ∈ (clusterAt u x.toNat).preempt) ∧
      (residentPart s ctx = true →
        u = { s with clusters := u.clusters, ctxs := u.ctxs, cores := u.cores, parts := u.parts } ∧
        ∀ x, c.clusters = [x] → clusterAt u x.toNat = switchBank ctx (clusterAt s x.toNat))

/-- R26, R329, R330 and R332: a budget that has run out is counted, or raises BUDGET with the address of the next instruction that
the lowest strand would issue (log 86), or begins the save of its task when a
pre-emption is pending; a task whose save has begun and that holds and awaits nothing is taken off its core. -/
def BudgetsAndSaves : Prop :=
  ∀ (s : State) (tk : Nat) (t : Task), AMap.get? s.tasks tk = some t →
    let late := t.budgetOn = true ∧ t.budgetLeft = 0 ∧ t.expired = false
    let pre := preempted s (tk / 32 / 8) t.ctx
    (late → pre = false → t.budgetTrap = false → ∃ u, exec (.budgetExpiry tk) s = .next u ∧
      u = { s with tasks := u.tasks, ctxs := u.ctxs } ∧
      (∀ j, AMap.get? u.tasks j = if j = tk then some { t with expired := true } else AMap.get? s.tasks j) ∧
      ∀ x, ctxAt? s t.ctx = some x → ctxAt? u t.ctx = some { x with expiries := x.expiries + 1 }) ∧
    (∀ k, late → pre = false → t.budgetTrap = true →
      (strandsOfTask t).find? (fun k => (strandAt s k).wait != .exited) = some k →
      exec (.budgetExpiry tk) s =
        .next (takeTrap s tk 0x09 (t.budget.setWidth 64) (upcoming s tk t k) (strandIx s k))) ∧
    (late → pre = true → ∃ u, exec (.budgetExpiry tk) s = .next u ∧
      AMap.get? u.tasks tk = some { t with expired := true, saving := true }) ∧
    (∀ x, t.saving = true → (∀ k ∈ strandsOfTask t, (strandAt s k).locks = []) → awaits s t = false →
      copiesRun s t.uid = false → tilesRun s t = false → ctxAt? s t.ctx = some x →
      ∃ u y c, exec (.quiescentSave tk) s = .next u ∧ u.tasks = AMap.erase s.tasks tk ∧
        (∀ g ∈ t.groups, AMap.get? u.groups g = none) ∧ ctxAt? u t.ctx = some y ∧ AMap.get? y.coppiced t.uid = some c ∧
        c.saved = true ∧ c.task = { t with stopping := false, saving := false })

/-- R333, R334 and R336: a context whose tasks have all ended or been saved, and whose records and copies have landed, is saved into
its image, which begins with its magic number, and leaves its clusters: paused after a SLICE image, ended after another; an image
that a loader accepts is restored on a placement that its context can own, with the context's queues when it had left the part. -/
def ImagesOfContexts : Prop :=
  (∀ (s : State) (ctx : CtxId) (c : Ctx) (p : SavePlan),
    let s1 := (coresIn c.clusters).foldl (fun s k => acquire (publish s k) k)
      (modCtx s ctx (fun c => { c with vtFrozen := true }))
    let total := 0x80 + (imageBody (imageOf s1 ctx { c with vtFrozen := true } p.kind)).length
    ctxAt? s ctx = some c → c.plan = some p → p.resume = false → p.reply = .nobody → c.stuck = false → c.clusters ≠ [] →
    tasksOf s ctx = [] → allLanded s ctx = true → (∀ x ∈ c.clusters, preempted s x.toNat ctx = true) → total ≤ c.imageSize →
    plainMem c.imageBase = true → plainMem (c.imageBase + total - 1) = true → s.badLines = [] →
    ∃ u i, exec (.contextSave ctx) s = .next u ∧
      (p.kind = 1 → ∃ d, ctxAt? u ctx = some d ∧ d.clusters = [] ∧ d.plan = none ∧ d.coppiced = []) ∧
      (p.kind ≠ 1 → ctxAt? u ctx = none) ∧ AMap.get? u.images c.imageBase = some i ∧ i.kind = p.kind ∧ i.ctxid = ctx ∧
      Mem.nat u.mem c.imageBase 4 = 0x4D494856 ∧
      ∀ x ∈ c.clusters, (clusterAt u x.toNat).lower ≠ some ctx ∧ (clusterAt u x.toNat).upper ≠ some ctx) ∧
  ∀ (s : State) (a : BitVec 44) (m : BitVec 32) (i : Image) (c : Ctx),
    let cs := clustersOf m
    loadable? s a.toNat = some i → ctxAt? s i.ctxid = some c → c.clusters = [] → cs.length = i.ncl →
    residentPart s i.ctxid = i.resident → (∀ x ∈ cs, canOwn s i.ctxid x = true) →
    ∃ u d, exec (.contextRestore a m) s = .next u ∧ ctxAt? u i.ctxid = some d ∧ d.clusters = cs ∧
      (i.kind ≠ 1 → d.pageQ = i.ctx.pageQ ++ c.pageQ ∧ d.coppiceList = i.ctx.coppiceList ∧ d.ovfBase = i.ctx.ovfBase) ∧
      d.parkLim = i.ctx.parkLim ∧ d.budget = i.ctx.budget ∧ d.binds = i.ctx.binds ∧ d.plan = none ∧ d.vtFrozen = true ∧
      ∀ x ∈ cs, (clusterAt u x.toNat).lower = some i.ctxid ∨ (clusterAt u x.toNat).upper = some i.ctxid

/-- R344 and R347 to R353: one cycle of the walk. While a flag is set, HALT counts. A valid N entry at the head passes it; a
valid head that meets every condition starts its task on the core of the placement order; a head without input counts IN.
The walk clock counts each cycle of the walk. R354: a message held back, for the entry that it is for, goes once its neighbour
is connected. -/
def WalkCycles : Prop :=
  (∀ (s : State) (x : BitVec 10) (k : MsgKind) (ix : Option (BitVec 9)), s.pl.owner = none → s.pl.stalled = [(x, k, ix)] →
    (connected s x = false → exec .pleachWalkCycle s = .next s) ∧
    (connected s x = true → ∃ u m, exec .pleachWalkCycle s = .next u ∧
      u = { s with pl := { s.pl with stalled := [] }, mesh := s.mesh ++ [m], plIds := s.plIds + 1 } ∧ m.kind = k ∧
      m.peer = some x ∧ m.forEntry = ix ∧ m.vnet = .sys)) ∧
  ∀ (s : State) (owner : CtxId),
    let p := s.pl
    let h := p.head.toNat
    let e := plEntry s h
    let n := (h + 1) % p.len.toNat
    p.owner = some owner → placedMask s owner ≠ 0 → p.stalled = [] → (∀ x ∈ p.entries, x.2.issued ≠ some .restart) →
    (p.status ≠ 0 → exec .pleachWalkCycle s =
      .next { s with pl := { p with bubbles := p.bubbles.set 6 (p.bubbles.getD 6 0 + 1) } }) ∧
    (p.status = 0 → p.running = false → exec .pleachWalkCycle s = .next s) ∧
    (p.status = 0 → p.running = true →
      (invalidEntry s owner e.bits = true → ∃ u, exec .pleachWalkCycle s = .next u ∧ u = { s with pl := u.pl } ∧
        u.pl.running = false ∧ u.pl.status = 2 ∧ u.pl.errIx = p.head ∧ u.pl.clock = p.clock) ∧
      (invalidEntry s owner e.bits = false → e.issued = none → enKind e.bits = 4 → enHlt e.bits = false →
        (plEntry s n).overtaken = false → ∃ u, exec .pleachWalkCycle s = .next u ∧ u = { s with pl := u.pl } ∧
          u.pl.clock = p.clock + 1 ∧ u.pl.head = BitVec.ofNat 9 n ∧ u.pl.running = true ∧
          (plEntry u h).bits = e.bits ∧ (plEntry u h).stamp = p.clock ∧ (plEntry u h).issued = none) ∧
      (∀ bd c pl f, invalidEntry s owner e.bits = false → enKind e.bits ≠ 4 → stallOf? s owner e = none →
        entryBinding? s owner e.bits = some bd →
        choosePlace s.determActive (weightOf s) true (entryCores s owner e.bits bd) p.place = some (c, pl) →
        fits? s c (issuingBank s c) (2 ^ bd.glog) bd.window = some f → (plEntry s n).overtaken = false →
        ∃ u t, exec .pleachWalkCycle s = .next u ∧ u.pl.clock = p.clock + 1 ∧ u.pl.head = BitVec.ofNat 9 n ∧
          (plEntry u h).issued = some .running ∧ (plEntry u h).stamp = p.clock ∧
          AMap.get? u.tasks f.task = some t ∧ t.ctx = owner ∧ t.groups = f.groups ∧
          t.work = .pleach (BitVec.ofNat 9 h) owner (enSlot e.bits) (enMb e.bits) (enVstage e.bits)
            (9#4 ++ 0#8 ++ 1#1 ++ 65#7 ++ s.plIds)) ∧
      (invalidEntry s owner e.bits = false → stallOf? s owner e = some .input → canOvertake s owner n = false →
        stallPreempt s owner e.bits = false → stallFault s owner = false →
        ∃ u, exec .pleachWalkCycle s = .next u ∧ u = { s with pl := u.pl } ∧ u.pl.clock = p.clock + 1 ∧
          u.pl.bubbles = p.bubbles.set 0 (p.bubbles.getD 0 0 + 1) ∧ u.pl.head = p.head ∧ u.pl.entries = p.entries))

/-- R346, R350 and R354: an entry without input and automatic send whose task has ended, with no peer written, records its
output and is no longer issued; SLOTGIVE adds to a credit and ARRIVE records an arrival, up to 16, beyond which OVERRUN
halts the walk; the packet that brought either from a peer is acknowledged; PLCTL.CLR clears the counts of a table at rest. -/
def TableEvents : Prop :=
  (∀ (s : State) (ix : BitVec 9) (sh : BitVec 256) (src dst : DWord) (core : Nat),
    let e := plEntry s ix.toNat
    let b := e.bits
    let st := enTstage b
    e.issued = some (.ended sh src dst core) → s.pl.owner.isSome = true → enAsend b = false → enIn b = 0 → enStop b ≠ 2 →
    (∀ r ∈ s.fab.releases, r.done ≠ .entry ix.toNat) → (coreAt s core).peersWritten = [] →
    ∃ u, exec (.pleachEntryEnd ix) s = .next u ∧ (plEntry u ix.toNat).issued = none ∧ (plEntry u ix.toNat).bits = b ∧
      (enOut b = 0 → u.mesh = s.mesh) ∧
      (enOut b = 1 → plPeer? s s.pl.down = none →
        ∃ m : Message, u.mesh = s.mesh ++ [m] ∧ m.kind = .arrive st false 0 ∧ m.vnet = .sys) ∧
      (enOut b = 2 → plPeer? s s.pl.up = none →
        ∃ m : Message, u.mesh = s.mesh ++ [m] ∧ m.kind = .arrive st true 0 ∧ m.vnet = .sys) ∧
      (enOut b = 3 → (s.pl.arrG.getD st.toNat []).length < 16 →
        u.pl.arrG = s.pl.arrG.set st.toNat (s.pl.arrG.getD st.toNat [] ++ [.turn]))) ∧
  (∀ (s : State) (n : Nat) (m : Message) (st : BitVec 4) (g down : Bool) (count : BitVec 5) (src : DWord),
    let taken := { s with mesh := s.mesh.eraseIdx n }
    let ends := fun (i : Instr) (u : State) => exec i s = .next (acked u m)
    let credit := fun (p : Pleach) => if g = true then p.credG else p.credA
    let arrivals := fun (p : Pleach) => if g = true then p.arrG else p.arrA
    let old := (credit s.pl).getD st.toNat 0
    let q := (arrivals s.pl).getD st.toNat []
    s.mesh[n]? = some m → m.landed = true → m.peer = none → (∀ x ∈ s.mesh.take n, x.landed = false) →
    (m.kind = .slotgive st g down count → (s.pl.owner = none ∨ featureOn s 1 = false) →
      ends (.slotgiveMsg n) taken) ∧
    (m.kind = .slotgive st g down count → s.pl.owner.isSome = true → featureOn s 1 = true →
      ∃ u, ends (.slotgiveMsg n) u ∧ u = { taken with pl := u.pl } ∧
        credit u.pl = (credit s.pl).set st.toNat (min 16 (old + count.toNat)) ∧
        (16 < old + count.toNat → u.pl.running = false ∧ u.pl.status = s.pl.status ||| 8)) ∧
    (m.kind = .arrive st g src → s.pl.owner.isSome = true → featureOn s 1 = true →
      ∃ u, ends (.arrive n) u ∧ u = { taken with pl := u.pl } ∧
        (q.length < 16 → ∃ from_, arrivals u.pl = (arrivals s.pl).set st.toNat (q ++ [from_])) ∧
        (16 ≤ q.length → arrivals u.pl = arrivals s.pl ∧ u.pl.running = false ∧ u.pl.status = s.pl.status ||| 8))) ∧
  ∀ s : State, ∃ u, exec .plctlClr s = .next u ∧ u = { s with pl := u.pl } ∧
    ((s.pl.running = true ∨ ∃ x ∈ s.pl.entries, x.2.issued.isSome = true) → u = s) ∧
    (s.pl.running = false → (∀ x ∈ s.pl.entries, x.2.issued = none) →
      u.pl.status = 0 ∧ u.pl.clock = 0 ∧ u.pl.bubbles = List.replicate 7 0 ∧ u.pl.stash = List.replicate 16 64 ∧
      u.pl.credA = List.replicate 16 0 ∧ u.pl.credG = List.replicate 16 0 ∧ u.pl.arrA = List.replicate 16 [] ∧
      u.pl.arrG = List.replicate 16 [] ∧ u.pl.len = s.pl.len ∧ u.pl.head = s.pl.head ∧ u.pl.owner = s.pl.owner ∧
      ∀ x, (plEntry u x).bits = (plEntry s x).bits ∧ (plEntry u x).stamp = 0)

end Sys2Proof.Parts

/-- R26, R28, R321, R329 to R334 and R336: banks, slices, budgets, pre-emption and context images.
What the spec leaves open here is the model's choice: log 24, log 33, log 47, log 67, log 86, log 100. -/
def Obligations.SchedulingEvents : Prop :=
  Sys2Proof.Parts.Switching ∧ Sys2Proof.Parts.BudgetsAndSaves ∧ Sys2Proof.Parts.ImagesOfContexts

/-- R344 and R346 to R354: the Pleach table at work.
What the spec leaves open here is the model's choice: log 56, log 57. -/
def Obligations.PleachAtWork : Prop :=
  Sys2Proof.Parts.WalkCycles ∧ Sys2Proof.Parts.TableEvents

/-! ## The fabric -/

namespace Sys2Proof.Parts

/-- A received packet of a kind, new by the destination window (R385). -/
def Fresh (s : State) (n kind port : Nat) (b : List Byte) : Prop :=
  (∃ v, s.fab.rx[n]? = some (port, v, b)) ∧ pkKind b = kind ∧ received (peerAt s (pkSrc b)) (pkSeq b) = false

/-- The state once a packet has been taken and its SEQ marked. -/
def taken (s : State) (n : Nat) (b : List Byte) : State := modPeer (dropRx s n) (pkSrc b) (fun x => markSeq x (pkSeq b))

/-- An answer of a kind stands among the packets that a peer has not acknowledged: it begins with the SEQ it answers. -/
def Answered (u : State) (p : BitVec 10) (kind : BitVec 8) (q : BitVec 32) (body : List Byte) : Prop :=
  ∃ x ∈ (peerAt u p).unacked, x.kind = kind ∧ x.use = .answer ∧ pkBody x.bytes = bytesOf 4 q.toNat ++ body

/-- R385 and R386: a duplicate of any kind is dropped and its operation is not performed again: the answer that the part still keeps is
sent again, and otherwise a packet that wants none is acknowledged again. A copy of a ROP that is on its way to its unit is
dropped. Every packet that has been marked is a duplicate when it comes again. -/
def OncePerPacket : Prop :=
  ∀ (s : State) (n port v : Nat) (b : List Byte),
    let p := pkSrc b
    let q := pkSeq b
    let gone := dropRx s n
    let kept := (peerAt s p).unacked.find? (fun x => x.use == .answer && numAt x.bytes 16 4 == q.toNat)
    let acks := fun (i : Instr) => exec i s = .next (sendEack gone p q)
    let answers := fun (i : Instr) => ∀ x, kept = some x → exec i s = .next (route gone p x.seq.toNat (pktVnet x.kind .sys) x.bytes)
    s.fab.rx[n]? = some (port, v, b) →
    (received (peerAt s p) q = true →
      (pkKind b = 1 → acks (.msg n)) ∧ (pkKind b = 4 → acks (.rdata n)) ∧ (pkKind b = 6 → acks (.roprep n)) ∧
      (pkKind b = 8 → acks (.xrep n)) ∧ (pkKind b = 10 → acks (.invack n)) ∧ (pkKind b = 12 → acks (.markack n)) ∧
      (pkKind b = 2 → answers (.write n) ∧ (kept = none → acks (.write n))) ∧
      (pkKind b = 5 → answers (.rop n) ∧ (kept = none → acks (.rop n))) ∧
      (pkKind b = 3 → answers (.read n) ∧ (kept = none → exec (.read n) s = .next gone)) ∧
      (pkKind b = 7 → answers (.xreq n) ∧ (kept = none → exec (.xreq n) s = .next gone)) ∧
      (pkKind b = 9 → answers (.inval n) ∧ (kept = none → exec (.inval n) s = .next gone)) ∧
      (pkKind b = 11 → answers (.marker n) ∧ (kept = none → exec (.marker n) s = .next gone))) ∧
    (received (peerAt s p) q = false → pkKind b = 5 → ropTaken s p q = true → exec (.rop n) s = .next gone) ∧
    ∀ x : Peer, received (markSeq x q) q = true

/-- R384, R391 and R393: a WRITE stores its bytes at the place its walk gives, a READ is answered with the bytes there, and each that
cannot be is answered with its status. A ROP whose address passes the checks of its port goes to its unit, and counts as received once
its result has come back, with which it is answered or, for a rop.st, acknowledged. -/
def PeerAccesses : Prop :=
  ∀ (s : State) (n port : Nat) (b : List Byte),
    let p := pkSrc b
    let q := pkSeq b
    let body := pkBody b
    let s1 := taken s n b
    let va := numAt body 2 8
    let ctx : CtxId := BitVec.ofNat 12 (numAt body 0 2)
    let data := body.drop 14
    let w := portPlaces port ctx (numAt body 10 4) rW s1 (unitPieces va data.length 3)
    let r := portPlaces port ctx (numAt body 10 4) rR s1 (unitPieces va (numAt body 14 2) 3)
    (∀ pa, Fresh s n 2 port b → w.2 = .inl [(pa, data.length)] → plainMem pa = true →
      plainMem (pa + (data.length - 1)) = true → w.1.badLines = [] →
      ∃ u, exec (.write n) s = .next u ∧ u.fab.rx = s.fab.rx.eraseIdx n ∧ received (peerAt u p) q = true ∧
        ∀ a, Mem.byte u.mem a =
          if pa ≤ a ∧ a < pa + data.length then data.getD (a - pa) 0 else Mem.byte w.1.mem a) ∧
    (∀ st a, Fresh s n 2 port b → w.2 = .inr (st, a) → (peerAt w.1 p).unacked.length < 4096 →
      ∃ u, exec (.write n) s = .next u ∧ u.mem = w.1.mem ∧
        Answered u p 8 q (BitVec.ofNat 8 st :: bytesOf 8 a ++ bytesOf 6 0)) ∧
    (∀ pa k, Fresh s n 3 port b → r.2 = .inl [(pa, k)] → k ≤ 1024 → plainMem pa = true → plainMem (pa + (k - 1)) = true →
      r.1.badLines = [] → (peerAt r.1 p).unacked.length < 4096 →
      ∃ u, exec (.read n) s = .next u ∧ u.mem = r.1.mem ∧ received (peerAt u p) q = true ∧
        Answered u p 4 q (bytesOf 4 (numAt body 16 4) ++ [0] ++ Mem.bytes r.1.mem pa k)) ∧
    (∀ st a, Fresh s n 3 port b → r.2 = .inr (st, a) → (peerAt r.1 p).unacked.length < 4096 →
      ∃ u, exec (.read n) s = .next u ∧ Answered u p 4 q (bytesOf 4 (numAt body 16 4) ++ [BitVec.ofNat 8 st])) ∧
    (let ea := numAt body 0 8 % 2 ^ 52
     let rctx : CtxId := BitVec.ofNat 12 (numAt body 0 8 / 2 ^ 52)
     let aop := numAt body 8 1
     let gate := portAccess (dropRx s n) port rctx ea (numAt body 26 4) (ropRight aop)
     Fresh s n 5 port b → ropTaken s p q = false → aop < 6 →
      (∀ st, gate.2 = .inr st → (peerAt gate.1 p).unacked.length < 4096 →
        ∃ u, exec (.rop n) s = .next u ∧ u.mem = gate.1.mem ∧ u.mesh = gate.1.mesh ∧ received (peerAt u p) q = true ∧
          Answered u p 6 q ([BitVec.ofNat 8 st] ++ bytesOf 8 ea ++ bytesOf 16 0)) ∧
      (∀ pa, gate.2 = .inl pa → ∃ u j, exec (.rop n) s = .next u ∧
        u = { gate.1 with mesh := gate.1.mesh ++ [ropMessage (.ropReq j) .req (.opticalPort (BitVec.ofNat 5 port)) rctx] } ∧
        j.source = .peer p q port ∧ j.unit = nearUnit j.pa ∧ j.next = BitVec.ofNat 64 ea ∧ j.index = 0 ∧
        j.left = numAt body 9 1 % 16 + 1 ∧ j.e.ea = BitVec.ofNat 64 ea ∧ j.e.ctx = rctx ∧ j.e.aop = BitVec.ofNat 5 aop ∧
        j.e.fl = BitVec.ofNat 4 (numAt body 9 1) ∧ j.e.data = wordsOf 4 (numAt body 10 16) ∧ (j.e.kind = .ropSt ↔ aop = 1))) ∧
    ∀ (i at_ : Nat) (m : Message) (j : RopJob) (ws : List Word) (q' : BitVec 32), meshAt? s i = some m → m.peer = none →
      m.kind = .ropRes j (.done ws) → j.source = .peer p q' at_ → (peerAt s p).unacked.length < 4096 →
      ∃ u, exec (.messageArrival i) s = .next u ∧ u.mem = s.mem ∧ u.rf = s.rf ∧ u.mesh = s.mesh.eraseIdx i ∧
        received (peerAt u p) q' = true ∧
        (j.e.kind ≠ .ropSt → Answered u p 6 q' ([0] ++ bytesOf 8 j.e.ea.toNat ++ bytesOf 16 (natOfWords ws)))

/-- R290, R388, R391 and R392: a translation request that its page grants is answered with the page and sets the peer's bit
of REMOTE; an invalidation drops every translation of its extent, and is answered once the packets sent under them are done with; a
marker is answered once every packet
before it has been taken, and waits until then. -/
def PeerRequests : Prop :=
  ∀ (s : State) (n port : Nat) (b : List Byte),
    let p := pkSrc b
    let q := pkSeq b
    let body := pkBody b
    let s1 := taken s n b
    (∀ e x,
      let right := numAt body 10 1
      let r := portWalk s1 port (BitVec.ofNat 12 (numAt body 0 2)) (numAt body 2 8) 0xFFFFFFFF (right != rR)
      Fresh s n 7 port b → numAt body 2 8 < 2 ^ 52 → r.2 = .page e → e.rights.getLsbD right = true →
      AMap.get? r.1.map.nodes e.node = some x → (peerAt r.1 p).unacked.length < 4096 →
      ∃ u, exec (.xreq n) s = .next u ∧ u.mem = r.1.mem ∧
        AMap.get? u.map.nodes e.node = some { x with remote := x.remote ||| (1#64 <<< (p.toNat % 64)) } ∧
        Answered u p 8 q ([0] ++ bytesOf 8 e.va ++ bytesOf 1 e.psize.toNat ++ bytesOf 1 e.rights.toNat ++
          bytesOf 4 (handleOf e.node { x with remote := x.remote ||| (1#64 <<< (p.toNat % 64)) }))) ∧
    (Fresh s n 9 port b → s.fab.remoteInvals = [] → (peerAt s p).unacked.length < 4096 →
      let va := numAt body 68 8
      let len := numAt body 76 8
      let filter : BitVec 512 := BitVec.ofNat 512 (numAt body 0 64)
      let hit := fun (r : RemoteTr) => r.peer = p ∧ filter.getLsbD (r.ctx.toNat % 512) = true ∧
        meets r.va (pageBytes r.psize) va len = true
      let under := (peerAt s p).unacked.filter (fun x => packetIn x filter va len)
      ∃ u, exec (.inval n) s = .next u ∧ (∀ r, r ∈ u.fab.remote ↔ r ∈ s.fab.remote ∧ ¬hit r) ∧
        (under = [] → u.fab.remoteInvals = [] ∧ Answered u p 10 q (bytesOf 4 (numAt body 64 4))) ∧
        (under ≠ [] → ∃ v, u.fab.remoteInvals = [v] ∧ v.peer = p ∧ v.seq = q ∧ v.waits = under.map (·.seq))) ∧
    (Fresh s n 11 port b → (peerAt s p).markersIn = [] → (peerAt s p).unacked = [] →
      let m : BitVec 32 := BitVec.ofNat 32 (numAt body 4 4)
      ∃ u, exec (.marker n) s = .next u ∧ u = { s with fab := u.fab } ∧
        (performedTo (peerAt s1 p) m = true → Answered u p 12 q (bytesOf 4 (numAt body 0 4))) ∧
        (performedTo (peerAt s1 p) m = false →
          (peerAt u p).markersIn = [(q, BitVec.ofNat 32 (numAt body 0 4), m)] ∧ (peerAt u p).unacked = []))

/-- R386: the packet of this part that an answer names is kept no longer. -/
def Completes (s u : State) (p : BitVec 10) (q : BitVec 32) : Prop :=
  (peerAt s p).waiting = [] → (peerAt s p).markersIn = [] → s.fab.remoteInvals = [] → ∀ x ∈ (peerAt u p).unacked, x.seq ≠ q

/-- R195, R209, R388, R391 and R392: with no ROP waiting for its turn, an answer ends the packet that it names, and what that packet was for goes on: the bytes
of a READ stand in the run of their copy, a ROP's data enters its strand's registers, a translation is held, an invalidation
and a marker count for their peer. -/
def AnswersOfPeers : Prop :=
  ∀ (s : State) (n port : Nat) (b : List Byte) (x : SentPkt),
    let p := pkSrc b
    let body := pkBody b
    let q : BitVec 32 := BitVec.ofNat 32 (numAt body 0 4)
    (peerAt s p).unacked.find? (fun y => y.seq == q) = some x → s.fab.ropsHeld = [] →
    (∀ qu c r tok d, Fresh s n 4 port b → x.use = .copyRead qu tok → (queueAt s qu).copies = c :: r → c.tok = tok →
      c.peerData = some d → numAt body 8 1 = 0 →
      let off := numAt body 4 4
      let data := body.drop 9
      ∃ u, exec (.rdata n) s = .next u ∧ Completes s u p q ∧ (queueAt u qu).copies =
        { c with peerOut := c.peerOut - 1, peerData := some (d.take off ++ data ++ d.drop (off + data.length)) } :: r) ∧
    (∀ e k core, Fresh s n 6 port b → x.use = .rop e k core → ropWaits s e k core = true → numAt body 4 1 = 0 →
      let ws := wordsOf (if e.aop = 0 ∨ e.aop = 2 then 2 ^ e.fl.toNat else 2) (numAt body 13 16)
      ∃ u, exec (.roprep n) s = .next u ∧ Completes s u p q ∧
        (∀ j r, getS u j r = if j = k then loadedReg e.d ws r (getS s k r) else getS s j r) ∧
        strandAt u k = { strandAt s k with wait := .run, pc := (strandAt s k).pc + 4 }) ∧
    (∀ qu c r tok, Fresh s n 8 port b → x.use = .xreqCopy qu tok → (queueAt s qu).copies = c :: r → c.tok = tok →
      numAt body 4 1 = 0 →
      ∃ u, exec (.xrep n) s = .next u ∧ Completes s u p q ∧
        (∃ t ∈ u.fab.remote, t.peer = p ∧ t.ctx = c.ctx ∧ t.va = numAt body 5 8 ∧
          t.psize = BitVec.ofNat 2 (numAt body 13 1) ∧ t.rights = BitVec.ofNat 4 (numAt body 14 1) ∧
          t.handle = BitVec.ofNat 32 (numAt body 15 4)) ∧
        (queueAt u qu).copies = { c with peerOut := c.peerOut - 1 } :: r) ∧
    (∀ node, Fresh s n 10 port b → x.use = .inval node → ∃ u, exec (.invack n) s = .next u ∧ Completes s u p q ∧
      ∀ v ∈ u.map.invals, (p, node) ∉ v.peers) ∧
    (∀ core id rel g acq, Fresh s n 12 port b → x.use = .marker core id →
      s.fab.releases.find? (fun y => y.id == id) = some rel → (∀ y ∈ rel.peers, y = p) → rel.done = .phase g acq →
      ∃ u, exec (.markack n) s = .next u ∧ Completes s u p q ∧ (∀ y ∈ u.fab.releases, y.id ≠ id) ∧
        ∀ k ∈ strandsOfGroup g, (strandAt s k).wait = .fabric rel.id →
          strandAt u k = { strandAt s k with wait := .run, pc := (strandAt s k).pc + 4 })

/-- R385 and R386: an acknowledgement ends exactly the packets that its bitmap names, where no ROP waits for its turn, no access
waits behind one, and none is a rop.st that a replay has sent again. -/
def Acknowledgements : Prop :=
  ∀ (s : State) (n port v : Nat) (b : List Byte),
    let p := pkSrc b
    let base : BitVec 32 := BitVec.ofNat 32 (numAt (pkBody b) 0 4)
    let bits : BitVec 64 := BitVec.ofNat 64 (numAt (pkBody b) 4 8)
    s.fab.rx[n]? = some (port, v, b) → pkKind b = 13 → (peerAt s p).waiting = [] → s.fab.remoteInvals = [] →
    s.fab.ropsHeld = [] → (∀ x ∈ (peerAt s p).unacked, ∀ e core, x.use = .ropSt e core → e.sent = false) →
    (∀ c ∈ s.cores, ∀ e ∈ c.2.parked, e.due = false) →
    ∃ u, exec (.eack n) s = .next u ∧ u.fab.rx = s.fab.rx.eraseIdx n ∧
      (peerAt u p).unacked = (peerAt s p).unacked.filter (fun x => !bits.getLsbD (x.seq - base).toNat)

/-- R384 and R387: the message next in the order of its source and VNET goes from the message router to its receiver, and its packet,
which it carries, is not yet received; a copy of one that is on its way is dropped; an early one is kept, once, while fewer than 64
are. -/
def MessagesOfPeers : Prop :=
  ∀ (s : State) (n port v : Nat) (b : List Byte),
    let p := pkSrc b
    let x := peerAt s p
    let ahead := (pkOseq b - x.oseqIn.getD v 0).toNat
    let before := (s.fab.rx.take n).filter (fun y => pkKind y.2.2 == 1 && pkSrc y.2.2 == p && y.2.1 == v)
    s.fab.rx[n]? = some (port, v, b) → pkKind b = 1 → received x (pkSeq b) = false →
    (ahead = 0 → ∃ u m, exec (.msg n) s = .next u ∧ u = { s with fab := u.fab, mesh := s.mesh ++ [m] } ∧
      m = { messageOf p (vnetOf v) (pkBody b) with ack := some (p, pkSeq b) } ∧ u.fab.rx = s.fab.rx.eraseIdx n ∧
      received (peerAt u p) (pkSeq b) = false ∧ (v < x.oseqIn.length → (peerAt u p).oseqIn.getD v 0 = pkOseq b + 1)) ∧
    (2 ^ 31 ≤ ahead → exec (.msg n) s = .next (dropRx s n)) ∧
    (0 < ahead → ahead < 2 ^ 31 →
      (before.length < 64 → (∀ y ∈ before, pkSeq y.2.2 ≠ pkSeq b) → exec (.msg n) s = .next s) ∧
      (64 ≤ before.length ∨ (∃ y ∈ before, pkSeq y.2.2 = pkSeq b) → exec (.msg n) s = .next (dropRx s n)))

/-- R385 and R389: a packet to a peer of the group that is late starts its timer again, and its eighth expiry clears CONN, with one
record; a peer that has left the group keeps no packet with an answer's, and its copies end in error. -/
def LossOfPeers : Prop :=
  ∀ (s : State) (p : BitVec 10),
    (∀ (q : BitVec 32) (x : SentPkt), (peerAt s p).unacked = [x] → x.seq = q →
      (s.now < x.sentAt + 160000 ∨ connected s p = false → exec (.e2eRetransmit p q) s = .next s) ∧
      (x.sentAt + 160000 ≤ s.now → connected s p = true → x.expiries ≠ 7 → ∃ u, exec (.e2eRetransmit p q) s = .next u ∧
        u = { s with fab := u.fab } ∧ (peerAt u p).unacked = [{ x with sentAt := s.now, expiries := x.expiries + 1 }]) ∧
      (x.sentAt + 160000 ≤ s.now → connected s p = true → x.expiries = 7 → ∃ u, exec (.e2eRetransmit p q) s = .next u ∧
        (AMap.getD u.fab.table p.toNat 0).getLsbD 63 = false ∧
        u.mgmt.fevOut = s.mgmt.fevOut ++ [[0xFF, 4] ++ bytesOf 6 0 ++ bytesOf 8 (s.fab.time / 8) ++ bytesOf 16 0])) ∧
    (connected s p = true → exec (.peerDisconnect p) s = .next s) ∧
    (connected s p = false → ∃ u, exec (.peerDisconnect p) s = .next u ∧ (∀ r ∈ u.fab.remote, r.peer ≠ p)) ∧
    ∀ (x : SentPkt) (q : Nat) (tok : TokRef) (c : Copy) (r : List Copy),
      connected s p = false → (peerAt s p).unacked = [x] → (peerAt s p).waiting = [] → s.fab.ropsHeld = [] →
      (∀ k ∈ s.cores, ∀ e ∈ k.2.parked ++ k.2.sidelog, entryPeer? s e ≠ some p) →
      s.map.invals = [] → x.use = .copyRead q tok → (queueAt s q).copies = c :: r → c.tok = tok →
      ∃ u d, exec (.peerDisconnect p) s = .next u ∧ (peerAt u p).unacked = [] ∧ (queueAt u q).copies = d :: r ∧
        d.done = true ∧ d.error = true ∧ d.tok = tok

/-- R379 and R380, on a direction with light that is not being restriped: a corrupt flit is discarded and changes nothing that has been
received; the DATA flit with the expected number is accepted, any other is discarded. For the first flit that is missing an RREQ with
the expected number goes out, and another at most once in 1 µs. The accepted copy of a flit that came corrupt is counted as a
transient error. A LACK frees the flits up to it. A replay request, or 2 µs since the oldest unacknowledged flit was sent, makes the
sender send every one of them again; while its replay buffer is full it sends no new one. -/
def LinkReplay : Prop :=
  (∀ (s : State) (port : BitVec 5), featureOn s 4 = true →
    let p := port.toNat
    let x := portAt s p
    let now := s.fab.time
    let again : Port := { x with tx := { x.tx with again := x.tx.replay.length } }
    let asks := fun (y : Port) => y.rx.rreqAt = some now ∧
      AMap.get? y.ctl 2 = some (mkFlit 2 0 0 ((x.rx.expect + 4095) % 4096) (bytesOf 2 x.rx.expect))
    let mayAsk := fun (y : Port) => (x.rx.rreqAt = none → asks y) ∧
      ∀ t, x.rx.rreqAt = some t → (t + 8000 ≤ now → asks y) ∧ (now < t + 8000 → y.rx.rreqAt = some t ∧ y.ctl = x.ctl)
    (∀ (f : List Byte) (par : BitVec 16), x.rx.width ≠ 0 → x.rx.restripe = none →
      (corruptFlit f = true → ∃ u, exec (.linkFlit port f par) s = .next u ∧
        u = { s with fab := { s.fab with ports := u.fab.ports } } ∧ (portAt u p).rx.expect = x.rx.expect ∧
        (portAt u p).tx = x.tx ∧ (portAt u p).parts = x.parts ∧ (portAt u p).transient = x.transient ∧ mayAsk (portAt u p)) ∧
      (corruptFlit f = false → flType f = 1 → x.rx.awaits = none → ∃ u, exec (.linkFlit port f par) s = .next u ∧
        u = { s with fab := u.fab } ∧
        (flLseq f = x.rx.expect →
          (portAt u p).rx.expect = (x.rx.expect + 1) % 4096 ∧ (portAt u p).rx.rreqAt = none ∧
          (x.rx.corrupt = [] → x.rx.since = [] → (portAt u p).transient = x.transient) ∧
          (∀ par', x.rx.corrupt = [] → x.rx.since = [(true, par')] → x.rx.last < 4096 →
            x.rx.expect = (x.rx.last + 1) % 4096 → (portAt u p).transient = x.transient + 1)) ∧
        (flLseq f ≠ x.rx.expect →
          (portAt u p).rx.expect = x.rx.expect ∧ u.fab.rx = s.fab.rx ∧ (portAt u p).parts = x.parts ∧
          (portAt u p).transient = x.transient ∧ (seenBefore x.rx.expect (flLseq f) = false → mayAsk (portAt u p)) ∧
          (seenBefore x.rx.expect (flLseq f) = true → (portAt u p).rx.rreqAt = x.rx.rreqAt)) ∧
        (flAckv f = true → ∀ a y c, x.tx.replay = a ++ y :: c → (∀ z ∈ a, z.1 ≠ flLack f) → y.1 = flLack f →
          (portAt u p).tx.replay = c))) ∧
    (∃ u, exec (.rreq port) s = .next u ∧ u = { s with fab := u.fab } ∧ portAt u p = again) ∧
    (∀ t, x.rx.rreqAt = some t → x.rx.restripe = none →
      (now < t + 8000 → exec (.rreqResend port) s = .next s) ∧
      (t + 8000 ≤ now → ∃ u, exec (.rreqResend port) s = .next u ∧ u = { s with fab := u.fab } ∧ asks (portAt u p))) ∧
    ∀ t r, x.tx.width ≠ 0 → x.tx.restripe = none → x.tx.again < x.tx.replay.length → x.tx.times = t :: r →
      (now < t + 16000 → exec (.linkReplayTimeout port) s = .next s) ∧
      (t + 16000 ≤ now → ∃ u, exec (.linkReplayTimeout port) s = .next u ∧ u = { s with fab := u.fab } ∧ portAt u p = again)) ∧
  ∀ (d : LinkDir) (e stop n : Nat), d.again = 0 → 512 ≤ d.replay.length → sendFlits e stop n d = d

/-- R378 and R380 to R382: lost light, a returned wavelength and a lasting error begin a restripe of their direction, or join
the one in progress, and errors until then no longer count. The end that transmits agrees with an LCTL flit as soon as it is told, and
the end that receives restarts no sooner than the agreement has come. The direction restarts with four wavelengths for each source none
of whose wavelengths is dark, its sender sends every unacknowledged flit again, and each end writes one record: the sender as it
restarts, the receiver with the first flit, or as it restarts where all is dark. -/
def Restripes : Prop :=
  ∀ (s : State) (port : BitVec 5) (tx : Bool) (waves : BitVec 16), featureOn s 4 = true →
    let p := port.toNat
    let dir := fun (u : State) (t : Bool) => if t = true then (portAt u p).tx else (portAt u p).rx
    let d := dir s tx
    let up := ((List.range 4).filter (fun k => d.dark.extractLsb' (4 * k) 4 == 0)).length
    let width := 4 * up
    let first := fun (l : Bool) =>
      match d.restripe, d.awaits with
      | some r, _ => { r with lasting := r.lasting || l }
      | none, some r => { r with lasting := r.lasting || l }
      | none, none => (⟨s.fab.time, d.width, l⟩ : Restripe)
    let begins := fun (i : Instr) (l : Bool) (dark : BitVec 16) => ∃ u, exec i s = .next u ∧ u = { s with fab := u.fab } ∧
      dir u (!tx) = dir s (!tx) ∧ dir u tx = { d with
        dark := dark, corrupt := [], lasting := none, since := [], restripe := some (first l), agreed := none, awaits := none } ∧
      (tx = true → AMap.get? (portAt u p).ctl 3 =
        some (mkFlit 3 0 0 (((dir s false).expect + 4095) % 4096) (lctlPayload dark true l d.nextSeq)))
    let record := fun (u : State) (r : Restripe) (replayed : Nat) => ∃ rec_, u.mgmt.fevOut = s.mgmt.fevOut ++ [rec_] ∧
      rec_.length = 32 ∧ rec_.headD 0 = BitVec.ofNat 8 p ∧
      rec_.getD 1 0 = BitVec.ofNat 8 ((if tx = true then 1 else 0) + (if r.lasting = true then 2 else 0) + (if width = 0 then 4 else 0)) ∧
      (rec_.drop 2).take 2 = bytesOf 2 d.dark.toNat ∧ rec_.getD 4 0 = BitVec.ofNat 8 r.width ∧
      rec_.getD 5 0 = BitVec.ofNat 8 width ∧ (rec_.drop 8).take 8 = bytesOf 8 (r.time / 8) ∧
      (rec_.drop 16).take 4 = bytesOf 4 replayed ∧ (rec_.drop 20).take 4 = bytesOf 4 ((s.fab.time - r.time) / 8)
    (d.dark ||| waves = d.dark → exec (.lossOfLight port tx waves) s = .next s) ∧
    (d.dark ||| waves ≠ d.dark → begins (.lossOfLight port tx waves) false (d.dark ||| waves)) ∧
    (d.dark &&& waves ≠ 0 → begins (.wavelengthReturn port tx waves) false (d.dark &&& ~~~waves)) ∧
    (tx = false → d.lasting = some waves → begins (.lastingLinkError port) true (d.dark ||| waves)) ∧
    (∀ (f : List Byte) (par dark : BitVec 16) (r : Restripe), corruptFlit f = false → flType f = 3 → flAckv f = false →
      dark = BitVec.ofNat 16 (numAt f 0 2) →
      (tx = true → numAt f 2 1 % 2 = 0 → dark ≠ d.dark →
        begins (.linkFlit port f par) (numAt f 2 1 / 2 % 2 == 1) dark) ∧
      (tx = false → numAt f 2 1 % 2 = 1 → d.restripe = some r → dark = d.dark →
        ∃ u, exec (.linkFlit port f par) s = .next u ∧ dir u false = { d with agreed := some (numAt f 3 2 % 4096) })) ∧
    (∀ r, d.restripe = some r →
      (tx = true → ∃ u, exec (.restripeRestart port tx) s = .next u ∧
        dir u tx = { d with restripe := none, width := width, again := d.replay.length } ∧
        record u r (if width = 0 then 0 else d.replay.length)) ∧
      (tx = false → width = 0 → ∃ u, exec (.restripeRestart port tx) s = .next u ∧
        dir u tx = { d with restripe := none, width := 0, agreed := none } ∧ record u r 0) ∧
      (tx = false → width ≠ 0 → d.agreed = none → exec (.restripeRestart port tx) s = .next s) ∧
      (tx = false → width ≠ 0 → d.agreed.isSome = true → ∃ u, exec (.restripeRestart port tx) s = .next u ∧
        u = { s with fab := u.fab } ∧ dir u tx = { d with restripe := none, width := width, awaits := some r })) ∧
    ∀ (f : List Byte) (par : BitVec 16) (r : Restripe) (next : Nat), tx = false → corruptFlit f = false → flType f = 1 →
      d.width ≠ 0 → d.restripe = none → d.awaits = some r → d.agreed = some next → flLseq f ≤ next → next < 4096 →
      ∃ u, exec (.linkFlit port f par) s = .next u ∧ (dir u false).awaits = none ∧ (dir u false).agreed = none ∧
        record u r (next - flLseq f)

end Sys2Proof.Parts

/-- R195, R209, R234, R235, R290, R384 to R389, R391, R392 and R394: the packets of peers, their answers, and the loss
of a peer.
What the spec leaves open here is the model's choice: log 13, log 59, log 80, log 103. -/
def Obligations.FabricPackets : Prop :=
  Sys2Proof.Parts.OncePerPacket ∧ Sys2Proof.Parts.PeerAccesses ∧ Sys2Proof.Parts.PeerRequests ∧ Sys2Proof.Parts.AnswersOfPeers ∧ Sys2Proof.Parts.Acknowledgements ∧ Sys2Proof.Parts.MessagesOfPeers ∧ Sys2Proof.Parts.LossOfPeers

/-- R378 to R382: link flits, replay, and restripes.
What the spec leaves open here is the model's choice: log 26, log 60. -/
def Obligations.LinksAndRestripes : Prop :=
  Sys2Proof.Parts.LinkReplay ∧ Sys2Proof.Parts.Restripes

/-! ## The host -/

namespace Sys2Proof.Parts

/-- The slot of the post at the head of a window, for an operation that its function may post now (R397, R404, R407). -/
def Head (s : State) (fn : BitVec 6) (op : Nat) (x : Slot) : Prop :=
  (∃ p r, (windowAt s fn).posts = p :: r ∧ x = slotOf p) ∧ x.op = op ∧ x.rsv = 0 ∧ x.words ≤ 12 ∧ postDenied s fn op = false

/-- The identifier that the next post of a window takes (R434). -/
def nextId (s : State) (fn : BitVec 6) : Word := dieId kReq fn.toNat (windowAt s fn).idCount

/-- R398 and R399: the post has left its window and its reply entry follows those that wait; with none waiting and room in
the ring it stands in host memory at the tail, which has moved on; RRBASE names a page (log 50). -/
def Entered (s u : State) (fn : BitVec 6) (x : Slot) (st : Nat) (a0 : DWord) : Prop :=
  let w := windowAt s fn
  let v := windowAt u fn
  let e := replyEntry (nextId s fn) x.tag st a0 0 []
  let a := w.rrBase.toNat / 4096 * 4096 + w.rrTail * 128
  v.posts = w.posts.tail ∧ v.idCount = w.idCount + 1 ∧ v.laters = w.laters ∧ v.sends = w.sends ∧
    (ringRoom w.rrTail w.rrHead w.rrSize = false → v.replies = w.replies ++ [(true, e)] ∧ v.rrTail = w.rrTail) ∧
    (ringRoom w.rrTail w.rrHead w.rrSize = true → w.replies = [] →
      v.replies = [] ∧ v.rrTail = (w.rrTail + 1) % 2 ^ w.rrSize ∧
      (plainMem a = true → plainMem (a + 127) = true → s.badLines = [] → Mem.bytes u.mem a 128 = e))

/-- R398: the post has left its window and its entry is owed. -/
def Owed (s u : State) (fn : BitVec 6) (x : Slot) : Prop :=
  let w := windowAt s fn
  let v := windowAt u fn
  v.posts = w.posts.tail ∧ v.idCount = w.idCount + 1 ∧ v.laters = w.laters ++ [laterTag (nextId s fn) x.tag] ∧ v.replies = w.replies

/-- The events of the window operations (R397). -/
def WindowEvent (fn : BitVec 6) (op : Nat) (i : Instr) : Prop :=
  (op = 0x00 ∧ i = .hostSend fn) ∨ (op = 0x01 ∧ i = .hostMap fn) ∨ (op = 0x02 ∧ i = .hostGrant fn) ∨
    (op = 0x03 ∧ i = .hostUnmap fn) ∨ (op = 0x04 ∧ i = .hostMquery fn) ∨ (op = 0x05 ∧ i = .reserve fn) ∨
    (op = 0x06 ∧ i = .migrate fn) ∨ (op = 0x07 ∧ i = .hostReplay fn) ∨ (op = 0x10 ∧ i = .partcreate fn) ∨
    (op = 0x11 ∧ i = .partdestroy fn) ∨ (op = 0x12 ∧ i = .ctxcreate fn) ∨ (op = 0x13 ∧ i = .ctxdestroy fn) ∨
    (op = 0x14 ∧ i = .place fn) ∨ (op = 0x15 ∧ i = .save fn) ∨ (op = 0x16 ∧ i = .capset fn) ∨ (op = 0x17 ∧ i = .plassign fn)

/-- R397, R398, R404 and R407: a post of no operation, or with a reserved field set, is answered BADOP, and one whose function
has no right to it DENIED; neither does anything else. -/
def PostChecks : Prop :=
  ∀ (s : State) (fn : BitVec 6) (p : Post) (r : List Post) (op : Nat) (i : Instr),
    let x := slotOf p
    let only := fun (u : State) => u.tasks = s.tasks ∧ u.ctxs = s.ctxs ∧ u.parts = s.parts ∧ u.mesh = s.mesh ∧ u.fab = s.fab
    (windowAt s fn).posts = p :: r → WindowEvent fn op i →
    (allocatedOp x.op = false ∨ (x.op = op ∧ (x.rsv ≠ 0 ∨ 12 < x.words)) →
      ∃ u, exec i s = .next u ∧ only u ∧ Entered s u fn x 0x20 0) ∧
    (x.op = op → x.rsv = 0 → x.words ≤ 12 → postDenied s fn x.op = true →
      ∃ u, exec i s = .next u ∧ only u ∧ Entered s u fn x 0x21 0) ∧
    (allocatedOp x.op = true → x.op ≠ op → exec i s = .next s)

/-- R232, R397 and R398: a SEND to a context of this part that the function may name puts its message into the mesh, and its
entry waits for the delivery. -/
def WindowSend : Prop :=
  ∀ (s : State) (fn : BitVec 6) (x : Slot) (ctx : CtxId),
    Head s fn 0x00 x → issuerOf? s fn = some ctx → badDest x.dw x.words = false → x.dw.getLsbD 52 = false →
    x.dw.getLsbD 63 = false → otherPart s fn (x.dw.extractLsb' 32 12) = false →
    ∃ (u : State) (m : Message), exec (.hostSend fn) s = .next u ∧ u.mesh = s.mesh ++ [m] ∧ m.kind = .task ∧
      m.core = x.dw.extractLsb' 16 8 ∧ m.ctx = x.dw.extractLsb' 32 12 ∧ m.slot = x.dw.extractLsb' 0 6 ∧
      m.id = nextId s fn ∧ m.a0 = x.a0 ∧ m.a1 = x.a1 ∧ m.payload = x.payload.take x.words ∧
      m.origin = ⟨none, 0, ctx, some fn⟩ ∧ (windowAt u fn).posts = (windowAt s fn).posts.tail ∧
      (windowAt u fn).sends = (windowAt s fn).sends ++ [(nextId s fn, x.tag)]

/-- R247 to R249, R286, R296 and R397: the mapping operations of a window do to the tree what their instructions do, and answer
in an entry, at once or later; RESERVE makes a node without memory for whichever owner the host names, and MIGRATE queues a migration. -/
def WindowMapping : Prop :=
  ∀ (s : State) (fn : BitVec 6) (x : Slot) (me : CtxId),
    let who : ReplyTo := .host fn (laterTag (nextId s fn) x.tag)
    let target : CtxId := x.a0.setWidth 12
    let ends := fun (i : Instr) (t : State × MapDone) => ∃ u, exec i s = .next u ∧ u.map = t.1.map ∧
      ((∃ v, t.2 = .reply v ∧ Entered s u fn x 0 v) ∨ (t.2 = .later ∧ Owed s u fn x))
    issuerOf? s fn = some me → s.map.stopped = false → s.badLines = [] →
    (∀ (grant : Bool) (i : Instr), Head s fn (if grant = true then 2 else 1) x →
      i = (if grant = true then .hostGrant fn else .hostMap fn) → x.a0.getLsbD 63 = false → otherPart s fn target = false →
      ends i (mapOrGrant s grant me.toNat target.toNat (noTarget s fn target) (x.a0.extractLsb' 12 52 != 0) (slotRequest x) who)) ∧
    (Head s fn 3 x → ends (.hostUnmap fn) (unmapNode s me.toNat x.a0 who)) ∧
    (Head s fn 4 x → ends (.hostMquery fn) (s, .reply (queryNode s me.toNat x.a0))) ∧
    (∀ (owner : CtxId),
      let r : MapReq := { slotRequest x with src := 0 }
      Head s fn 5 x → x.a1 = owner.setWidth 64 → x.a0.extractLsb' 12 52 = 0 → noTarget s fn target = false → r.bad = false →
      badForm r target.toNat = false → mapped s.map target.toNat r.dst r.bytes = false → s.map.nodes.length < 2 ^ 22 - 1 →
      s.map.tables.length + (newTables s.map target.toNat r.dst r.bytes (r.psize == 2)).length + (owedTables s.map).length ≤
        tableLimit →
      ∃ u i n, exec (.reserve fn) s = .next u ∧ nodeAt? u.map i = some n ∧ n.unbacked = true ∧ n.owner = owner ∧
        n.space = target.toNat ∧ n.va = r.dst ∧ n.pages = r.pages ∧ n.psize = r.psize ∧ n.rights = r.rights ∧
        Entered s u fn x 0 (BitVec.ofNat 64 (handleOf i n * 2 ^ 32)) ∧
        (r.psize ≠ 2 → ∀ p, p < r.bytes / 2 ^ 19 → ∃ l, AMap.get? u.map.leaf3 (target.toNat * 2 ^ 33 + r.dst / 2 ^ 19 + p) = some l ∧
          l.pres = false ∧ l.node = i ∧ l.psize = r.psize) ∧
        (r.psize = 2 → ∀ p, p < r.bytes / 2 ^ 30 → ∃ l, AMap.get? u.map.leaf2 (target.toNat * 2 ^ 22 + r.dst / 2 ^ 30 + p) = some l ∧
          l.pres = false ∧ l.node = i)) ∧
    (∀ g, Head s fn 6 x → featureOn s 7 = true → x.a0.extractLsb' 12 52 = 0 → (x.word 0).extractLsb' 25 39 = 0 →
      plainMem (((x.word 0).setWidth 25 : BitVec 25).toNat * 2 ^ 19) = true →
      hostMigration s target x.a1.toNat ((x.word 0).setWidth 25) who = .inr g →
      ∃ u, exec (.migrate fn) s = .next u ∧ u.map = { s.map with migrations := s.map.migrations ++ [g] } ∧ Owed s u fn x)

/-- R256 and R397: REPLAY of a context begins the replay of its parked entries on every core that has some. -/
def WindowReplay : Prop :=
  ∀ (s : State) (fn : BitVec 6) (x : Slot) (ctx : CtxId) (c : Ctx), Head s fn 7 x → x.a0 = ctx.setWidth 64 → ctx ≠ 0 →
    ctxAt? s ctx = some c → otherPart s fn ctx = false →
    let t := replayCoppiced (retryUnits s ctx) ctx (fun _ => true)
    ∃ u, exec (.hostReplay fn) s = .next u ∧ Entered t u fn x 0 0 ∧
      u.replays = t.replays ++ (if replayCores t ctx = [] then [] else [⟨ctx, replayCores t ctx, .nobody⟩])

/-- R401: PARTCREATE makes the partition that its arguments describe, for virtual functions with a guest root whose space is the
identity, once no node of an ended space of the same number is left to reclaim (log 33); PARTDESTROY ends one with none of its contexts placed, and its contexts. -/
def WindowPartitions : Prop :=
  ∀ (s : State) (x : Slot),
    let n := x.a0.toNat % 8
    (Head s 0 0x10 x → badPart s x = false → stillReclaimed true s (4096 + n) = false →
      (x.word 1 ≠ 0 → stillReclaimed true s ((x.word 3).setWidth 12 : CtxId).toNat = false) →
      ∃ u p, exec (.partcreate 0) s = .next u ∧ Entered s u 0 x 0 0 ∧ AMap.get? u.parts n = some p ∧
        p.resident = x.a0.getLsbD 8 ∧ p.clusters = x.a1.setWidth 32 ∧ p.cbBase = (x.word 0).toNat ∧ p.vfs = x.word 1 ∧
        p.ctxFirst = (x.word 2).toNat % 2 ^ 12 ∧ p.ctxCount = (x.word 2).toNat / 2 ^ 16 % 2 ^ 12 ∧
        p.guest = (x.word 3).setWidth 12 ∧ (∀ m, m ≠ n → AMap.get? u.parts m = AMap.get? s.parts m) ∧
        (x.word 1 ≠ 0 → ∃ i r, nodeAt? u.map i = some r ∧ r.parent = none ∧ r.space = p.guest.toNat ∧ r.rights = 0x1F ∧
          r.va = 0 ∧ r.pva = 0 ∧ r.pages = 2 ^ 25)) ∧
    (∀ q, Head s 0 0x11 x → AMap.get? s.parts n = some q → x.a0.extractLsb' 3 61 = 0 →
      (∀ e ∈ s.ctxs, e.2.part = n → e.2.clusters = [] ∧ e.2.routerHeld = []) →
      ∃ u, exec (.partdestroy 0) s = .next u ∧ Entered s u 0 x 0 0 ∧ AMap.get? u.parts n = none ∧
        ∀ ctx c, ctxAt? u ctx = some c → c.part ≠ n) ∧
    (∀ e ∈ s.ctxs, Head s 0 0x11 x → (AMap.get? s.parts n).isSome = true → x.a0.extractLsb' 3 61 = 0 → e.2.part = n →
      e.2.clusters ≠ [] → ∃ u, exec (.partdestroy 0) s = .next u ∧ Entered s u 0 x 0x23 0 ∧ u.parts = s.parts)

/-- R320, R330, R336, R401 and R403: CTXCREATE makes a context with its supervisor's binding, once no node of an ended space of its
number is left to reclaim (log 33), CTXDESTROY ends one that is not
placed, PLACE puts one without an image on its clusters, whose windows read zero, SAVE asks for an image, and CAPSET writes
an entry of the capability table. -/
def WindowContexts : Prop :=
  ∀ (s : State) (x : Slot) (ctx : CtxId),
    let w := windowAt s 0
    let ring := w.rrBase.toNat / 4096 * 4096 + w.rrTail * 128
    (∀ n p, Head s 0 0x12 x → x.a0 = ctx.setWidth 64 → partOfNumber? s ctx = some (n, p) → badCtxArgs s p ctx x = false →
      stillReclaimed false s ctx.toNat = false → s.map.tables.length < tableLimit →
      ∃ u d b, exec (.ctxcreate 0) s = .next u ∧ Entered s u 0 x 0 0 ∧ ctxAt? u ctx = some d ∧ d.part = n ∧
        d.clusters = [] ∧ AMap.get? d.binds 64 = some b ∧ b.entry = (x.word 6).setWidth 52 ∧
        d.coppiceList = (x.word 0).setWidth 52 ∧ d.ovfBase = (x.word 1).toNat ∧ d.ovfLog = (x.word 2).toNat ∧
        d.imageBase = (x.word 3).toNat ∧ d.imageSize = (x.word 4).toNat ∧ d.capBase = x.a1.toNat ∧
        d.parkLim = 50000 ∧ d.budget = 0x01000000 ∧ ∀ k, k ≠ ctx → ctxAt? u k = ctxAt? s k) ∧
    ∀ c, ctxAt? s ctx = some c → x.a0 = ctx.setWidth 64 →
      (Head s 0 0x13 x → c.clusters = [] → c.routerHeld = [] →
        ∃ u, exec (.ctxdestroy 0) s = .next u ∧ Entered s u 0 x 0 0 ∧ ctxAt? u ctx = none) ∧
      (Head s 0 0x13 x → c.clusters ≠ [] →
        ∃ u, exec (.ctxdestroy 0) s = .next u ∧ Entered s u 0 x 0x23 0 ∧ u.ctxs = s.ctxs) ∧
      (∀ m : BitVec 32, Head s 0 0x14 x → x.a1 = m.setWidth 64 → m ≠ 0 → c.clusters = [] →
        m &&& ~~~(((AMap.get? s.parts c.part).map (·.clusters)).getD 0) = 0 → (∀ y ∈ clustersOf m, canOwn s ctx y = true) →
        AMap.get? s.images c.imageBase = none →
        ∃ u d, exec (.place 0) s = .next u ∧ Entered s u 0 x 0 0 ∧ ctxAt? u ctx = some d ∧ d.clusters = clustersOf m ∧
          ∀ y ∈ clustersOf m,
            ((clusterAt u y.toNat).lower = some ctx ∨ (clusterAt u y.toNat).upper = some ctx) ∧
            (residentPart s ctx = false → ∀ a, a < 2 ^ 23 → Mem.byte u.cluwin (y.toNat * 2 ^ 23 + a) = 0)) ∧
      (Head s 0 0x15 x → (x.a1 = 2 ∨ x.a1 = 3) → (x.word 0).toNat ≤ 1 → c.clusters ≠ [] → c.plan = none →
        ∃ u d, exec (.save 0) s = .next u ∧ Owed s u 0 x ∧ ctxAt? u ctx = some d ∧
          d.plan = some ⟨x.a1.toNat, x.word 0 == 1, .host 0 (laterTag (nextId s 0) x.tag)⟩ ∧
          ∀ y ∈ c.clusters, ctx ∈ (clusterAt u y.toNat).preempt) ∧
      (Head s 0 0x16 x → x.a1.toNat < 256 → (x.word 0).extractLsb' 52 12 = 0 → (x.word 0).extractLsb' 13 27 = 0 →
        (x.word 0).extractLsb' 1 3 = 0 → s.badLines = [] → w.replies = [] →
        ∃ u, exec (.capset 0) s = .next u ∧ Entered s u 0 x 0 0 ∧
          ∀ i, i < 8 →
            let a := c.capBase + 8 * x.a1.toNat + i
            plainMem a = true → (a < ring ∨ ring + 128 ≤ a) →
            Mem.byte u.mem a = (x.word 0).extractLsb' (8 * i) 8)

/-- R340 and R407: PLASSIGN gives the Pleach table to a context, or takes it away. -/
def WindowTable : Prop :=
  ∀ (s : State) (x : Slot) (ctx : CtxId) (c : Ctx), Head s 0 0x17 x → featureOn s 1 = true →
    (x.a0 = 0x80000000 ||| ctx.setWidth 64 → ctxAt? s ctx = some c → ∃ u, exec (.plassign 0) s = .next u ∧
      u.pl = { s.pl with owner := some ctx } ∧ Entered s u 0 x 0 0) ∧
    (x.a0 = 0 → ∃ u, exec (.plassign 0) s = .next u ∧ u.pl = { s.pl with owner := none } ∧ Entered s u 0 x 0 0)

end Sys2Proof.Parts

/-- R232, R256, R340, R397, R398, R404 and R407: posts, SEND, REPLAY and PLASSIGN of the message windows.
What the spec leaves open here is the model's choice: log 29, log 32. -/
def Obligations.WindowPosts : Prop :=
  Sys2Proof.Parts.PostChecks ∧ Sys2Proof.Parts.WindowSend ∧ Sys2Proof.Parts.WindowReplay ∧ Sys2Proof.Parts.WindowTable

/-- R247 to R249, R286, R296 and R397: the mapping operations of the message windows.
What the spec leaves open here is the model's choice: log 30, log 31, log 17. -/
def Obligations.WindowMappings : Prop :=
  Sys2Proof.Parts.WindowMapping

/-- R320, R330, R336, R401 and R403: partitions and contexts made, placed, saved and ended by the host.
What the spec leaves open here is the model's choice: log 33, log 63, log 65. -/
def Obligations.WindowPlacements : Prop :=
  Sys2Proof.Parts.WindowPartitions ∧ Sys2Proof.Parts.WindowContexts

/-! ## Privet services and management -/

namespace Sys2Proof.Parts

/-- A CINV of a group for a service, which waits for nothing and whose block's page is present. -/
def Calling (s : State) (n k : Nat) (c : Call) (g : Nat) : Prop :=
  AMap.get? s.calls n = some c ∧ c.service.toNat = k ∧ c.absent = none ∧ c.unmapping = false ∧ c.slot = false ∧
    c.gkey = some g ∧ blockAway? s c = none

/-- Every word of a call's block is writable plain memory, from pa up. -/
def Block (s : State) (c : Call) (pa : Nat) : Prop :=
  s.badLines = [] ∧ ∀ i, i < 8 → plainMem (pa + 8 * i) = true ∧ ∃ e, walk s c.ctx (c.block.toNat + 8 * i) true = .page e ∧
    e.rights.getLsbD rW = true ∧ e.pa + (c.block.toNat + 8 * i - e.va) = pa + 8 * i

/-- R250: a call is over: its results stand in its block, and every strand that waited for it goes on with the status in
g[D]. -/
def Finished (s u : State) (n : Nat) (c : Call) (g pa status arg : Nat) (results : List (Nat × DWord)) : Prop :=
  AMap.get? u.calls n = none ∧ (∀ r ∈ results, Mem.nat u.mem (pa + 8 * r.1) 8 = r.2.toNat) ∧
    ((∃ k ∈ strandsOfGroup g, (strandAt s k).wait = .reply c.request) → c.d ≠ 0 →
      getG u g c.d = BitVec.ofNat 64 (arg * 256 + status)) ∧
    ∀ k ∈ strandsOfGroup g, (strandAt s k).wait = .reply c.request →
      (strandAt u k).wait = .run ∧ (strandAt u k).pc = (strandAt s k).pc + 4

/-- R251, R407 and R413: TIME and FEATURES give their values. -/
def ServiceValues : Prop :=
  ∀ (s : State) (n g pa : Nat) (c : Call), Block s c pa →
    (∀ x, Calling s n 0 c g → ctxAt? s c.ctx = some x → ∃ u, exec (.time n) s = .next u ∧
      Finished s u n c g pa 0 0 [(0, vtime x), (1, x.wallOff)]) ∧
    (Calling s n 8 c g → ∃ u, exec (.features n) s = .next u ∧
      Finished s u n c g pa 0 0 [(0, s.mgmt.actFeat.extractLsb' 0 64), (1, s.mgmt.actFeat.extractLsb' 64 64)])

/-- R251: ALLOC maps a fresh extent and gives its address and handle, BADARG for a bad size; FREE withdraws an allocated
extent as UNMAP does, BADARG for another handle; MAPPROXY performs the MAP as the context of the capability entry and gives its
status. -/
def ServiceMappings : Prop :=
  ∀ (s : State) (n g pa : Nat) (c : Call),
    let bytes := (c.arg 0).toNat
    let s1 := { s with draws := s.draws + 1 }
    (Calling s n 1 c g → (bytes = 0 ∨ bytes % 2 ^ 19 ≠ 0) → ∃ u, exec (.alloc n) s = .next u ∧ u.map = s.map ∧
      Finished s u n c g pa 0x12 0 []) ∧
    (∀ va frame v t, Calling s n 1 c g → s.map.stopped = false → s.badLines = [] → bytes ≠ 0 → bytes % 2 ^ 19 = 0 → bytes ≤ 2 ^ 51 → (c.arg 1).extractLsb' 5 59 = 0 →
      (c.arg 1).setWidth 5 &&& ~~~(c.cap.extractLsb' 8 5) = 0 → allocPlace s1 c.ctx bytes = some (va, frame) →
      mapOrGrant s1 false (allocRoot s c.ctx).2 c.ctx.toNat false false
        ⟨frame, va, bytes / 2 ^ 19, 0, (c.arg 1).setWidth 5, false⟩ .nobody = (t, .reply v) → v.setWidth 8 = 0#8 →
      Block (modCtx t c.ctx (fun x => { x with allocs := x.allocs ++ [v >>> 32] })) c pa →
      ∃ u, exec (.alloc n) s = .next u ∧ u.map = t.map ∧
        Finished s u n c g pa 0 0 [(2, BitVec.ofNat 64 va), (3, v >>> 32)] ∧
        ∀ x, ctxAt? s c.ctx = some x → ∃ y, ctxAt? u c.ctx = some y ∧ y.allocs = x.allocs ++ [v >>> 32]) ∧
    (∀ x, Calling s n 2 c g → ctxAt? s c.ctx = some x → x.allocs.contains (c.arg 0) = false →
      ∃ u, exec (.free n) s = .next u ∧ u.map = s.map ∧ Finished s u n c g pa 0x12 0 []) ∧
    (∀ x i r, Calling s n 2 c g → s.map.stopped = false → s.badLines = [] → ctxAt? s c.ctx = some x → x.allocs.contains (c.arg 0) = true →
      byHandle? s.map (c.arg 0) = some (i, r) → isCut s.map i = false → owns s.map c.ctx.toNat i = true →
      ∃ u, exec (.free n) s = .next u ∧ isCut u.map i = true ∧ AMap.get? u.calls n = some { c with unmapping := true, retry := false } ∧
        ∃ y, ctxAt? u c.ctx = some y ∧ (c.arg 0) ∉ y.allocs) ∧
    (∀ places v t,
      let r := mapReq (places.flatMap (fun (p : Nat × Nat) => memBytes s p.1 p.2))
      let pctx : CtxId := c.cap.extractLsb' 40 12
      Calling s n 6 c g → (c.arg 0).toNat % 32 = 0 → argument s c (c.arg 0) 32 rR = .ok places →
      r.rights &&& ~~~(c.cap.extractLsb' 8 5) = 0 → s.map.stopped = false → s.badLines = [] →
      mapOrGrant s false pctx.toNat ((c.arg 1).toNat % 4096) (foreign s pctx ((c.arg 1).setWidth 12))
        ((c.arg 1).extractLsb' 12 52 != 0) r .nobody = (t, .reply v) → Block t c pa →
      ∃ u, exec (.mapproxy n) s = .next u ∧ u.map = t.map ∧ Finished s u n c g pa 0 0 [(2, v &&& 0xFF)])

/-- R127, R251, R330, R396, R397 and R405: LOG appends its bytes to the context's log ring, SIGNAL sets its bit of SIGPEND for
the functions of the partition, WAKE writes at the coherence point and wakes monitors of the line, and YIELDSLICE makes the
pre-emption of its context pending. -/
def ServiceEffects : Prop :=
  ∀ (s : State) (n g pa : Nat) (c : Call) (x : Ctx), ctxAt? s c.ctx = some x → s.badLines = [] →
    (∀ from_,
      let len := (c.arg 1).toNat
      let at_ := s.mgmt.logBase.toNat + c.ctx.toNat * 0x10000 + x.logIndex
      Calling s n 3 c g → 0 < len → len ≤ 4096 → argument s c (c.arg 0) len rR = .ok [(from_, len)] →
      x.logIndex + len ≤ 0x10000 → plainMem at_ = true → plainMem (at_ + len - 1) = true →
      ∃ u y, exec (.log n) s = .next u ∧ Mem.bytes u.mem at_ len = memBytes s from_ len ∧ ctxAt? u c.ctx = some y ∧
        y.logIndex = (x.logIndex + len) % 0x10000 ∧ Finished s u n c g pa 0 0 []) ∧
    (Calling s n 4 c g → (c.arg 0).toNat < 64 → ∃ u, exec (.signal n) s = .next u ∧ Finished s u n c g pa 0 0 [] ∧
      ∀ fn ∈ signalFns s c.ctx, (windowAt u fn).sigPend.getLsbD (c.arg 0).toNat = true) ∧
    (∀ at1, Calling s n 5 c g → (c.arg 0).toNat % 4 = 0 → argument s c (c.arg 0) 4 rW = .ok [(at1, 4)] → plainMem at1 = true →
      plainMem (at1 + 3) = true → at1 % 128 ≤ 124 → ∃ u, exec (.wake n) s = .next u ∧ Finished s u n c g pa 0 0 [] ∧
        Mem.nat u.mem at1 4 = (c.arg 1).toNat % 2 ^ 32 ∧
        ∀ k since, (strandAt s k).wait = .monitor (.global (at1 / 128)) since → (strandAt u k).wait = .run) ∧
    (Calling s n 7 c g → residentPart s c.ctx = false → ∃ u, exec (.yieldslice n) s = .next u ∧ Finished s u n c g pa 0 0 [] ∧
      ∀ y ∈ x.clusters, c.ctx ∈ (clusterAt u y.toNat).preempt)

/-- R404, R406 and R407: the owner of the part changes by the commands of its masters, lapses, and resets of their transports
alone; of those that claim an unowned part in one cycle it is the one of the lowest number. NEGOTIATE acts once, for the owner, and
makes ACTIVE_FEATURES the features that both sides have; the optical ports come up with their feature. -/
def Ownership : Prop :=
  ∀ (s : State) (m n : BitVec 3),
    let g := s.mgmt
    let master := fun (x : BitVec 3) => 1 ≤ x.toNat ∧ x.toNat ≤ 4
    let becomes := fun (i : Instr) (h : Mgmt) => exec i s = .next { s with mgmt := h }
    let claims := m :: claimsNow s.agenda
    (g.owner = 0 → g.ready = true ∨ g.bootFail = true → master m → ∃ x ∈ claims, becomes (.claim m) { g with owner := x } ∧
      master x ∧ ∀ y ∈ claims, master y → x.toNat ≤ y.toNat) ∧
    (g.owner ≠ 0 ∨ ¬master m ∨ (g.ready = false ∧ g.bootFail = false) → becomes (.claim m) g) ∧
    (g.owner = m → becomes (.release m) { g with owner := 0, pending := false, successor := 0 }) ∧
    (g.owner ≠ m → becomes (.release m) g ∧ becomes (.handover m n) g) ∧
    (g.owner = m → master m → master n →
      becomes (.handover m n) { g with pending := true, successor := n, pendingAt := s.now }) ∧
    (g.pending = true → g.successor = m → s.now ≤ g.pendingAt + 800000000 →
      becomes (.accept m) { g with owner := m, pending := false, successor := 0 }) ∧
    (g.pending = true ∧ g.pendingAt + 800000000 < s.now →
      becomes .handoverLapse { g with pending := false, successor := 0 } ∧ becomes (.accept m) g) ∧
    (g.pending = false → becomes .handoverLapse g ∧ becomes (.accept m) g) ∧
    (g.owner = m → becomes (.transportReset m) { g with owner := 0, pending := false, successor := 0 }) ∧
    (g.owner ≠ m → (g.pending = false ∨ g.successor ≠ m) → becomes (.transportReset m) g) ∧
    (g.owner ≠ m → g.pending = true → g.successor = m →
      becomes (.transportReset m) { g with pending := false, successor := 0 }) ∧
    ((g.owner ≠ m ∨ g.negotiated = true) → becomes (.negotiate m) g) ∧
    (g.owner = m → master m → g.negotiated = false → g.ready = true → ∃ u, exec (.negotiate m) s = .next u ∧
      u = { s with mgmt := u.mgmt, fab := u.fab } ∧ u.mgmt.negotiated = true ∧
      u.mgmt.actFeat = Config.devFeat.setWidth 128 &&& g.drvFeat ∧ u.mgmt.owner = m ∧ u.mgmt.drvFeat = g.drvFeat ∧
      (featureOn s 4 = true ∨ featureOn u 4 = false → u.fab = s.fab) ∧
      (featureOn s 4 = false → featureOn u 4 = true → ∀ p, p < 32 →
        ((portAt s p).tx.dark = 0 → (portAt u p).tx.width = 16) ∧ ((portAt s p).rx.dark = 0 → (portAt u p).rx.width = 16)))

/-- R5, R389, R396, R399, R404, R405 and R408: a write in a window's slots stores its bytes, one of RRBASE or RRHEAD what is
written, and one of SENDPOST captures a slot as
a post, unless 256 are outstanding; a management register changes for its owner alone, and none before the part is ready or has
failed to boot; PWRLIMIT gates issue at once (R412); the peer table takes CONN and
PORTS. -/
def RegisterWrites : Prop :=
  ∀ (s : State) (fn : BitVec 6) (m : BitVec 3) (v : DWord),
    let w := windowAt s fn
    (s.mgmt.bootFail = false → ∀ o, o + 8 ≤ 0x8000 → w.replies = [] → ∃ u, exec (.registerWrite (.window fn) o v) s = .next u ∧
      u = { s with windows := u.windows } ∧ (windowAt u fn).posts = w.posts ∧
      ∀ a, Mem.byte (windowAt u fn).slots a =
        if o ≤ a ∧ a < o + 8 then v.extractLsb' (8 * (a - o)) 8 else Mem.byte w.slots a) ∧
    (s.mgmt.bootFail = false → s.mgmt.ready = true → w.replies = [] →
      ∃ u, exec (.registerWrite (.window fn) 0x8000 v) s = .next u ∧ u = { s with windows := u.windows } ∧
        (windowAt u fn).posts = (if outstanding w < 256 then w.posts ++ [⟨Mem.bytes w.slots (v.toNat % 256 * 128) 128⟩] else w.posts) ∧
        (256 ≤ outstanding w → (windowAt u fn).winerr = 1)) ∧
    (s.mgmt.ready = false → exec (.registerWrite (.window fn) 0x8000 v) s = .next s) ∧
    (s.mgmt.bootFail = false → w.replies = [] →
      (∃ u, exec (.registerWrite (.window fn) 0x8010 v) s = .next u ∧ u = { s with windows := u.windows } ∧
        windowAt u fn = { w with rrBase := v }) ∧
      ∃ u, exec (.registerWrite (.window fn) 0x8028 v) s = .next u ∧ u = { s with windows := u.windows } ∧
        windowAt u fn = { w with rrHead := v.toNat }) ∧
    (∀ o, s.mgmt.owner ≠ m → o ≠ 0x004 → exec (.registerWrite (.management m) o v) s = .next s) ∧
    (∀ o, s.mgmt.ready = false → s.mgmt.bootFail = false → exec (.registerWrite (.management m) o v) s =
      .next (if o = 0x004 then { s with mgmt := mcmdWrite (claimsNow s.agenda) m v s.now s.mgmt } else s)) ∧
    (s.mgmt.owner = m → 1 ≤ m.toNat → m.toNat ≤ 4 → s.mgmt.ready = true ∨ s.mgmt.bootFail = true →
      let limit := v.toNat % 2 ^ 32
      let hot := decide (105 ≤ s.mgmt.temp.toNat)
      exec (.registerWrite (.management m) 0x050 v) s = .next (if 600 ≤ limit ∧ limit ≤ 1500 then { s with mgmt := { s.mgmt with
        pwrLimit := limit, gated := decide (limit < s.mgmt.power.toNat) || decide (95 ≤ s.mgmt.temp.toNat)
        stopped := s.mgmt.stopped || hot, partErr := s.mgmt.partErr || hot } } else s) ∧
      exec (.registerWrite (.management m) 0x048 v) s = .next { s with mgmt := { s.mgmt with wallRef := v, wallAt := s.now } }) ∧
    ∀ p : BitVec 10, s.mgmt.bootFail = false → featureOn s 4 = true → s.badLines = [] →
      ∃ u, exec (.registerWrite .device (0xF0001000000 + 8 * p.toNat) v) s = .next u ∧ u.mem = s.mem ∧
        ∀ q : BitVec 10, AMap.getD u.fab.table q.toNat 0 =
          if q = p then v &&& 0x80000000FFFFFFFF else AMap.getD s.fab.table q.toNat 0

/-- R43, R395, R406 and R408: an FLR empties its window; a module reset leaves the part as after power-on but for what is not
of it; the boot makes the part ready, or fails without a valid image. R409: an image is valid whose key the boot ROM knows, which is
signed, and whose version is not below the anti-rollback count; the slot that runs is the one the owner has written, if any, else the
one that ran, and the other where that one is not valid (log 104). -/
def ResetsAndBoot : Prop :=
  ∀ (s : State) (fn : BitVec 6),
    let accepted := fun (f : Firmware) => f.keyOk && f.signed && decide (s.mgmt.rollback ≤ f.version)
    let slot := fun (b : Bool) => if b = true then s.mgmt.slotB else s.mgmt.slotA
    (∃ u, exec (.flr fn) s = .next u ∧ u = { s with windows := u.windows, mgmt := u.mgmt } ∧
      (windowAt u fn).posts = [] ∧ (windowAt u fn).replies = [] ∧ (windowAt u fn).sends = [] ∧ (windowAt u fn).rrTail = 0 ∧
      (windowAt u fn).rrHead = 0 ∧ (windowAt u fn).sigPend = 0 ∧ (fn ≠ 0 → u.mgmt = s.mgmt) ∧
      (fn = 0 → s.mgmt.owner = 1 → u.mgmt.owner = 0)) ∧
    (∃ u, exec .moduleReset s = .next u ∧ u.tasks = [] ∧ u.groups = [] ∧ u.strands = [] ∧ u.rf = State.reset.rf ∧
      u.cores = State.reset.cores ∧ u.clusters = State.reset.clusters ∧ u.ctxs = [] ∧ u.parts = [] ∧ u.corewin = [] ∧
      u.cluwin = [] ∧ u.opmem = [] ∧ u.map = State.reset.map ∧ u.pl = State.reset.pl ∧ u.mesh = [] ∧
      u.fab.table = State.reset.fab.table ∧ u.mgmt.owner = 0 ∧ u.mgmt.ready = false ∧ u.mgmt.actFeat = 0 ∧
      u.mgmt.stopped = false ∧ u.now = 0) ∧
    (s.mgmt.booted = false → accepted s.mgmt.slotA = false → accepted s.mgmt.slotB = false →
      exec .boot s = .next { s with mgmt := { s.mgmt with booted := true, bootFail := true } }) ∧
    (∀ b : Bool, s.mgmt.booted = false → accepted (slot b) = true →
      (accepted (slot !b) = false ∨ b = (if s.mgmt.staged = true then !s.mgmt.runsB else s.mgmt.runsB)) →
      ∃ u, exec .boot s = .next u ∧ u.mgmt.ready = true ∧ u.mgmt.bootFail = s.mgmt.bootFail ∧ u.mgmt.runsB = b ∧
        u.mgmt.staged = false ∧ u.fab = s.fab ∧ (∀ i ∈ [1, 2, 3, 4, 5], (AMap.get? u.mgmt.measures i).isSome = true))

/-- R410 to R412: power and temperature gate issue, 105 °C stops every clock, and a ready part answers SPDM requests, challenges and measurements with a signature. -/
def PowerAndAttestation : Prop :=
  ∀ (s : State),
    (∀ watts celsius : BitVec 32, ∃ u, exec (.powerGating watts celsius) s = .next u ∧
      u = { s with mgmt := { s.mgmt with
        power := watts, temp := celsius, gated := u.mgmt.gated, stopped := u.mgmt.stopped, partErr := u.mgmt.partErr } } ∧
      (u.mgmt.gated = true ↔ s.mgmt.pwrLimit < watts.toNat ∨ 95 ≤ celsius.toNat) ∧
      (u.mgmt.stopped = true ↔ s.mgmt.stopped = true ∨ 105 ≤ celsius.toNat) ∧
      (u.mgmt.partErr = true ↔ s.mgmt.partErr = true ∨ 105 ≤ celsius.toNat)) ∧
    (∀ celsius : BitVec 32, exec (.thermalShutdown celsius) s = .next (if 105 ≤ celsius.toNat then
      { s with mgmt := { s.mgmt with temp := celsius, stopped := true, partErr := true, gated := true } } else s)) ∧
    (s.mgmt.ready = false → exec .getVersion s = .next s) ∧
    (s.mgmt.ready = true →
      let answers := fun (i : Instr) (p : List Byte → Prop) => ∃ bs, p bs ∧
        exec i s = .next { s with mgmt := { s.mgmt with spdmOut := s.mgmt.spdmOut ++ [bs] } }
      answers .getVersion (fun bs => 0x12 ∈ bs ∧ 0x13 ∈ bs) ∧
      answers .getCapabilities (fun bs => bs.length = 2) ∧
      (∀ ok : Bool, answers (.negotiateAlgorithms ok) (fun bs => ok = false ↔ bs = [0x7F])) ∧
      answers .getDigests (fun bs => bs.tail = bytesOf 64 (shake256 Config.certificate).toNat) ∧
      (∀ (o n : BitVec 16), answers (.getCertificate 0 o n) (fun bs => bs.tail = (Config.certificate.drop o.toNat).take n.toNat)) ∧
      (∀ nonce, answers (.challenge nonce) (fun bs => bs.length = 1 + 64 + 64 + 49856)) ∧
      ∀ (i : BitVec 8) m, i ≠ 0 → i ≠ 0xFF → AMap.get? s.mgmt.measures i.toNat = some m →
        answers (.getMeasurements i) (fun bs => bs.tail.take 64 = bytesOf 64 m.toNat ∧ bs.length = 1 + 64 + 49856))

end Sys2Proof.Parts

/-- R127, R251, R330, R396, R397, R405, R407 and R413: the services of the Privet engine.
What the spec leaves open here is the model's choice: log 6, log 18, log 64. -/
def Obligations.PrivetServices : Prop :=
  Sys2Proof.Parts.ServiceValues ∧ Sys2Proof.Parts.ServiceMappings ∧ Sys2Proof.Parts.ServiceEffects

/-- R43, R389, R395, R396, R399, R404 to R408 and R410 to R412: ownership, register writes, resets, bring-up, power
and attestation.
What the spec leaves open here is the model's choice: log 9, log 27, log 35, log 37, log 61, log 62, log 66, log 104. -/
def Obligations.ManagementOfThePart : Prop :=
  Sys2Proof.Parts.Ownership ∧ Sys2Proof.Parts.RegisterWrites ∧ Sys2Proof.Parts.ResetsAndBoot ∧
    Sys2Proof.Parts.PowerAndAttestation

/-! ## The whole part -/

/-- R24, R43, R389, R405 and R406: right after reset no task and no context exists, every message and entry is gone, windows and
operand memory read zero, the limits and the controls have their reset values, and no one owns the part. What HBM reads then is
the model's choice (DESIGN CHOICE: log 3). -/
def Obligations.ResetLeaves : Prop :=
  let s := State.reset
  s.tasks = [] ∧ s.groups = [] ∧ s.strands = [] ∧ s.ctxs = [] ∧ s.parts = [] ∧ s.mesh = [] ∧ s.calls = [] ∧ s.queues = [] ∧
    s.engines = [] ∧ s.posts = [] ∧ s.replays = [] ∧ s.determEn = false ∧ s.determActive = false ∧
    (∀ a, Mem.byte s.mem a = 0 ∧ Mem.byte s.corewin a = 0 ∧ Mem.byte s.cluwin a = 0 ∧ Mem.byte s.opmem a = 0) ∧
    MemoriesCanonical s ∧
    (∀ k r, getS s k r = 0) ∧ (∀ q n, getG s q n = 0) ∧ (∀ q n, getH s q n = 0) ∧ (∀ k n, getP s k n = (n == 7)) ∧
    (∀ c, (coreAt s c).parked = [] ∧ (coreAt s c).sidelog = [] ∧ (coreAt s c).sqLim = 32) ∧
    (∀ p : BitVec 10, AMap.getD s.fab.table p.toNat 0 = 0) ∧ s.pl.owner = none ∧ s.pl.running = false ∧
    s.mgmt.owner = 0 ∧ s.mgmt.pending = false ∧ s.mgmt.ready = false ∧ s.mgmt.negotiated = false ∧ s.mgmt.pwrLimit = 1500 ∧
    s.mgmt.drvFeat = 0 ∧ s.mgmt.actFeat = 0 ∧ s.map.invals = []

/-- R21, R82, R84 and R107: when the units' turn is over and nothing else is due, a step lets a cycle pass, chooses a group and
runs the instruction that the word at its pc decodes to; a word of no instruction raises ILLEGAL with the word as its value.
The word is the four bytes at the pc's physical address.
What the spec leaves open here is the model's choice: log 2. -/
def Obligations.StepRunsTheDecodedInstruction : Prop :=
  ∀ (s : State) (q slot : Nat),
    let s1 := tick { s with favor := true } 1
    let b := beginIssue { s1 with nextQuarter := q + 1 } (q / 8) (q / 4 % 2) slot
    s.agenda = [] → s.favor = false → s.mgmt.stopped = false → s.mgmt.gated = false →
    pickQuarter? s1 = some q → chooseSlot s1 (q / 8) (q / 4 % 2) (q % 4) = some slot →
    (∀ u w, fetch b = .word u w →
      (∀ i, decodeTableWord 32 w.toNat = some i → featureOn u 1 = true → featureOn u 6 = true →
        step s = exec i (countIssue (noteWord u w) w) ∧ (countIssue (noteWord u w) w).issue.word = w) ∧
      (decodeTableWord 32 w.toNat = none →
        step s = .next (raiseFirst (noteWord u w) 0x01 (w.setWidth 64)))) ∧
    (∀ u, fetch b = .stop u → step s = .next u) ∧
    ∀ tk t r e, issuer? b = some (tk, t) → b.issue.pc.toNat % 4 = 0 →
      translate b (coreCaches b.issue.core) t.ctx b.issue.pc.toNat false = (r, .page e) → e.rights.getLsbD 2 = true →
      r.badLines = [] → AMap.get? (coreAt r b.issue.core).icache (t.ctx.toNat * 2 ^ 45 + b.issue.pc.toNat / 128) = none →
      (e.pa + (b.issue.pc.toNat - e.va)) % 128 = b.issue.pc.toNat % 128 →
      ∃ u w, fetch b = .word u w ∧
        w.toNat = natOfBytes (memBytes r (e.pa + (b.issue.pc.toNat - e.va)) 4)

/-- Words of the spec's own examples, of different formats, decode to the instructions that the examples name, and
words that the spec calls ILLEGAL to none. -/
def Obligations.WordsOfTheSpecDecode : Prop :=
  decodeTableWord 32 0x00000001 = some .nop ∧ decodeTableWord 32 0x04414601 = some (.add 4 5 6) ∧
    decodeTableWord 32 0x08F2BFF0 = some (.addi 15 10 0x3FF0) ∧ decodeTableWord 32 0x30C22803 = some (.gmul 6 2 5) ∧
    decodeTableWord 32 0x38502000 = some (.gli 5 0x02000) ∧ decodeTableWord 32 0x4955124C = some (.ffma 21 20 18 19 0) ∧
    decodeTableWord 32 0x62800003 = some (.bra 1 2 3) ∧ decodeTableWord 32 0x70200003 = some (.jarm 2 3) ∧
    decodeTableWord 32 0x81342E40 = some (.ld 19 8 23 0 4 0) ∧ decodeTableWord 32 0xAC1214C0 = some (.cpy 1 4 5 3) ∧
    decodeTableWord 32 0xB00A8041 = some (.twait 21 1) ∧ decodeTableWord 32 0xD4400010 = some (.csrr 4 0x010) ∧
    decodeTableWord 32 0 = none ∧ decodeTableWord 32 0x044146FF = none ∧ decodeTableWord 32 0x0441411B = none ∧
    decodeTableWord 32 0x9C000000 = none

/-- R80 to R85: every well-formed instruction with a word decodes from its word, with every operand as it was, and no other word
decodes to it. -/
def Obligations.DecodeAndEncodeAgree : Prop :=
  (∀ (i : Instr) (w : Word), i.wf = true → encode i = some w → decodeTableWord 32 w.toNat = some i) ∧
    ∀ (i : Instr) (w : Word), decodeTableWord 32 w.toNat = some i → i.wf = true ∧ encode i = some w

/-- Every step keeps the memories of the part in their canonical form: memory at the coherence point, the windows and operand
memory list rising addresses and no zero byte.
What the spec leaves open here is the model's choice: log 3. -/
def Obligations.EveryStepKeepsMemoriesCanonical : Prop :=
  ∀ s t : State, MemoriesCanonical s → step s = .next t → MemoriesCanonical t

/-- R412: once every clock has stopped, a step changes nothing of the part but for a module reset, whatever the outside world
does; the module reset runs.
What the spec leaves open here is the model's choice: log 68. -/
def Obligations.StoppedClocksOnlyReset : Prop :=
  ∀ s : State, s.mgmt.stopped = true →
    (∀ r, s.agenda = .event .moduleReset :: r → step s = exec .moduleReset { s with agenda := r }) ∧
    ((∀ r, s.agenda ≠ .event .moduleReset :: r) → step s = .next { s with agenda := s.agenda.tail })
end

