-- ==== Sys2Proof/Laws/Encoding.lean ====
section
/-! SUPPORT. The fields of a word of each format (R66): a field read out of a word is the field put in, or the
bits of it that are asked for. -/

namespace Sys2Proof

@[simp] theorem fld_mkR_op (op d a b : BitVec 6) (fn : BitVec 8) {lo len : Nat} (h : 26 ≤ lo)
    (h2 : lo + len ≤ 32) : fld (mkR op d a b fn) lo len = BitVec.extractLsb' (lo - 26) len op := by
  unfold fld mkR
  iterate 4 refine (BitVec.extractLsb'_append_eq_of_le (by omega)).trans ?_
  exact congrArg (fun k => BitVec.extractLsb' k len op) (by omega)

@[simp] theorem fld_mkR_d (op d a b : BitVec 6) (fn : BitVec 8) {lo len : Nat} (h : 20 ≤ lo)
    (h2 : lo + len ≤ 26) : fld (mkR op d a b fn) lo len = BitVec.extractLsb' (lo - 20) len d := by
  unfold fld mkR
  iterate 3 refine (BitVec.extractLsb'_append_eq_of_le (by omega)).trans ?_
  refine (BitVec.extractLsb'_append_eq_of_add_le (by omega)).trans ?_
  exact congrArg (fun k => BitVec.extractLsb' k len d) (by omega)

@[simp] theorem fld_mkR_a (op d a b : BitVec 6) (fn : BitVec 8) {lo len : Nat} (h : 14 ≤ lo)
    (h2 : lo + len ≤ 20) : fld (mkR op d a b fn) lo len = BitVec.extractLsb' (lo - 14) len a := by
  unfold fld mkR
  iterate 2 refine (BitVec.extractLsb'_append_eq_of_le (by omega)).trans ?_
  refine (BitVec.extractLsb'_append_eq_of_add_le (by omega)).trans ?_
  exact congrArg (fun k => BitVec.extractLsb' k len a) (by omega)

@[simp] theorem fld_mkR_b (op d a b : BitVec 6) (fn : BitVec 8) {lo len : Nat} (h : 8 ≤ lo)
    (h2 : lo + len ≤ 14) : fld (mkR op d a b fn) lo len = BitVec.extractLsb' (lo - 8) len b := by
  unfold fld mkR
  refine (BitVec.extractLsb'_append_eq_of_le (by omega)).trans ?_
  refine (BitVec.extractLsb'_append_eq_of_add_le (by omega)).trans ?_
  exact congrArg (fun k => BitVec.extractLsb' k len b) (by omega)

@[simp] theorem fld_mkR_fn (op d a b : BitVec 6) (fn : BitVec 8) {lo len : Nat} (h : 0 ≤ lo)
    (h2 : lo + len ≤ 8) : fld (mkR op d a b fn) lo len = BitVec.extractLsb' lo len fn := by
  unfold fld mkR
  refine (BitVec.extractLsb'_append_eq_of_add_le (by omega)).trans ?_
  rfl

@[simp] theorem fld_mkR4_op (op d a b c : BitVec 6) (md : BitVec 2) {lo len : Nat} (h : 26 ≤ lo)
    (h2 : lo + len ≤ 32) : fld (mkR4 op d a b c md) lo len = BitVec.extractLsb' (lo - 26) len op := by
  unfold fld mkR4
  iterate 5 refine (BitVec.extractLsb'_append_eq_of_le (by omega)).trans ?_
  exact congrArg (fun k => BitVec.extractLsb' k len op) (by omega)

@[simp] theorem fld_mkR4_d (op d a b c : BitVec 6) (md : BitVec 2) {lo len : Nat} (h : 20 ≤ lo)
    (h2 : lo + len ≤ 26) : fld (mkR4 op d a b c md) lo len = BitVec.extractLsb' (lo - 20) len d := by
  unfold fld mkR4
  iterate 4 refine (BitVec.extractLsb'_append_eq_of_le (by omega)).trans ?_
  refine (BitVec.extractLsb'_append_eq_of_add_le (by omega)).trans ?_
  exact congrArg (fun k => BitVec.extractLsb' k len d) (by omega)

@[simp] theorem fld_mkR4_a (op d a b c : BitVec 6) (md : BitVec 2) {lo len : Nat} (h : 14 ≤ lo)
    (h2 : lo + len ≤ 20) : fld (mkR4 op d a b c md) lo len = BitVec.extractLsb' (lo - 14) len a := by
  unfold fld mkR4
  iterate 3 refine (BitVec.extractLsb'_append_eq_of_le (by omega)).trans ?_
  refine (BitVec.extractLsb'_append_eq_of_add_le (by omega)).trans ?_
  exact congrArg (fun k => BitVec.extractLsb' k len a) (by omega)

@[simp] theorem fld_mkR4_b (op d a b c : BitVec 6) (md : BitVec 2) {lo len : Nat} (h : 8 ≤ lo)
    (h2 : lo + len ≤ 14) : fld (mkR4 op d a b c md) lo len = BitVec.extractLsb' (lo - 8) len b := by
  unfold fld mkR4
  iterate 2 refine (BitVec.extractLsb'_append_eq_of_le (by omega)).trans ?_
  refine (BitVec.extractLsb'_append_eq_of_add_le (by omega)).trans ?_
  exact congrArg (fun k => BitVec.extractLsb' k len b) (by omega)

@[simp] theorem fld_mkR4_c (op d a b c : BitVec 6) (md : BitVec 2) {lo len : Nat} (h : 2 ≤ lo)
    (h2 : lo + len ≤ 8) : fld (mkR4 op d a b c md) lo len = BitVec.extractLsb' (lo - 2) len c := by
  unfold fld mkR4
  refine (BitVec.extractLsb'_append_eq_of_le (by omega)).trans ?_
  refine (BitVec.extractLsb'_append_eq_of_add_le (by omega)).trans ?_
  exact congrArg (fun k => BitVec.extractLsb' k len c) (by omega)

@[simp] theorem fld_mkR4_md (op d a b c : BitVec 6) (md : BitVec 2) {lo len : Nat} (h : 0 ≤ lo)
    (h2 : lo + len ≤ 2) : fld (mkR4 op d a b c md) lo len = BitVec.extractLsb' lo len md := by
  unfold fld mkR4
  refine (BitVec.extractLsb'_append_eq_of_add_le (by omega)).trans ?_
  rfl

@[simp] theorem fld_mkI_op (op d a : BitVec 6) (imm : BitVec 14) {lo len : Nat} (h : 26 ≤ lo)
    (h2 : lo + len ≤ 32) : fld (mkI op d a imm) lo len = BitVec.extractLsb' (lo - 26) len op := by
  unfold fld mkI
  iterate 3 refine (BitVec.extractLsb'_append_eq_of_le (by omega)).trans ?_
  exact congrArg (fun k => BitVec.extractLsb' k len op) (by omega)

@[simp] theorem fld_mkI_d (op d a : BitVec 6) (imm : BitVec 14) {lo len : Nat} (h : 20 ≤ lo)
    (h2 : lo + len ≤ 26) : fld (mkI op d a imm) lo len = BitVec.extractLsb' (lo - 20) len d := by
  unfold fld mkI
  iterate 2 refine (BitVec.extractLsb'_append_eq_of_le (by omega)).trans ?_
  refine (BitVec.extractLsb'_append_eq_of_add_le (by omega)).trans ?_
  exact congrArg (fun k => BitVec.extractLsb' k len d) (by omega)

@[simp] theorem fld_mkI_a (op d a : BitVec 6) (imm : BitVec 14) {lo len : Nat} (h : 14 ≤ lo)
    (h2 : lo + len ≤ 20) : fld (mkI op d a imm) lo len = BitVec.extractLsb' (lo - 14) len a := by
  unfold fld mkI
  refine (BitVec.extractLsb'_append_eq_of_le (by omega)).trans ?_
  refine (BitVec.extractLsb'_append_eq_of_add_le (by omega)).trans ?_
  exact congrArg (fun k => BitVec.extractLsb' k len a) (by omega)

@[simp] theorem fld_mkI_imm (op d a : BitVec 6) (imm : BitVec 14) {lo len : Nat} (h : 0 ≤ lo)
    (h2 : lo + len ≤ 14) : fld (mkI op d a imm) lo len = BitVec.extractLsb' lo len imm := by
  unfold fld mkI
  refine (BitVec.extractLsb'_append_eq_of_add_le (by omega)).trans ?_
  rfl

@[simp] theorem fld_mkS_op (op d a : BitVec 6) (kind : BitVec 2) (zero : BitVec 7) (cnt : BitVec 5) {lo len : Nat} (h : 26 ≤ lo)
    (h2 : lo + len ≤ 32) : fld (mkS op d a kind zero cnt) lo len = BitVec.extractLsb' (lo - 26) len op := by
  unfold fld mkS
  iterate 5 refine (BitVec.extractLsb'_append_eq_of_le (by omega)).trans ?_
  exact congrArg (fun k => BitVec.extractLsb' k len op) (by omega)

@[simp] theorem fld_mkS_d (op d a : BitVec 6) (kind : BitVec 2) (zero : BitVec 7) (cnt : BitVec 5) {lo len : Nat} (h : 20 ≤ lo)
    (h2 : lo + len ≤ 26) : fld (mkS op d a kind zero cnt) lo len = BitVec.extractLsb' (lo - 20) len d := by
  unfold fld mkS
  iterate 4 refine (BitVec.extractLsb'_append_eq_of_le (by omega)).trans ?_
  refine (BitVec.extractLsb'_append_eq_of_add_le (by omega)).trans ?_
  exact congrArg (fun k => BitVec.extractLsb' k len d) (by omega)

@[simp] theorem fld_mkS_a (op d a : BitVec 6) (kind : BitVec 2) (zero : BitVec 7) (cnt : BitVec 5) {lo len : Nat} (h : 14 ≤ lo)
    (h2 : lo + len ≤ 20) : fld (mkS op d a kind zero cnt) lo len = BitVec.extractLsb' (lo - 14) len a := by
  unfold fld mkS
  iterate 3 refine (BitVec.extractLsb'_append_eq_of_le (by omega)).trans ?_
  refine (BitVec.extractLsb'_append_eq_of_add_le (by omega)).trans ?_
  exact congrArg (fun k => BitVec.extractLsb' k len a) (by omega)

@[simp] theorem fld_mkS_kind (op d a : BitVec 6) (kind : BitVec 2) (zero : BitVec 7) (cnt : BitVec 5) {lo len : Nat} (h : 12 ≤ lo)
    (h2 : lo + len ≤ 14) : fld (mkS op d a kind zero cnt) lo len = BitVec.extractLsb' (lo - 12) len kind := by
  unfold fld mkS
  iterate 2 refine (BitVec.extractLsb'_append_eq_of_le (by omega)).trans ?_
  refine (BitVec.extractLsb'_append_eq_of_add_le (by omega)).trans ?_
  exact congrArg (fun k => BitVec.extractLsb' k len kind) (by omega)

@[simp] theorem fld_mkS_zero (op d a : BitVec 6) (kind : BitVec 2) (zero : BitVec 7) (cnt : BitVec 5) {lo len : Nat} (h : 5 ≤ lo)
    (h2 : lo + len ≤ 12) : fld (mkS op d a kind zero cnt) lo len = BitVec.extractLsb' (lo - 5) len zero := by
  unfold fld mkS
  refine (BitVec.extractLsb'_append_eq_of_le (by omega)).trans ?_
  refine (BitVec.extractLsb'_append_eq_of_add_le (by omega)).trans ?_
  exact congrArg (fun k => BitVec.extractLsb' k len zero) (by omega)

@[simp] theorem fld_mkS_cnt (op d a : BitVec 6) (kind : BitVec 2) (zero : BitVec 7) (cnt : BitVec 5) {lo len : Nat} (h : 0 ≤ lo)
    (h2 : lo + len ≤ 5) : fld (mkS op d a kind zero cnt) lo len = BitVec.extractLsb' lo len cnt := by
  unfold fld mkS
  refine (BitVec.extractLsb'_append_eq_of_add_le (by omega)).trans ?_
  rfl

@[simp] theorem fld_mkCsr_op (op d a : BitVec 6) (csrop : BitVec 2) (csr : BitVec 12) {lo len : Nat} (h : 26 ≤ lo)
    (h2 : lo + len ≤ 32) : fld (mkCsr op d a csrop csr) lo len = BitVec.extractLsb' (lo - 26) len op := by
  unfold fld mkCsr
  iterate 4 refine (BitVec.extractLsb'_append_eq_of_le (by omega)).trans ?_
  exact congrArg (fun k => BitVec.extractLsb' k len op) (by omega)

@[simp] theorem fld_mkCsr_d (op d a : BitVec 6) (csrop : BitVec 2) (csr : BitVec 12) {lo len : Nat} (h : 20 ≤ lo)
    (h2 : lo + len ≤ 26) : fld (mkCsr op d a csrop csr) lo len = BitVec.extractLsb' (lo - 20) len d := by
  unfold fld mkCsr
  iterate 3 refine (BitVec.extractLsb'_append_eq_of_le (by omega)).trans ?_
  refine (BitVec.extractLsb'_append_eq_of_add_le (by omega)).trans ?_
  exact congrArg (fun k => BitVec.extractLsb' k len d) (by omega)

@[simp] theorem fld_mkCsr_a (op d a : BitVec 6) (csrop : BitVec 2) (csr : BitVec 12) {lo len : Nat} (h : 14 ≤ lo)
    (h2 : lo + len ≤ 20) : fld (mkCsr op d a csrop csr) lo len = BitVec.extractLsb' (lo - 14) len a := by
  unfold fld mkCsr
  iterate 2 refine (BitVec.extractLsb'_append_eq_of_le (by omega)).trans ?_
  refine (BitVec.extractLsb'_append_eq_of_add_le (by omega)).trans ?_
  exact congrArg (fun k => BitVec.extractLsb' k len a) (by omega)

@[simp] theorem fld_mkCsr_csrop (op d a : BitVec 6) (csrop : BitVec 2) (csr : BitVec 12) {lo len : Nat} (h : 12 ≤ lo)
    (h2 : lo + len ≤ 14) : fld (mkCsr op d a csrop csr) lo len = BitVec.extractLsb' (lo - 12) len csrop := by
  unfold fld mkCsr
  refine (BitVec.extractLsb'_append_eq_of_le (by omega)).trans ?_
  refine (BitVec.extractLsb'_append_eq_of_add_le (by omega)).trans ?_
  exact congrArg (fun k => BitVec.extractLsb' k len csrop) (by omega)

@[simp] theorem fld_mkCsr_csr (op d a : BitVec 6) (csrop : BitVec 2) (csr : BitVec 12) {lo len : Nat} (h : 0 ≤ lo)
    (h2 : lo + len ≤ 12) : fld (mkCsr op d a csrop csr) lo len = BitVec.extractLsb' lo len csr := by
  unfold fld mkCsr
  refine (BitVec.extractLsb'_append_eq_of_add_le (by omega)).trans ?_
  rfl

@[simp] theorem fld_mkL_op (op d : BitVec 6) (imm : BitVec 20) {lo len : Nat} (h : 26 ≤ lo)
    (h2 : lo + len ≤ 32) : fld (mkL op d imm) lo len = BitVec.extractLsb' (lo - 26) len op := by
  unfold fld mkL
  iterate 2 refine (BitVec.extractLsb'_append_eq_of_le (by omega)).trans ?_
  exact congrArg (fun k => BitVec.extractLsb' k len op) (by omega)

@[simp] theorem fld_mkL_d (op d : BitVec 6) (imm : BitVec 20) {lo len : Nat} (h : 20 ≤ lo)
    (h2 : lo + len ≤ 26) : fld (mkL op d imm) lo len = BitVec.extractLsb' (lo - 20) len d := by
  unfold fld mkL
  refine (BitVec.extractLsb'_append_eq_of_le (by omega)).trans ?_
  refine (BitVec.extractLsb'_append_eq_of_add_le (by omega)).trans ?_
  exact congrArg (fun k => BitVec.extractLsb' k len d) (by omega)

@[simp] theorem fld_mkL_imm (op d : BitVec 6) (imm : BitVec 20) {lo len : Nat} (h : 0 ≤ lo)
    (h2 : lo + len ≤ 20) : fld (mkL op d imm) lo len = BitVec.extractLsb' lo len imm := by
  unfold fld mkL
  refine (BitVec.extractLsb'_append_eq_of_add_le (by omega)).trans ?_
  rfl

@[simp] theorem fld_mkJoin_op (op : BitVec 6) (jsub jn : BitVec 3) (imm : BitVec 20) {lo len : Nat} (h : 26 ≤ lo)
    (h2 : lo + len ≤ 32) : fld (mkJoin op jsub jn imm) lo len = BitVec.extractLsb' (lo - 26) len op := by
  unfold fld mkJoin
  iterate 3 refine (BitVec.extractLsb'_append_eq_of_le (by omega)).trans ?_
  exact congrArg (fun k => BitVec.extractLsb' k len op) (by omega)

@[simp] theorem fld_mkJoin_jsub (op : BitVec 6) (jsub jn : BitVec 3) (imm : BitVec 20) {lo len : Nat} (h : 23 ≤ lo)
    (h2 : lo + len ≤ 26) : fld (mkJoin op jsub jn imm) lo len = BitVec.extractLsb' (lo - 23) len jsub := by
  unfold fld mkJoin
  iterate 2 refine (BitVec.extractLsb'_append_eq_of_le (by omega)).trans ?_
  refine (BitVec.extractLsb'_append_eq_of_add_le (by omega)).trans ?_
  exact congrArg (fun k => BitVec.extractLsb' k len jsub) (by omega)

@[simp] theorem fld_mkJoin_jn (op : BitVec 6) (jsub jn : BitVec 3) (imm : BitVec 20) {lo len : Nat} (h : 20 ≤ lo)
    (h2 : lo + len ≤ 23) : fld (mkJoin op jsub jn imm) lo len = BitVec.extractLsb' (lo - 20) len jn := by
  unfold fld mkJoin
  refine (BitVec.extractLsb'_append_eq_of_le (by omega)).trans ?_
  refine (BitVec.extractLsb'_append_eq_of_add_le (by omega)).trans ?_
  exact congrArg (fun k => BitVec.extractLsb' k len jn) (by omega)

@[simp] theorem fld_mkJoin_imm (op : BitVec 6) (jsub jn : BitVec 3) (imm : BitVec 20) {lo len : Nat} (h : 0 ≤ lo)
    (h2 : lo + len ≤ 20) : fld (mkJoin op jsub jn imm) lo len = BitVec.extractLsb' lo len imm := by
  unfold fld mkJoin
  refine (BitVec.extractLsb'_append_eq_of_add_le (by omega)).trans ?_
  rfl

@[simp] theorem fld_mkJoinR_op (op : BitVec 6) (jsub jn : BitVec 3) (r : BitVec 6) (zero : BitVec 14) {lo len : Nat} (h : 26 ≤ lo)
    (h2 : lo + len ≤ 32) : fld (mkJoinR op jsub jn r zero) lo len = BitVec.extractLsb' (lo - 26) len op := by
  unfold fld mkJoinR
  iterate 4 refine (BitVec.extractLsb'_append_eq_of_le (by omega)).trans ?_
  exact congrArg (fun k => BitVec.extractLsb' k len op) (by omega)

@[simp] theorem fld_mkJoinR_jsub (op : BitVec 6) (jsub jn : BitVec 3) (r : BitVec 6) (zero : BitVec 14) {lo len : Nat} (h : 23 ≤ lo)
    (h2 : lo + len ≤ 26) : fld (mkJoinR op jsub jn r zero) lo len = BitVec.extractLsb' (lo - 23) len jsub := by
  unfold fld mkJoinR
  iterate 3 refine (BitVec.extractLsb'_append_eq_of_le (by omega)).trans ?_
  refine (BitVec.extractLsb'_append_eq_of_add_le (by omega)).trans ?_
  exact congrArg (fun k => BitVec.extractLsb' k len jsub) (by omega)

@[simp] theorem fld_mkJoinR_jn (op : BitVec 6) (jsub jn : BitVec 3) (r : BitVec 6) (zero : BitVec 14) {lo len : Nat} (h : 20 ≤ lo)
    (h2 : lo + len ≤ 23) : fld (mkJoinR op jsub jn r zero) lo len = BitVec.extractLsb' (lo - 20) len jn := by
  unfold fld mkJoinR
  iterate 2 refine (BitVec.extractLsb'_append_eq_of_le (by omega)).trans ?_
  refine (BitVec.extractLsb'_append_eq_of_add_le (by omega)).trans ?_
  exact congrArg (fun k => BitVec.extractLsb' k len jn) (by omega)

@[simp] theorem fld_mkJoinR_r (op : BitVec 6) (jsub jn : BitVec 3) (r : BitVec 6) (zero : BitVec 14) {lo len : Nat} (h : 14 ≤ lo)
    (h2 : lo + len ≤ 20) : fld (mkJoinR op jsub jn r zero) lo len = BitVec.extractLsb' (lo - 14) len r := by
  unfold fld mkJoinR
  refine (BitVec.extractLsb'_append_eq_of_le (by omega)).trans ?_
  refine (BitVec.extractLsb'_append_eq_of_add_le (by omega)).trans ?_
  exact congrArg (fun k => BitVec.extractLsb' k len r) (by omega)

@[simp] theorem fld_mkJoinR_zero (op : BitVec 6) (jsub jn : BitVec 3) (r : BitVec 6) (zero : BitVec 14) {lo len : Nat} (h : 0 ≤ lo)
    (h2 : lo + len ≤ 14) : fld (mkJoinR op jsub jn r zero) lo len = BitVec.extractLsb' lo len zero := by
  unfold fld mkJoinR
  refine (BitVec.extractLsb'_append_eq_of_add_le (by omega)).trans ?_
  rfl

@[simp] theorem fld_mkTask_op (op a : BitVec 6) (ts : BitVec 1) (off : BitVec 19) {lo len : Nat} (h : 26 ≤ lo)
    (h2 : lo + len ≤ 32) : fld (mkTask op a ts off) lo len = BitVec.extractLsb' (lo - 26) len op := by
  unfold fld mkTask
  iterate 3 refine (BitVec.extractLsb'_append_eq_of_le (by omega)).trans ?_
  exact congrArg (fun k => BitVec.extractLsb' k len op) (by omega)

@[simp] theorem fld_mkTask_a (op a : BitVec 6) (ts : BitVec 1) (off : BitVec 19) {lo len : Nat} (h : 20 ≤ lo)
    (h2 : lo + len ≤ 26) : fld (mkTask op a ts off) lo len = BitVec.extractLsb' (lo - 20) len a := by
  unfold fld mkTask
  iterate 2 refine (BitVec.extractLsb'_append_eq_of_le (by omega)).trans ?_
  refine (BitVec.extractLsb'_append_eq_of_add_le (by omega)).trans ?_
  exact congrArg (fun k => BitVec.extractLsb' k len a) (by omega)

@[simp] theorem fld_mkTask_ts (op a : BitVec 6) (ts : BitVec 1) (off : BitVec 19) {lo len : Nat} (h : 19 ≤ lo)
    (h2 : lo + len ≤ 20) : fld (mkTask op a ts off) lo len = BitVec.extractLsb' (lo - 19) len ts := by
  unfold fld mkTask
  refine (BitVec.extractLsb'_append_eq_of_le (by omega)).trans ?_
  refine (BitVec.extractLsb'_append_eq_of_add_le (by omega)).trans ?_
  exact congrArg (fun k => BitVec.extractLsb' k len ts) (by omega)

@[simp] theorem fld_mkTask_off (op a : BitVec 6) (ts : BitVec 1) (off : BitVec 19) {lo len : Nat} (h : 0 ≤ lo)
    (h2 : lo + len ≤ 19) : fld (mkTask op a ts off) lo len = BitVec.extractLsb' lo len off := by
  unfold fld mkTask
  refine (BitVec.extractLsb'_append_eq_of_add_le (by omega)).trans ?_
  rfl

@[simp] theorem fld_mkP_op (op : BitVec 6) (pd : BitVec 3) (cc : BitVec 4) (a b : BitVec 6) (cmb : BitVec 7) {lo len : Nat} (h : 26 ≤ lo)
    (h2 : lo + len ≤ 32) : fld (mkP op pd cc a b cmb) lo len = BitVec.extractLsb' (lo - 26) len op := by
  unfold fld mkP
  iterate 5 refine (BitVec.extractLsb'_append_eq_of_le (by omega)).trans ?_
  exact congrArg (fun k => BitVec.extractLsb' k len op) (by omega)

@[simp] theorem fld_mkP_pd (op : BitVec 6) (pd : BitVec 3) (cc : BitVec 4) (a b : BitVec 6) (cmb : BitVec 7) {lo len : Nat} (h : 23 ≤ lo)
    (h2 : lo + len ≤ 26) : fld (mkP op pd cc a b cmb) lo len = BitVec.extractLsb' (lo - 23) len pd := by
  unfold fld mkP
  iterate 4 refine (BitVec.extractLsb'_append_eq_of_le (by omega)).trans ?_
  refine (BitVec.extractLsb'_append_eq_of_add_le (by omega)).trans ?_
  exact congrArg (fun k => BitVec.extractLsb' k len pd) (by omega)

@[simp] theorem fld_mkP_cc (op : BitVec 6) (pd : BitVec 3) (cc : BitVec 4) (a b : BitVec 6) (cmb : BitVec 7) {lo len : Nat} (h : 19 ≤ lo)
    (h2 : lo + len ≤ 23) : fld (mkP op pd cc a b cmb) lo len = BitVec.extractLsb' (lo - 19) len cc := by
  unfold fld mkP
  iterate 3 refine (BitVec.extractLsb'_append_eq_of_le (by omega)).trans ?_
  refine (BitVec.extractLsb'_append_eq_of_add_le (by omega)).trans ?_
  exact congrArg (fun k => BitVec.extractLsb' k len cc) (by omega)

@[simp] theorem fld_mkP_a (op : BitVec 6) (pd : BitVec 3) (cc : BitVec 4) (a b : BitVec 6) (cmb : BitVec 7) {lo len : Nat} (h : 13 ≤ lo)
    (h2 : lo + len ≤ 19) : fld (mkP op pd cc a b cmb) lo len = BitVec.extractLsb' (lo - 13) len a := by
  unfold fld mkP
  iterate 2 refine (BitVec.extractLsb'_append_eq_of_le (by omega)).trans ?_
  refine (BitVec.extractLsb'_append_eq_of_add_le (by omega)).trans ?_
  exact congrArg (fun k => BitVec.extractLsb' k len a) (by omega)

@[simp] theorem fld_mkP_b (op : BitVec 6) (pd : BitVec 3) (cc : BitVec 4) (a b : BitVec 6) (cmb : BitVec 7) {lo len : Nat} (h : 7 ≤ lo)
    (h2 : lo + len ≤ 13) : fld (mkP op pd cc a b cmb) lo len = BitVec.extractLsb' (lo - 7) len b := by
  unfold fld mkP
  refine (BitVec.extractLsb'_append_eq_of_le (by omega)).trans ?_
  refine (BitVec.extractLsb'_append_eq_of_add_le (by omega)).trans ?_
  exact congrArg (fun k => BitVec.extractLsb' k len b) (by omega)

@[simp] theorem fld_mkP_cmb (op : BitVec 6) (pd : BitVec 3) (cc : BitVec 4) (a b : BitVec 6) (cmb : BitVec 7) {lo len : Nat} (h : 0 ≤ lo)
    (h2 : lo + len ≤ 7) : fld (mkP op pd cc a b cmb) lo len = BitVec.extractLsb' lo len cmb := by
  unfold fld mkP
  refine (BitVec.extractLsb'_append_eq_of_add_le (by omega)).trans ?_
  rfl

@[simp] theorem fld_mkPI_op (op : BitVec 6) (pd : BitVec 3) (cc : BitVec 4) (a : BitVec 6) (imm : BitVec 13) {lo len : Nat} (h : 26 ≤ lo)
    (h2 : lo + len ≤ 32) : fld (mkPI op pd cc a imm) lo len = BitVec.extractLsb' (lo - 26) len op := by
  unfold fld mkPI
  iterate 4 refine (BitVec.extractLsb'_append_eq_of_le (by omega)).trans ?_
  exact congrArg (fun k => BitVec.extractLsb' k len op) (by omega)

@[simp] theorem fld_mkPI_pd (op : BitVec 6) (pd : BitVec 3) (cc : BitVec 4) (a : BitVec 6) (imm : BitVec 13) {lo len : Nat} (h : 23 ≤ lo)
    (h2 : lo + len ≤ 26) : fld (mkPI op pd cc a imm) lo len = BitVec.extractLsb' (lo - 23) len pd := by
  unfold fld mkPI
  iterate 3 refine (BitVec.extractLsb'_append_eq_of_le (by omega)).trans ?_
  refine (BitVec.extractLsb'_append_eq_of_add_le (by omega)).trans ?_
  exact congrArg (fun k => BitVec.extractLsb' k len pd) (by omega)

@[simp] theorem fld_mkPI_cc (op : BitVec 6) (pd : BitVec 3) (cc : BitVec 4) (a : BitVec 6) (imm : BitVec 13) {lo len : Nat} (h : 19 ≤ lo)
    (h2 : lo + len ≤ 23) : fld (mkPI op pd cc a imm) lo len = BitVec.extractLsb' (lo - 19) len cc := by
  unfold fld mkPI
  iterate 2 refine (BitVec.extractLsb'_append_eq_of_le (by omega)).trans ?_
  refine (BitVec.extractLsb'_append_eq_of_add_le (by omega)).trans ?_
  exact congrArg (fun k => BitVec.extractLsb' k len cc) (by omega)

@[simp] theorem fld_mkPI_a (op : BitVec 6) (pd : BitVec 3) (cc : BitVec 4) (a : BitVec 6) (imm : BitVec 13) {lo len : Nat} (h : 13 ≤ lo)
    (h2 : lo + len ≤ 19) : fld (mkPI op pd cc a imm) lo len = BitVec.extractLsb' (lo - 13) len a := by
  unfold fld mkPI
  refine (BitVec.extractLsb'_append_eq_of_le (by omega)).trans ?_
  refine (BitVec.extractLsb'_append_eq_of_add_le (by omega)).trans ?_
  exact congrArg (fun k => BitVec.extractLsb' k len a) (by omega)

@[simp] theorem fld_mkPI_imm (op : BitVec 6) (pd : BitVec 3) (cc : BitVec 4) (a : BitVec 6) (imm : BitVec 13) {lo len : Nat} (h : 0 ≤ lo)
    (h2 : lo + len ≤ 13) : fld (mkPI op pd cc a imm) lo len = BitVec.extractLsb' lo len imm := by
  unfold fld mkPI
  refine (BitVec.extractLsb'_append_eq_of_add_le (by omega)).trans ?_
  rfl

@[simp] theorem fld_mkM_op (op d : BitVec 6) (g : BitVec 5) (x : BitVec 6) (sp : BitVec 2) (sz : BitVec 3) (imm : BitVec 4) {lo len : Nat} (h : 26 ≤ lo)
    (h2 : lo + len ≤ 32) : fld (mkM op d g x sp sz imm) lo len = BitVec.extractLsb' (lo - 26) len op := by
  unfold fld mkM
  iterate 6 refine (BitVec.extractLsb'_append_eq_of_le (by omega)).trans ?_
  exact congrArg (fun k => BitVec.extractLsb' k len op) (by omega)

@[simp] theorem fld_mkM_d (op d : BitVec 6) (g : BitVec 5) (x : BitVec 6) (sp : BitVec 2) (sz : BitVec 3) (imm : BitVec 4) {lo len : Nat} (h : 20 ≤ lo)
    (h2 : lo + len ≤ 26) : fld (mkM op d g x sp sz imm) lo len = BitVec.extractLsb' (lo - 20) len d := by
  unfold fld mkM
  iterate 5 refine (BitVec.extractLsb'_append_eq_of_le (by omega)).trans ?_
  refine (BitVec.extractLsb'_append_eq_of_add_le (by omega)).trans ?_
  exact congrArg (fun k => BitVec.extractLsb' k len d) (by omega)

@[simp] theorem fld_mkM_g (op d : BitVec 6) (g : BitVec 5) (x : BitVec 6) (sp : BitVec 2) (sz : BitVec 3) (imm : BitVec 4) {lo len : Nat} (h : 15 ≤ lo)
    (h2 : lo + len ≤ 20) : fld (mkM op d g x sp sz imm) lo len = BitVec.extractLsb' (lo - 15) len g := by
  unfold fld mkM
  iterate 4 refine (BitVec.extractLsb'_append_eq_of_le (by omega)).trans ?_
  refine (BitVec.extractLsb'_append_eq_of_add_le (by omega)).trans ?_
  exact congrArg (fun k => BitVec.extractLsb' k len g) (by omega)

@[simp] theorem fld_mkM_x (op d : BitVec 6) (g : BitVec 5) (x : BitVec 6) (sp : BitVec 2) (sz : BitVec 3) (imm : BitVec 4) {lo len : Nat} (h : 9 ≤ lo)
    (h2 : lo + len ≤ 15) : fld (mkM op d g x sp sz imm) lo len = BitVec.extractLsb' (lo - 9) len x := by
  unfold fld mkM
  iterate 3 refine (BitVec.extractLsb'_append_eq_of_le (by omega)).trans ?_
  refine (BitVec.extractLsb'_append_eq_of_add_le (by omega)).trans ?_
  exact congrArg (fun k => BitVec.extractLsb' k len x) (by omega)

@[simp] theorem fld_mkM_sp (op d : BitVec 6) (g : BitVec 5) (x : BitVec 6) (sp : BitVec 2) (sz : BitVec 3) (imm : BitVec 4) {lo len : Nat} (h : 7 ≤ lo)
    (h2 : lo + len ≤ 9) : fld (mkM op d g x sp sz imm) lo len = BitVec.extractLsb' (lo - 7) len sp := by
  unfold fld mkM
  iterate 2 refine (BitVec.extractLsb'_append_eq_of_le (by omega)).trans ?_
  refine (BitVec.extractLsb'_append_eq_of_add_le (by omega)).trans ?_
  exact congrArg (fun k => BitVec.extractLsb' k len sp) (by omega)

@[simp] theorem fld_mkM_sz (op d : BitVec 6) (g : BitVec 5) (x : BitVec 6) (sp : BitVec 2) (sz : BitVec 3) (imm : BitVec 4) {lo len : Nat} (h : 4 ≤ lo)
    (h2 : lo + len ≤ 7) : fld (mkM op d g x sp sz imm) lo len = BitVec.extractLsb' (lo - 4) len sz := by
  unfold fld mkM
  refine (BitVec.extractLsb'_append_eq_of_le (by omega)).trans ?_
  refine (BitVec.extractLsb'_append_eq_of_add_le (by omega)).trans ?_
  exact congrArg (fun k => BitVec.extractLsb' k len sz) (by omega)

@[simp] theorem fld_mkM_imm (op d : BitVec 6) (g : BitVec 5) (x : BitVec 6) (sp : BitVec 2) (sz : BitVec 3) (imm : BitVec 4) {lo len : Nat} (h : 0 ≤ lo)
    (h2 : lo + len ≤ 4) : fld (mkM op d g x sp sz imm) lo len = BitVec.extractLsb' lo len imm := by
  unfold fld mkM
  refine (BitVec.extractLsb'_append_eq_of_add_le (by omega)).trans ?_
  rfl

@[simp] theorem fld_mkA_op (op d : BitVec 6) (g : BitVec 5) (x : BitVec 6) (aop : BitVec 5) (fl : BitVec 4) {lo len : Nat} (h : 26 ≤ lo)
    (h2 : lo + len ≤ 32) : fld (mkA op d g x aop fl) lo len = BitVec.extractLsb' (lo - 26) len op := by
  unfold fld mkA
  iterate 5 refine (BitVec.extractLsb'_append_eq_of_le (by omega)).trans ?_
  exact congrArg (fun k => BitVec.extractLsb' k len op) (by omega)

@[simp] theorem fld_mkA_d (op d : BitVec 6) (g : BitVec 5) (x : BitVec 6) (aop : BitVec 5) (fl : BitVec 4) {lo len : Nat} (h : 20 ≤ lo)
    (h2 : lo + len ≤ 26) : fld (mkA op d g x aop fl) lo len = BitVec.extractLsb' (lo - 20) len d := by
  unfold fld mkA
  iterate 4 refine (BitVec.extractLsb'_append_eq_of_le (by omega)).trans ?_
  refine (BitVec.extractLsb'_append_eq_of_add_le (by omega)).trans ?_
  exact congrArg (fun k => BitVec.extractLsb' k len d) (by omega)

@[simp] theorem fld_mkA_g (op d : BitVec 6) (g : BitVec 5) (x : BitVec 6) (aop : BitVec 5) (fl : BitVec 4) {lo len : Nat} (h : 15 ≤ lo)
    (h2 : lo + len ≤ 20) : fld (mkA op d g x aop fl) lo len = BitVec.extractLsb' (lo - 15) len g := by
  unfold fld mkA
  iterate 3 refine (BitVec.extractLsb'_append_eq_of_le (by omega)).trans ?_
  refine (BitVec.extractLsb'_append_eq_of_add_le (by omega)).trans ?_
  exact congrArg (fun k => BitVec.extractLsb' k len g) (by omega)

@[simp] theorem fld_mkA_x (op d : BitVec 6) (g : BitVec 5) (x : BitVec 6) (aop : BitVec 5) (fl : BitVec 4) {lo len : Nat} (h : 9 ≤ lo)
    (h2 : lo + len ≤ 15) : fld (mkA op d g x aop fl) lo len = BitVec.extractLsb' (lo - 9) len x := by
  unfold fld mkA
  iterate 2 refine (BitVec.extractLsb'_append_eq_of_le (by omega)).trans ?_
  refine (BitVec.extractLsb'_append_eq_of_add_le (by omega)).trans ?_
  exact congrArg (fun k => BitVec.extractLsb' k len x) (by omega)

@[simp] theorem fld_mkA_aop (op d : BitVec 6) (g : BitVec 5) (x : BitVec 6) (aop : BitVec 5) (fl : BitVec 4) {lo len : Nat} (h : 4 ≤ lo)
    (h2 : lo + len ≤ 9) : fld (mkA op d g x aop fl) lo len = BitVec.extractLsb' (lo - 4) len aop := by
  unfold fld mkA
  refine (BitVec.extractLsb'_append_eq_of_le (by omega)).trans ?_
  refine (BitVec.extractLsb'_append_eq_of_add_le (by omega)).trans ?_
  exact congrArg (fun k => BitVec.extractLsb' k len aop) (by omega)

@[simp] theorem fld_mkA_fl (op d : BitVec 6) (g : BitVec 5) (x : BitVec 6) (aop : BitVec 5) (fl : BitVec 4) {lo len : Nat} (h : 0 ≤ lo)
    (h2 : lo + len ≤ 4) : fld (mkA op d g x aop fl) lo len = BitVec.extractLsb' lo len fl := by
  unfold fld mkA
  refine (BitVec.extractLsb'_append_eq_of_add_le (by omega)).trans ?_
  rfl

@[simp] theorem fld_mkC_op (op : BitVec 6) (neg : BitVec 1) (pred : BitVec 3) (off : BitVec 22) {lo len : Nat} (h : 26 ≤ lo)
    (h2 : lo + len ≤ 32) : fld (mkC op neg pred off) lo len = BitVec.extractLsb' (lo - 26) len op := by
  unfold fld mkC
  iterate 3 refine (BitVec.extractLsb'_append_eq_of_le (by omega)).trans ?_
  exact congrArg (fun k => BitVec.extractLsb' k len op) (by omega)

@[simp] theorem fld_mkC_neg (op : BitVec 6) (neg : BitVec 1) (pred : BitVec 3) (off : BitVec 22) {lo len : Nat} (h : 25 ≤ lo)
    (h2 : lo + len ≤ 26) : fld (mkC op neg pred off) lo len = BitVec.extractLsb' (lo - 25) len neg := by
  unfold fld mkC
  iterate 2 refine (BitVec.extractLsb'_append_eq_of_le (by omega)).trans ?_
  refine (BitVec.extractLsb'_append_eq_of_add_le (by omega)).trans ?_
  exact congrArg (fun k => BitVec.extractLsb' k len neg) (by omega)

@[simp] theorem fld_mkC_pred (op : BitVec 6) (neg : BitVec 1) (pred : BitVec 3) (off : BitVec 22) {lo len : Nat} (h : 22 ≤ lo)
    (h2 : lo + len ≤ 25) : fld (mkC op neg pred off) lo len = BitVec.extractLsb' (lo - 22) len pred := by
  unfold fld mkC
  refine (BitVec.extractLsb'_append_eq_of_le (by omega)).trans ?_
  refine (BitVec.extractLsb'_append_eq_of_add_le (by omega)).trans ?_
  exact congrArg (fun k => BitVec.extractLsb' k len pred) (by omega)

@[simp] theorem fld_mkC_off (op : BitVec 6) (neg : BitVec 1) (pred : BitVec 3) (off : BitVec 22) {lo len : Nat} (h : 0 ≤ lo)
    (h2 : lo + len ≤ 22) : fld (mkC op neg pred off) lo len = BitVec.extractLsb' lo len off := by
  unfold fld mkC
  refine (BitVec.extractLsb'_append_eq_of_add_le (by omega)).trans ?_
  rfl

@[simp] theorem fld_mkJ_op (op : BitVec 6) (off : BitVec 26) {lo len : Nat} (h : 26 ≤ lo)
    (h2 : lo + len ≤ 32) : fld (mkJ op off) lo len = BitVec.extractLsb' (lo - 26) len op := by
  unfold fld mkJ
  refine (BitVec.extractLsb'_append_eq_of_le (by omega)).trans ?_
  exact congrArg (fun k => BitVec.extractLsb' k len op) (by omega)

@[simp] theorem fld_mkJ_off (op : BitVec 6) (off : BitVec 26) {lo len : Nat} (h : 0 ≤ lo)
    (h2 : lo + len ≤ 26) : fld (mkJ op off) lo len = BitVec.extractLsb' lo len off := by
  unfold fld mkJ
  refine (BitVec.extractLsb'_append_eq_of_add_le (by omega)).trans ?_
  rfl

@[simp] theorem fld_mkG_op (op : BitVec 6) (gd ga gb : BitVec 5) (zero : BitVec 3) (fn : BitVec 8) {lo len : Nat} (h : 26 ≤ lo)
    (h2 : lo + len ≤ 32) : fld (mkG op gd ga gb zero fn) lo len = BitVec.extractLsb' (lo - 26) len op := by
  unfold fld mkG
  iterate 5 refine (BitVec.extractLsb'_append_eq_of_le (by omega)).trans ?_
  exact congrArg (fun k => BitVec.extractLsb' k len op) (by omega)

@[simp] theorem fld_mkG_gd (op : BitVec 6) (gd ga gb : BitVec 5) (zero : BitVec 3) (fn : BitVec 8) {lo len : Nat} (h : 21 ≤ lo)
    (h2 : lo + len ≤ 26) : fld (mkG op gd ga gb zero fn) lo len = BitVec.extractLsb' (lo - 21) len gd := by
  unfold fld mkG
  iterate 4 refine (BitVec.extractLsb'_append_eq_of_le (by omega)).trans ?_
  refine (BitVec.extractLsb'_append_eq_of_add_le (by omega)).trans ?_
  exact congrArg (fun k => BitVec.extractLsb' k len gd) (by omega)

@[simp] theorem fld_mkG_ga (op : BitVec 6) (gd ga gb : BitVec 5) (zero : BitVec 3) (fn : BitVec 8) {lo len : Nat} (h : 16 ≤ lo)
    (h2 : lo + len ≤ 21) : fld (mkG op gd ga gb zero fn) lo len = BitVec.extractLsb' (lo - 16) len ga := by
  unfold fld mkG
  iterate 3 refine (BitVec.extractLsb'_append_eq_of_le (by omega)).trans ?_
  refine (BitVec.extractLsb'_append_eq_of_add_le (by omega)).trans ?_
  exact congrArg (fun k => BitVec.extractLsb' k len ga) (by omega)

@[simp] theorem fld_mkG_gb (op : BitVec 6) (gd ga gb : BitVec 5) (zero : BitVec 3) (fn : BitVec 8) {lo len : Nat} (h : 11 ≤ lo)
    (h2 : lo + len ≤ 16) : fld (mkG op gd ga gb zero fn) lo len = BitVec.extractLsb' (lo - 11) len gb := by
  unfold fld mkG
  iterate 2 refine (BitVec.extractLsb'_append_eq_of_le (by omega)).trans ?_
  refine (BitVec.extractLsb'_append_eq_of_add_le (by omega)).trans ?_
  exact congrArg (fun k => BitVec.extractLsb' k len gb) (by omega)

@[simp] theorem fld_mkG_zero (op : BitVec 6) (gd ga gb : BitVec 5) (zero : BitVec 3) (fn : BitVec 8) {lo len : Nat} (h : 8 ≤ lo)
    (h2 : lo + len ≤ 11) : fld (mkG op gd ga gb zero fn) lo len = BitVec.extractLsb' (lo - 8) len zero := by
  unfold fld mkG
  refine (BitVec.extractLsb'_append_eq_of_le (by omega)).trans ?_
  refine (BitVec.extractLsb'_append_eq_of_add_le (by omega)).trans ?_
  exact congrArg (fun k => BitVec.extractLsb' k len zero) (by omega)

@[simp] theorem fld_mkG_fn (op : BitVec 6) (gd ga gb : BitVec 5) (zero : BitVec 3) (fn : BitVec 8) {lo len : Nat} (h : 0 ≤ lo)
    (h2 : lo + len ≤ 8) : fld (mkG op gd ga gb zero fn) lo len = BitVec.extractLsb' lo len fn := by
  unfold fld mkG
  refine (BitVec.extractLsb'_append_eq_of_add_le (by omega)).trans ?_
  rfl

@[simp] theorem fld_mkGI_op (op : BitVec 6) (gd ga : BitVec 5) (imm : BitVec 16) {lo len : Nat} (h : 26 ≤ lo)
    (h2 : lo + len ≤ 32) : fld (mkGI op gd ga imm) lo len = BitVec.extractLsb' (lo - 26) len op := by
  unfold fld mkGI
  iterate 3 refine (BitVec.extractLsb'_append_eq_of_le (by omega)).trans ?_
  exact congrArg (fun k => BitVec.extractLsb' k len op) (by omega)

@[simp] theorem fld_mkGI_gd (op : BitVec 6) (gd ga : BitVec 5) (imm : BitVec 16) {lo len : Nat} (h : 21 ≤ lo)
    (h2 : lo + len ≤ 26) : fld (mkGI op gd ga imm) lo len = BitVec.extractLsb' (lo - 21) len gd := by
  unfold fld mkGI
  iterate 2 refine (BitVec.extractLsb'_append_eq_of_le (by omega)).trans ?_
  refine (BitVec.extractLsb'_append_eq_of_add_le (by omega)).trans ?_
  exact congrArg (fun k => BitVec.extractLsb' k len gd) (by omega)

@[simp] theorem fld_mkGI_ga (op : BitVec 6) (gd ga : BitVec 5) (imm : BitVec 16) {lo len : Nat} (h : 16 ≤ lo)
    (h2 : lo + len ≤ 21) : fld (mkGI op gd ga imm) lo len = BitVec.extractLsb' (lo - 16) len ga := by
  unfold fld mkGI
  refine (BitVec.extractLsb'_append_eq_of_le (by omega)).trans ?_
  refine (BitVec.extractLsb'_append_eq_of_add_le (by omega)).trans ?_
  exact congrArg (fun k => BitVec.extractLsb' k len ga) (by omega)

@[simp] theorem fld_mkGI_imm (op : BitVec 6) (gd ga : BitVec 5) (imm : BitVec 16) {lo len : Nat} (h : 0 ≤ lo)
    (h2 : lo + len ≤ 16) : fld (mkGI op gd ga imm) lo len = BitVec.extractLsb' lo len imm := by
  unfold fld mkGI
  refine (BitVec.extractLsb'_append_eq_of_add_le (by omega)).trans ?_
  rfl

@[simp] theorem fld_mkX_op (op d : BitVec 6) (ga gb : BitVec 5) (z : BitVec 4) (sub : BitVec 6) {lo len : Nat} (h : 26 ≤ lo)
    (h2 : lo + len ≤ 32) : fld (mkX op d ga gb z sub) lo len = BitVec.extractLsb' (lo - 26) len op := by
  unfold fld mkX
  iterate 5 refine (BitVec.extractLsb'_append_eq_of_le (by omega)).trans ?_
  exact congrArg (fun k => BitVec.extractLsb' k len op) (by omega)

@[simp] theorem fld_mkX_d (op d : BitVec 6) (ga gb : BitVec 5) (z : BitVec 4) (sub : BitVec 6) {lo len : Nat} (h : 20 ≤ lo)
    (h2 : lo + len ≤ 26) : fld (mkX op d ga gb z sub) lo len = BitVec.extractLsb' (lo - 20) len d := by
  unfold fld mkX
  iterate 4 refine (BitVec.extractLsb'_append_eq_of_le (by omega)).trans ?_
  refine (BitVec.extractLsb'_append_eq_of_add_le (by omega)).trans ?_
  exact congrArg (fun k => BitVec.extractLsb' k len d) (by omega)

@[simp] theorem fld_mkX_ga (op d : BitVec 6) (ga gb : BitVec 5) (z : BitVec 4) (sub : BitVec 6) {lo len : Nat} (h : 15 ≤ lo)
    (h2 : lo + len ≤ 20) : fld (mkX op d ga gb z sub) lo len = BitVec.extractLsb' (lo - 15) len ga := by
  unfold fld mkX
  iterate 3 refine (BitVec.extractLsb'_append_eq_of_le (by omega)).trans ?_
  refine (BitVec.extractLsb'_append_eq_of_add_le (by omega)).trans ?_
  exact congrArg (fun k => BitVec.extractLsb' k len ga) (by omega)

@[simp] theorem fld_mkX_gb (op d : BitVec 6) (ga gb : BitVec 5) (z : BitVec 4) (sub : BitVec 6) {lo len : Nat} (h : 10 ≤ lo)
    (h2 : lo + len ≤ 15) : fld (mkX op d ga gb z sub) lo len = BitVec.extractLsb' (lo - 10) len gb := by
  unfold fld mkX
  iterate 2 refine (BitVec.extractLsb'_append_eq_of_le (by omega)).trans ?_
  refine (BitVec.extractLsb'_append_eq_of_add_le (by omega)).trans ?_
  exact congrArg (fun k => BitVec.extractLsb' k len gb) (by omega)

@[simp] theorem fld_mkX_z (op d : BitVec 6) (ga gb : BitVec 5) (z : BitVec 4) (sub : BitVec 6) {lo len : Nat} (h : 6 ≤ lo)
    (h2 : lo + len ≤ 10) : fld (mkX op d ga gb z sub) lo len = BitVec.extractLsb' (lo - 6) len z := by
  unfold fld mkX
  refine (BitVec.extractLsb'_append_eq_of_le (by omega)).trans ?_
  refine (BitVec.extractLsb'_append_eq_of_add_le (by omega)).trans ?_
  exact congrArg (fun k => BitVec.extractLsb' k len z) (by omega)

@[simp] theorem fld_mkX_sub (op d : BitVec 6) (ga gb : BitVec 5) (z : BitVec 4) (sub : BitVec 6) {lo len : Nat} (h : 0 ≤ lo)
    (h2 : lo + len ≤ 6) : fld (mkX op d ga gb z sub) lo len = BitVec.extractLsb' lo len sub := by
  unfold fld mkX
  refine (BitVec.extractLsb'_append_eq_of_add_le (by omega)).trans ?_
  rfl

@[simp] theorem fld_mkFcvt_op (op d a : BitVec 6) (rm : BitVec 2) (sat trap : BitVec 1) (zero : BitVec 2) (df sf : BitVec 4) {lo len : Nat} (h : 26 ≤ lo)
    (h2 : lo + len ≤ 32) : fld (mkFcvt op d a rm sat trap zero df sf) lo len = BitVec.extractLsb' (lo - 26) len op := by
  unfold fld mkFcvt
  iterate 8 refine (BitVec.extractLsb'_append_eq_of_le (by omega)).trans ?_
  exact congrArg (fun k => BitVec.extractLsb' k len op) (by omega)

@[simp] theorem fld_mkFcvt_d (op d a : BitVec 6) (rm : BitVec 2) (sat trap : BitVec 1) (zero : BitVec 2) (df sf : BitVec 4) {lo len : Nat} (h : 20 ≤ lo)
    (h2 : lo + len ≤ 26) : fld (mkFcvt op d a rm sat trap zero df sf) lo len = BitVec.extractLsb' (lo - 20) len d := by
  unfold fld mkFcvt
  iterate 7 refine (BitVec.extractLsb'_append_eq_of_le (by omega)).trans ?_
  refine (BitVec.extractLsb'_append_eq_of_add_le (by omega)).trans ?_
  exact congrArg (fun k => BitVec.extractLsb' k len d) (by omega)

@[simp] theorem fld_mkFcvt_a (op d a : BitVec 6) (rm : BitVec 2) (sat trap : BitVec 1) (zero : BitVec 2) (df sf : BitVec 4) {lo len : Nat} (h : 14 ≤ lo)
    (h2 : lo + len ≤ 20) : fld (mkFcvt op d a rm sat trap zero df sf) lo len = BitVec.extractLsb' (lo - 14) len a := by
  unfold fld mkFcvt
  iterate 6 refine (BitVec.extractLsb'_append_eq_of_le (by omega)).trans ?_
  refine (BitVec.extractLsb'_append_eq_of_add_le (by omega)).trans ?_
  exact congrArg (fun k => BitVec.extractLsb' k len a) (by omega)

@[simp] theorem fld_mkFcvt_rm (op d a : BitVec 6) (rm : BitVec 2) (sat trap : BitVec 1) (zero : BitVec 2) (df sf : BitVec 4) {lo len : Nat} (h : 12 ≤ lo)
    (h2 : lo + len ≤ 14) : fld (mkFcvt op d a rm sat trap zero df sf) lo len = BitVec.extractLsb' (lo - 12) len rm := by
  unfold fld mkFcvt
  iterate 5 refine (BitVec.extractLsb'_append_eq_of_le (by omega)).trans ?_
  refine (BitVec.extractLsb'_append_eq_of_add_le (by omega)).trans ?_
  exact congrArg (fun k => BitVec.extractLsb' k len rm) (by omega)

@[simp] theorem fld_mkFcvt_sat (op d a : BitVec 6) (rm : BitVec 2) (sat trap : BitVec 1) (zero : BitVec 2) (df sf : BitVec 4) {lo len : Nat} (h : 11 ≤ lo)
    (h2 : lo + len ≤ 12) : fld (mkFcvt op d a rm sat trap zero df sf) lo len = BitVec.extractLsb' (lo - 11) len sat := by
  unfold fld mkFcvt
  iterate 4 refine (BitVec.extractLsb'_append_eq_of_le (by omega)).trans ?_
  refine (BitVec.extractLsb'_append_eq_of_add_le (by omega)).trans ?_
  exact congrArg (fun k => BitVec.extractLsb' k len sat) (by omega)

@[simp] theorem fld_mkFcvt_trap (op d a : BitVec 6) (rm : BitVec 2) (sat trap : BitVec 1) (zero : BitVec 2) (df sf : BitVec 4) {lo len : Nat} (h : 10 ≤ lo)
    (h2 : lo + len ≤ 11) : fld (mkFcvt op d a rm sat trap zero df sf) lo len = BitVec.extractLsb' (lo - 10) len trap := by
  unfold fld mkFcvt
  iterate 3 refine (BitVec.extractLsb'_append_eq_of_le (by omega)).trans ?_
  refine (BitVec.extractLsb'_append_eq_of_add_le (by omega)).trans ?_
  exact congrArg (fun k => BitVec.extractLsb' k len trap) (by omega)

@[simp] theorem fld_mkFcvt_zero (op d a : BitVec 6) (rm : BitVec 2) (sat trap : BitVec 1) (zero : BitVec 2) (df sf : BitVec 4) {lo len : Nat} (h : 8 ≤ lo)
    (h2 : lo + len ≤ 10) : fld (mkFcvt op d a rm sat trap zero df sf) lo len = BitVec.extractLsb' (lo - 8) len zero := by
  unfold fld mkFcvt
  iterate 2 refine (BitVec.extractLsb'_append_eq_of_le (by omega)).trans ?_
  refine (BitVec.extractLsb'_append_eq_of_add_le (by omega)).trans ?_
  exact congrArg (fun k => BitVec.extractLsb' k len zero) (by omega)

@[simp] theorem fld_mkFcvt_df (op d a : BitVec 6) (rm : BitVec 2) (sat trap : BitVec 1) (zero : BitVec 2) (df sf : BitVec 4) {lo len : Nat} (h : 4 ≤ lo)
    (h2 : lo + len ≤ 8) : fld (mkFcvt op d a rm sat trap zero df sf) lo len = BitVec.extractLsb' (lo - 4) len df := by
  unfold fld mkFcvt
  refine (BitVec.extractLsb'_append_eq_of_le (by omega)).trans ?_
  refine (BitVec.extractLsb'_append_eq_of_add_le (by omega)).trans ?_
  exact congrArg (fun k => BitVec.extractLsb' k len df) (by omega)

@[simp] theorem fld_mkFcvt_sf (op d a : BitVec 6) (rm : BitVec 2) (sat trap : BitVec 1) (zero : BitVec 2) (df sf : BitVec 4) {lo len : Nat} (h : 0 ≤ lo)
    (h2 : lo + len ≤ 4) : fld (mkFcvt op d a rm sat trap zero df sf) lo len = BitVec.extractLsb' lo len sf := by
  unfold fld mkFcvt
  refine (BitVec.extractLsb'_append_eq_of_add_le (by omega)).trans ?_
  rfl

/-! ## Fields that hold two parts -/

@[simp] theorem high_1_1 (x : BitVec 1) (y : BitVec 1) {lo len : Nat} (h : 1 ≤ lo) :
    BitVec.extractLsb' (n := 2) lo len (x ++ y) = BitVec.extractLsb' (lo - 1) len x :=
  BitVec.extractLsb'_append_eq_of_le h
@[simp] theorem low_1_1 (x : BitVec 1) (y : BitVec 1) {lo len : Nat} (h : lo + len ≤ 1) :
    BitVec.extractLsb' (n := 2) lo len (x ++ y) = BitVec.extractLsb' lo len y :=
  BitVec.extractLsb'_append_eq_of_add_le h

@[simp] theorem high_2_2 (x : BitVec 2) (y : BitVec 2) {lo len : Nat} (h : 2 ≤ lo) :
    BitVec.extractLsb' (n := 4) lo len (x ++ y) = BitVec.extractLsb' (lo - 2) len x :=
  BitVec.extractLsb'_append_eq_of_le h
@[simp] theorem low_2_2 (x : BitVec 2) (y : BitVec 2) {lo len : Nat} (h : lo + len ≤ 2) :
    BitVec.extractLsb' (n := 4) lo len (x ++ y) = BitVec.extractLsb' lo len y :=
  BitVec.extractLsb'_append_eq_of_add_le h

@[simp] theorem high_6_1 (x : BitVec 6) (y : BitVec 1) {lo len : Nat} (h : 1 ≤ lo) :
    BitVec.extractLsb' (n := 7) lo len (x ++ y) = BitVec.extractLsb' (lo - 1) len x :=
  BitVec.extractLsb'_append_eq_of_le h
@[simp] theorem low_6_1 (x : BitVec 6) (y : BitVec 1) {lo len : Nat} (h : lo + len ≤ 1) :
    BitVec.extractLsb' (n := 7) lo len (x ++ y) = BitVec.extractLsb' lo len y :=
  BitVec.extractLsb'_append_eq_of_add_le h

@[simp] theorem high_3_3 (x : BitVec 3) (y : BitVec 3) {lo len : Nat} (h : 3 ≤ lo) :
    BitVec.extractLsb' (n := 6) lo len (x ++ y) = BitVec.extractLsb' (lo - 3) len x :=
  BitVec.extractLsb'_append_eq_of_le h
@[simp] theorem low_3_3 (x : BitVec 3) (y : BitVec 3) {lo len : Nat} (h : lo + len ≤ 3) :
    BitVec.extractLsb' (n := 6) lo len (x ++ y) = BitVec.extractLsb' lo len y :=
  BitVec.extractLsb'_append_eq_of_add_le h

@[simp] theorem high_5_3 (x : BitVec 5) (y : BitVec 3) {lo len : Nat} (h : 3 ≤ lo) :
    BitVec.extractLsb' (n := 8) lo len (x ++ y) = BitVec.extractLsb' (lo - 3) len x :=
  BitVec.extractLsb'_append_eq_of_le h
@[simp] theorem low_5_3 (x : BitVec 5) (y : BitVec 3) {lo len : Nat} (h : lo + len ≤ 3) :
    BitVec.extractLsb' (n := 8) lo len (x ++ y) = BitVec.extractLsb' lo len y :=
  BitVec.extractLsb'_append_eq_of_add_le h

@[simp] theorem high_1_5 (x : BitVec 1) (y : BitVec 5) {lo len : Nat} (h : 5 ≤ lo) :
    BitVec.extractLsb' (n := 6) lo len (x ++ y) = BitVec.extractLsb' (lo - 5) len x :=
  BitVec.extractLsb'_append_eq_of_le h
@[simp] theorem low_1_5 (x : BitVec 1) (y : BitVec 5) {lo len : Nat} (h : lo + len ≤ 5) :
    BitVec.extractLsb' (n := 6) lo len (x ++ y) = BitVec.extractLsb' lo len y :=
  BitVec.extractLsb'_append_eq_of_add_le h

@[simp] theorem high_5_1 (x : BitVec 5) (y : BitVec 1) {lo len : Nat} (h : 1 ≤ lo) :
    BitVec.extractLsb' (n := 6) lo len (x ++ y) = BitVec.extractLsb' (lo - 1) len x :=
  BitVec.extractLsb'_append_eq_of_le h
@[simp] theorem low_5_1 (x : BitVec 5) (y : BitVec 1) {lo len : Nat} (h : lo + len ≤ 1) :
    BitVec.extractLsb' (n := 6) lo len (x ++ y) = BitVec.extractLsb' lo len y :=
  BitVec.extractLsb'_append_eq_of_add_le h

@[simp] theorem high_1_7 (x : BitVec 1) (y : BitVec 7) {lo len : Nat} (h : 7 ≤ lo) :
    BitVec.extractLsb' (n := 8) lo len (x ++ y) = BitVec.extractLsb' (lo - 7) len x :=
  BitVec.extractLsb'_append_eq_of_le h
@[simp] theorem low_1_7 (x : BitVec 1) (y : BitVec 7) {lo len : Nat} (h : lo + len ≤ 7) :
    BitVec.extractLsb' (n := 8) lo len (x ++ y) = BitVec.extractLsb' lo len y :=
  BitVec.extractLsb'_append_eq_of_add_le h

@[simp] theorem high_1_3 (x : BitVec 1) (y : BitVec 3) {lo len : Nat} (h : 3 ≤ lo) :
    BitVec.extractLsb' (n := 4) lo len (x ++ y) = BitVec.extractLsb' (lo - 3) len x :=
  BitVec.extractLsb'_append_eq_of_le h
@[simp] theorem low_1_3 (x : BitVec 1) (y : BitVec 3) {lo len : Nat} (h : lo + len ≤ 3) :
    BitVec.extractLsb' (n := 4) lo len (x ++ y) = BitVec.extractLsb' lo len y :=
  BitVec.extractLsb'_append_eq_of_add_le h

@[simp] theorem high_3_1 (x : BitVec 3) (y : BitVec 1) {lo len : Nat} (h : 1 ≤ lo) :
    BitVec.extractLsb' (n := 4) lo len (x ++ y) = BitVec.extractLsb' (lo - 1) len x :=
  BitVec.extractLsb'_append_eq_of_le h
@[simp] theorem low_3_1 (x : BitVec 3) (y : BitVec 1) {lo len : Nat} (h : lo + len ≤ 1) :
    BitVec.extractLsb' (n := 4) lo len (x ++ y) = BitVec.extractLsb' lo len y :=
  BitVec.extractLsb'_append_eq_of_add_le h

@[simp] theorem high_4_2 (x : BitVec 4) (y : BitVec 2) {lo len : Nat} (h : 2 ≤ lo) :
    BitVec.extractLsb' (n := 6) lo len (x ++ y) = BitVec.extractLsb' (lo - 2) len x :=
  BitVec.extractLsb'_append_eq_of_le h
@[simp] theorem low_4_2 (x : BitVec 4) (y : BitVec 2) {lo len : Nat} (h : lo + len ≤ 2) :
    BitVec.extractLsb' (n := 6) lo len (x ++ y) = BitVec.extractLsb' lo len y :=
  BitVec.extractLsb'_append_eq_of_add_le h

@[simp] theorem high_4_1 (x : BitVec 4) (y : BitVec 1) {lo len : Nat} (h : 1 ≤ lo) :
    BitVec.extractLsb' (n := 5) lo len (x ++ y) = BitVec.extractLsb' (lo - 1) len x :=
  BitVec.extractLsb'_append_eq_of_le h
@[simp] theorem low_4_1 (x : BitVec 4) (y : BitVec 1) {lo len : Nat} (h : lo + len ≤ 1) :
    BitVec.extractLsb' (n := 5) lo len (x ++ y) = BitVec.extractLsb' lo len y :=
  BitVec.extractLsb'_append_eq_of_add_le h

@[simp] theorem high_1_4 (x : BitVec 1) (y : BitVec 4) {lo len : Nat} (h : 4 ≤ lo) :
    BitVec.extractLsb' (n := 5) lo len (x ++ y) = BitVec.extractLsb' (lo - 4) len x :=
  BitVec.extractLsb'_append_eq_of_le h
@[simp] theorem low_1_4 (x : BitVec 1) (y : BitVec 4) {lo len : Nat} (h : lo + len ≤ 4) :
    BitVec.extractLsb' (n := 5) lo len (x ++ y) = BitVec.extractLsb' lo len y :=
  BitVec.extractLsb'_append_eq_of_add_le h

end Sys2Proof
end

