-- ==== Sys2Proof/Laws/Maps.lean ====
section
/-! SUPPORT. Laws of finite maps, sparse words and memories: a read after a write, and that every operation keeps the
canonical form. -/

namespace Sys2Proof.Machine

/-! ## Reads after writes -/

theorem AMap.get?_put {α : Type} (m : AMap α) (k k' : Nat) (v : α) :
    AMap.get? (AMap.put m k v) k' = if k' = k then some v else AMap.get? m k' := by
  induction m with
  | nil => by_cases h : k' = k <;> simp [AMap.put, AMap.get?, h] <;> omega
  | cons e m ih =>
    obtain ⟨a, b⟩ := e
    simp only [AMap.put]
    rcases Nat.lt_trichotomy a k with h | h | h
    · rw [if_pos h, AMap.get?, ih, AMap.get?]
      repeat' split
      all_goals first | rfl | omega
    · subst a
      rw [if_neg (by omega), if_pos rfl, AMap.get?, AMap.get?]
      repeat' split
      all_goals first | rfl | omega
    · rw [if_neg (by omega), if_neg (by omega), AMap.get?]
      repeat' split
      all_goals first | rfl | omega | (rw [AMap.get?, if_neg (by omega), if_neg (by omega)])

theorem AMap.getD_put {α : Type} (m : AMap α) (k k' : Nat) (v d : α) :
    AMap.getD (AMap.put m k v) k' d = if k' = k then v else AMap.getD m k' d := by
  simp only [AMap.getD, AMap.get?_put]; split <;> rfl

theorem AMap.get?_dropTo {α : Type} (m : AMap α) (k k' : Nat) (h : k < k') :
    AMap.get? (AMap.dropTo k m) k' = AMap.get? m k' := by
  induction m with
  | nil => rfl
  | cons e m ih =>
    obtain ⟨a, b⟩ := e
    simp only [AMap.dropTo]
    split
    · rw [ih, AMap.get?, if_pos (by omega)]
    · rfl

theorem AMap.get?_dropTo_le {α : Type} (m : AMap α) (k k' : Nat) (h : k' ≤ k) :
    AMap.get? (AMap.dropTo k m) k' = none := by
  induction m with
  | nil => rfl
  | cons e m ih =>
    obtain ⟨a, b⟩ := e
    simp only [AMap.dropTo]
    split
    · exact ih
    · rw [AMap.get?, if_neg (by omega), if_neg (by omega)]

theorem AMap.get?_erase {α : Type} (m : AMap α) (k k' : Nat) :
    AMap.get? (AMap.erase m k) k' = if k' = k then none else AMap.get? m k' := by
  induction m with
  | nil => simp [AMap.erase, AMap.get?]
  | cons e m ih =>
    obtain ⟨a, b⟩ := e
    simp only [AMap.erase]
    split
    · simp only [AMap.get?, ih]
      repeat' split
      all_goals first | rfl | omega
    · split
      · subst a
        by_cases h : k < k'
        · rw [AMap.get?_dropTo _ _ _ h, if_neg (by omega), AMap.get?, if_pos h]
        · rw [AMap.get?_dropTo_le _ _ _ (by omega)]
          split
          · rfl
          · rw [AMap.get?, if_neg h, if_neg (by omega)]
      · simp only [AMap.get?]
        repeat' split
        all_goals first | rfl | omega

theorem AMap.get?_modify {α : Type} (m : AMap α) (k k' : Nat) (f : α → α) :
    AMap.get? (AMap.modify m k f) k' = if k' = k then (AMap.get? m k').map f else AMap.get? m k' := by
  unfold AMap.modify
  split
  · next v h =>
    rw [AMap.get?_put]
    split
    · subst k'; rw [h]; rfl
    · rfl
  · next h =>
    split
    · subst k'; rw [h]; rfl
    · rfl

theorem AMap.get?_map {α β : Type} (m : AMap α) (f : Nat → α → β) (k : Nat) :
    AMap.get? (m.map (fun e => (e.1, f e.1 e.2))) k = (AMap.get? m k).map (f k) := by
  induction m with
  | nil => rfl
  | cons e m ih =>
    obtain ⟨a, b⟩ := e
    simp only [List.map_cons, AMap.get?]
    split
    · exact ih
    · split
      · subst a; rfl
      · rfl

theorem Sparse.read_write {n : Nat} (m : Sparse n) (k k' : Nat) (v : BitVec n) :
    Sparse.read (Sparse.write m k v) k' = if k' = k then v else Sparse.read m k' := by
  unfold Sparse.write Sparse.read AMap.getD
  split
  · rw [AMap.get?_erase]; split
    · simp_all
    · rfl
  · rw [AMap.get?_put]; split <;> rfl

theorem Mem.byte_setByte (m : Mem) (a a' : Nat) (b : Byte) :
    Mem.byte (Mem.setByte m a b) a' = if a' = a then b else Mem.byte m a' := Sparse.read_write m a a' b

theorem Mem.byte_setBytes (m : Mem) (a a' : Nat) (bs : List Byte) :
    Mem.byte (Mem.setBytes m a bs) a' =
      if h : a ≤ a' ∧ a' < a + bs.length then bs[a' - a]'(by omega) else Mem.byte m a' := by
  induction bs generalizing m a with
  | nil => rw [dif_neg (by simp)]; rfl
  | cons b bs ih =>
    rw [Mem.setBytes, ih, Mem.byte_setByte]
    simp only [List.length_cons]
    by_cases h1 : a' = a
    · subst a'
      rw [dif_neg (by omega), if_pos rfl, dif_pos (by omega)]
      simp
    · by_cases h2 : a + 1 ≤ a' ∧ a' < a + 1 + bs.length
      · rw [dif_pos h2, dif_pos (by omega)]
        obtain ⟨d, rfl⟩ : ∃ d, a' = a + 1 + d := ⟨a' - (a + 1), by omega⟩
        have e1 : a + 1 + d - (a + 1) = d := by omega
        have e2 : a + 1 + d - a = d + 1 := by omega
        simp [e1, e2]
      · rw [dif_neg h2, if_neg h1, dif_neg (by omega)]

theorem Mem.bytes_length (m : Mem) (a n : Nat) : (Mem.bytes m a n).length = n := by
  induction n generalizing a with
  | zero => rfl
  | succ n ih => simp [Mem.bytes, ih]

theorem bytesOf_length (n v : Nat) : (bytesOf n v).length = n := by
  induction n generalizing v with
  | zero => rfl
  | succ n ih => simp [bytesOf, ih]

/-! ## The canonical form -/

/-- Every key of a map is above a bound. -/
def AMap.above {α : Type} (b : Nat) (m : AMap α) : Prop := ∀ e ∈ m, b < e.1

theorem AMap.rising_cons {α : Type} (e : Nat × α) (m : AMap α) :
    AMap.rising (e :: m) = true ↔ AMap.rising m = true ∧ AMap.above e.1 m := by
  induction m generalizing e with
  | nil => simp [AMap.rising, AMap.above]
  | cons e' m ih =>
    obtain ⟨k, v⟩ := e
    obtain ⟨k', v'⟩ := e'
    simp only [AMap.rising, Bool.and_eq_true, decide_eq_true_eq]
    constructor
    · rintro ⟨h1, h2⟩
      refine ⟨h2, ?_⟩
      intro x hx
      rcases List.mem_cons.mp hx with rfl | hx
      · exact h1
      · have := ((ih (k', v')).mp h2).2 x hx
        dsimp only at *; omega
    · rintro ⟨h1, h2⟩
      exact ⟨h2 (k', v') List.mem_cons_self, h1⟩

theorem AMap.above_put {α : Type} (m : AMap α) (b k : Nat) (v : α) (h : AMap.above b m) (hk : b < k) :
    AMap.above b (AMap.put m k v) := by
  induction m with
  | nil => intro e he; simp only [AMap.put, List.mem_singleton] at he; subst he; exact hk
  | cons e m ih =>
    obtain ⟨a, c⟩ := e
    have ha : b < a := h (a, c) List.mem_cons_self
    have hm : AMap.above b m := fun x hx => h x (List.mem_cons_of_mem _ hx)
    simp only [AMap.put]
    split
    · intro x hx
      rcases List.mem_cons.mp hx with rfl | hx
      · exact ha
      · exact ih hm x hx
    · split
      · intro x hx
        rcases List.mem_cons.mp hx with rfl | hx
        · exact hk
        · exact hm x hx
      · intro x hx
        rcases List.mem_cons.mp hx with rfl | hx
        · exact hk
        · exact h x hx

theorem AMap.rising_put {α : Type} (m : AMap α) (k : Nat) (v : α) (h : AMap.rising m = true) :
    AMap.rising (AMap.put m k v) = true := by
  induction m with
  | nil => rfl
  | cons e m ih =>
    obtain ⟨a, c⟩ := e
    have hc := (AMap.rising_cons (a, c) m).mp h
    simp only [AMap.put]
    split
    · exact (AMap.rising_cons _ _).mpr ⟨ih hc.1, AMap.above_put m a k v hc.2 (by assumption)⟩
    · split
      · subst a
        exact (AMap.rising_cons _ _).mpr ⟨hc.1, hc.2⟩
      · refine (AMap.rising_cons _ _).mpr ⟨h, ?_⟩
        intro x hx
        rcases List.mem_cons.mp hx with rfl | hx
        · dsimp only; omega
        · have := hc.2 x hx
          dsimp only at *; omega

theorem AMap.rising_filter {α : Type} (m : AMap α) (p : Nat × α → Bool) (h : AMap.rising m = true) :
    AMap.rising (m.filter p) = true := by
  induction m with
  | nil => rfl
  | cons e m ih =>
    have hc := (AMap.rising_cons e m).mp h
    simp only [List.filter_cons]
    split
    · exact (AMap.rising_cons _ _).mpr ⟨ih hc.1, fun x hx => hc.2 x (List.mem_filter.mp hx).1⟩
    · exact ih hc.1

theorem AMap.dropTo_rising {α : Type} (m : AMap α) (k : Nat) (h : AMap.rising m = true) :
    AMap.rising (AMap.dropTo k m) = true := by
  induction m with
  | nil => rfl
  | cons e m ih =>
    obtain ⟨a, c⟩ := e
    simp only [AMap.dropTo]
    split
    · exact ih ((AMap.rising_cons _ _).mp h).1
    · exact h

theorem AMap.mem_dropTo {α : Type} (m : AMap α) (k : Nat) (e : Nat × α) (h : e ∈ AMap.dropTo k m) : e ∈ m := by
  induction m with
  | nil => exact h
  | cons x m ih =>
    obtain ⟨a, c⟩ := x
    simp only [AMap.dropTo] at h
    split at h
    · exact List.mem_cons_of_mem _ (ih h)
    · exact h

theorem AMap.mem_erase {α : Type} (m : AMap α) (k : Nat) (e : Nat × α) (h : e ∈ AMap.erase m k) : e ∈ m := by
  induction m with
  | nil => exact h
  | cons x m ih =>
    obtain ⟨a, c⟩ := x
    simp only [AMap.erase] at h
    split at h
    · rcases List.mem_cons.mp h with rfl | h
      · exact List.mem_cons_self
      · exact List.mem_cons_of_mem _ (ih h)
    · split at h
      · exact List.mem_cons_of_mem _ (AMap.mem_dropTo m k e h)
      · exact h

theorem AMap.rising_erase {α : Type} (m : AMap α) (k : Nat) (h : AMap.rising m = true) :
    AMap.rising (AMap.erase m k) = true := by
  induction m with
  | nil => rfl
  | cons e m ih =>
    obtain ⟨a, c⟩ := e
    have hc := (AMap.rising_cons (a, c) m).mp h
    simp only [AMap.erase]
    split
    · exact (AMap.rising_cons _ _).mpr ⟨ih hc.1, fun x hx => hc.2 x (AMap.mem_erase m k x hx)⟩
    · split
      · exact AMap.dropTo_rising m k hc.1
      · exact h

theorem AMap.mem_put {α : Type} (m : AMap α) (k : Nat) (v : α) (e : Nat × α) (h : e ∈ AMap.put m k v) :
    e = (k, v) ∨ e ∈ m := by
  induction m with
  | nil => exact .inl (List.mem_singleton.mp h)
  | cons x m ih =>
    obtain ⟨a, c⟩ := x
    simp only [AMap.put] at h
    split at h
    · rcases List.mem_cons.mp h with rfl | h
      · exact .inr List.mem_cons_self
      · rcases ih h with h | h
        · exact .inl h
        · exact .inr (List.mem_cons_of_mem _ h)
    · split at h
      · rcases List.mem_cons.mp h with rfl | h
        · exact .inl rfl
        · exact .inr (List.mem_cons_of_mem _ h)
      · rcases List.mem_cons.mp h with rfl | h
        · exact .inl rfl
        · exact .inr h

theorem Sparse.wf_iff {n : Nat} (m : Sparse n) :
    Sparse.wf m = true ↔ AMap.rising m = true ∧ ∀ e ∈ m, e.2 ≠ 0#n := by
  simp [Sparse.wf, List.all_eq_true]

/-- A write keeps the canonical form. -/
theorem Sparse.wf_write {n : Nat} (m : Sparse n) (k : Nat) (v : BitVec n) (h : Sparse.wf m = true) :
    Sparse.wf (Sparse.write m k v) = true := by
  obtain ⟨h1, h2⟩ := (Sparse.wf_iff m).mp h
  refine (Sparse.wf_iff _).mpr ?_
  unfold Sparse.write
  split
  · exact ⟨AMap.rising_erase m k h1, fun e he => h2 e (AMap.mem_erase m k e he)⟩
  · refine ⟨AMap.rising_put m k v h1, fun e he => ?_⟩
    rcases AMap.mem_put m k v e he with rfl | he
    · assumption
    · exact h2 e he

/-- Leaving out entries keeps the canonical form. -/
theorem Sparse.wf_filter {n : Nat} (m : Sparse n) (p : Nat × BitVec n → Bool) (h : Sparse.wf m = true) :
    Sparse.wf (m.filter p) = true := by
  obtain ⟨h1, h2⟩ := (Sparse.wf_iff m).mp h
  exact (Sparse.wf_iff _).mpr ⟨AMap.rising_filter m p h1, fun e he => h2 e (List.mem_filter.mp he).1⟩

theorem Sparse.wf_clear {n : Nat} (m : Sparse n) (a b : Nat) (h : Sparse.wf m = true) :
    Sparse.wf (AMap.clear m a b) = true := Sparse.wf_filter m _ h

theorem Sparse.wf_between {n : Nat} (m : Sparse n) (a b : Nat) (h : Sparse.wf m = true) :
    Sparse.wf (AMap.between m a b) = true := Sparse.wf_filter m _ h

/-- Every memory operation keeps the canonical form of a memory. -/
theorem Mem.wf_setByte (m : Mem) (a : Nat) (b : Byte) (h : Mem.wf m = true) : Mem.wf (Mem.setByte m a b) = true :=
  Sparse.wf_write m a b h

theorem Mem.wf_setBytes (m : Mem) (a : Nat) (bs : List Byte) (h : Mem.wf m = true) :
    Mem.wf (Mem.setBytes m a bs) = true := by
  induction bs generalizing m a with
  | nil => exact h
  | cons b bs ih => exact ih _ _ (Mem.wf_setByte m a b h)

theorem Mem.wf_setNat (m : Mem) (a n v : Nat) (h : Mem.wf m = true) : Mem.wf (Mem.setNat m a n v) = true :=
  Mem.wf_setBytes m a _ h

theorem Mem.wf_clear (m : Mem) (a b : Nat) (h : Mem.wf m = true) : Mem.wf (AMap.clear m a b) = true :=
  Sparse.wf_clear m a b h

/-- A key at or below a bound of all keys is not listed. -/
theorem AMap.get?_above {α : Type} (m : AMap α) (k b : Nat) (h : AMap.above b m) (hk : k ≤ b) : AMap.get? m k = none := by
  cases m with
  | nil => rfl
  | cons e m =>
    obtain ⟨a, c⟩ := e
    have : b < a := h (a, c) List.mem_cons_self
    rw [AMap.get?, if_neg (by omega), if_neg (by omega)]

end Sys2Proof.Machine
end

