-- ==== Sys2Proof/Laws/Images.lean ====
section
/-! SUPPORT. How long the bytes of an image are (R334). -/

namespace Sys2Proof.Machine

theorem fit_length (n : Nat) (bs : List Byte) : (fit n bs).length = n := by
  simp [fit]; omega

theorem length_flatMap_same {α : Type} (l : List α) (f : α → List Byte) (n : Nat) (h : ∀ x, (f x).length = n) :
    (l.flatMap f).length = l.length * n := by
  induction l with
  | nil => simp
  | cons x r ih => simp [List.flatMap_cons, h, ih, Nat.add_mul]; omega

theorem bindingBytes_length (c : CtxId) (s : Nat) (b : Option Binding) : (bindingBytes c s b).length = 16 := by
  cases b <;> simp [bindingBytes, bytesOf_length]

theorem planeBytes_length (p : Plane) : (planeBytes p).length = 25604 := by
  unfold planeBytes
  rw [List.length_append, length_flatMap_same _ _ 100 (fun n => by simp [bytesOf_length]), bytesOf_length, List.length_range]

theorem engineBytes_length (e : Engine) : (engineBytes e).length = 313356 := by
  unfold engineBytes
  rw [List.length_append, List.length_append, length_flatMap_same _ _ 4 (fun n => bytesOf_length 4 _), bytesOf_length,
    List.length_range]
  split <;> simp [planeBytes_length]

theorem contextBytes_length (ctx : CtxId) (c : Ctx) (h : c.pageQ = []) : (contextBytes ctx c).length = 1348 := by
  unfold contextBytes
  simp only [List.length_append, bytesOf_length, h, List.flatMap_nil, List.length_nil,
    length_flatMap_same _ _ 16 (fun n => bindingBytes_length ctx n _), length_flatMap_same _ _ 1 (fun n => bytesOf_length 1 _),
    List.length_range]

/-- The bytes after the section table are those of the sections, each padded to 128 bytes. -/
theorem layOut_length (ss : List Section) : ∀ off, (layOut off ss).2.length = (ss.map (fun x => up128 x.bytes.length)).sum := by
  induction ss with
  | nil => intro off; rfl
  | cons x r ih => intro off; simp [layOut, fit_length, ih]

theorem imageBody_length (i : Image) : (imageBody i).length =
    (up128 (0x80 + 32 * (sections i).length) - 0x80) + ((sections i).map (fun x => up128 x.bytes.length)).sum := by
  simp [imageBody, fit_length, layOut_length]

/-- A map whose entries are all empty lists reads as an empty list everywhere. -/
theorem getD_nil {α : Type} (m : AMap (List α)) (h : ∀ x ∈ m, x.2 = []) (k : Nat) : AMap.getD m k [] = [] := by
  induction m with
  | nil => rfl
  | cons x r ih =>
    obtain ⟨k', v⟩ := x
    have hv : v = [] := h (k', v) (by simp)
    have hr := ih (fun y hy => h y (by simp [hy]))
    show (if k' < k then AMap.get? r k else if k' = k then some v else none).getD [] = []
    split
    · exact hr
    · split <;> simp [hv]

/-- An image of one cluster in IMAGE mode with no task, no copy, no mail, no barrier and no table stays below 32 MiB. -/
theorem imageBody_small (i : Image) (h1 : i.ncl = 1) (h2 : i.resident = false) (h3 : i.tasks = []) (h4 : i.copies = [])
    (h5 : ∀ k, AMap.getD i.mail k [] = []) (h6 : ∀ k, AMap.getD i.deques k [] = []) (h7 : i.bars = []) (h8 : i.pl = none)
    (h9 : i.ctx.pageQ = []) : (imageBody i).length ≤ 0x2000000 := by
  rw [imageBody_length]
  have hs : ((sections i).map (fun x => up128 x.bytes.length)).sum ≤ 20000000 ∧ (sections i).length = 46 := by
    unfold sections
    simp only [h1, h2, h3, h4, h5, h6, h7, h8]
    simp [contextBytes_length _ _ h9, Mem.bytes_length, bytesOf_length, engineBytes_length, up128, AMap.get?, barBytes, Function.comp_def,
      length_flatMap_same _ _ 4 (fun n => bytesOf_length 4 _), length_flatMap_same _ _ 16 (fun n => bytesOf_length 16 _)]
  rw [hs.2]
  have : up128 (0x80 + 32 * 46) = 1664 := rfl
  omega

end Sys2Proof.Machine
end

