-- ==== Sys2Proof/Laws/Registers.lean ====
section
/-! SUPPORT. Laws of registers and strands: what a write of one register leaves of the others, and what the shared register
forms do. -/

namespace Sys2Proof.Machine

/-! ## The active set -/

theorem lanesOf_nodup (m : Word) : (lanesOf m).Nodup := List.Nodup.filter _ List.nodup_range

theorem mem_lanesOf (m : Word) (l : Nat) : l ∈ lanesOf m ↔ l < 32 ∧ m.getLsbD l = true := by
  simp [lanesOf, List.mem_filter]

theorem active_nodup (s : State) : (active s).Nodup := by
  refine List.Nodup.map ?_ (lanesOf_nodup _)
  intro a b h
  simp only [skey] at h
  omega

theorem inS_iff (s : State) (k : Nat) : inS s k = true ↔ k ∈ active s := by simp [inS]

/-! ## One register -/

theorem getS_zero (s : State) (k : Nat) : getS s k 0 = 0 := rfl

theorem getP_seven (s : State) (k : Nat) : getP s k 7 = true := rfl

theorem getG_zero (s : State) (q : Nat) : getG s q 0 = 0 := rfl

theorem getS_setS (s : State) (k k' : Nat) (r r' : SReg) (v : Word) :
    getS (setS s k r v) k' r' = if k' = k ∧ r' = r ∧ r ≠ 0 then v else getS s k' r' := by
  have hr := r.isLt
  have hr' := r'.isLt
  unfold setS
  split
  · next h => subst h; rw [if_neg (by simp)]
  · next h =>
    unfold getS
    by_cases h0 : r' = 0
    · rw [if_pos h0, if_pos h0, if_neg (by rintro ⟨_, h1, h2⟩; exact h2 (h1 ▸ h0))]
    · rw [if_neg h0, if_neg h0]
      dsimp only
      rw [Sparse.read_write]
      by_cases e : k' = k ∧ r' = r ∧ r ≠ 0
      · rw [if_pos e, if_pos (by rw [e.1, e.2.1])]
      · rw [if_neg e, if_neg]
        intro e2
        have e3 : r'.toNat = r.toNat := by omega
        exact e ⟨by omega, BitVec.eq_of_toNat_eq e3, h⟩

theorem getG_setG (s : State) (q q' : Nat) (n n' : GReg) (v : DWord) :
    getG (setG s q n v) q' n' = if q' = q ∧ n' = n ∧ n ≠ 0 then v else getG s q' n' := by
  have hr := n.isLt
  have hr' := n'.isLt
  unfold setG
  split
  · next h => subst h; rw [if_neg (by simp)]
  · next h =>
    unfold getG
    by_cases h0 : n' = 0
    · rw [if_pos h0, if_pos h0, if_neg (by rintro ⟨_, h1, h2⟩; exact h2 (h1 ▸ h0))]
    · rw [if_neg h0, if_neg h0]
      dsimp only
      rw [Sparse.read_write]
      by_cases e : q' = q ∧ n' = n ∧ n ≠ 0
      · rw [if_pos e, if_pos (by rw [e.1, e.2.1])]
      · rw [if_neg e, if_neg]
        intro e2
        have e3 : n'.toNat = n.toNat := by omega
        exact e ⟨by omega, BitVec.eq_of_toNat_eq e3, h⟩

theorem setBit8_getLsbD (b : Byte) (n i : Nat) (v : Bool) (hn : n < 8) :
    (setBit8 b n v).getLsbD i = if i = n then v else b.getLsbD i := by
  have key : ∀ n < 8, ∀ i, ((1#8 : Byte) <<< n).getLsbD i = decide (i = n) := by
    intro n hn i
    rw [BitVec.getLsbD_shiftLeft]
    by_cases hi : i < 8
    · have : ∀ n < 8, ∀ i < 8, (decide (i < 8) && !decide (i < n) && (1#8 : Byte).getLsbD (i - n)) = decide (i = n) := by decide
      exact this n hn i hi
    · simp only [hi, decide_false, Bool.false_and]
      symm; rw [decide_eq_false_iff_not]; omega
  unfold setBit8
  cases v
  · rw [if_neg (by decide), BitVec.getLsbD_and, BitVec.getLsbD_not, key n hn]
    by_cases h : i = n
    · simp [h]
    · by_cases hi : i < 8
      · simp [h, hi]
      · simp [h, BitVec.getLsbD_of_ge b i (by omega)]
  · rw [if_pos rfl, BitVec.getLsbD_or, key n hn]
    by_cases h : i = n
    · simp [h]
    · simp [h]

theorem getP_setP (s : State) (k k' : Nat) (n n' : Reg3) (v : Bool) :
    getP (setP s k n v) k' n' = if k' = k ∧ n' = n ∧ n ≠ 7 then v else getP s k' n' := by
  unfold setP
  split
  · next h => subst h; rw [if_neg (by simp)]
  · next h =>
    unfold getP
    dsimp only
    rw [Sparse.read_write]
    by_cases hk : k' = k
    · subst k'
      rw [if_pos rfl, setBit8_getLsbD _ _ _ _ (by have := n.isLt; omega)]
      by_cases hn : n' = n
      · subst n'
        have h7 : ¬n = 7#3 := h
        simp [h7]
      · have : n'.toNat ≠ n.toNat := fun e => hn (BitVec.eq_of_toNat_eq e)
        simp [hn, this]
    · rw [if_neg hk, if_neg (by simp [hk])]

/-! ## Writes in every strand of S -/

theorem getS_foldl_setS (ks : List Nat) (h : ks.Nodup) (s : State) (d : SReg) (f : Nat → Word) (k : Nat) (r : SReg) :
    getS (ks.foldl (fun x k => setS x k d (f k)) s) k r =
      if k ∈ ks ∧ r = d ∧ d ≠ 0 then f k else getS s k r := by
  induction ks generalizing s with
  | nil => simp
  | cons a ks ih =>
    obtain ⟨ha, hn⟩ := List.nodup_cons.mp h
    rw [List.foldl_cons, ih hn, getS_setS]
    by_cases h1 : k ∈ ks
    · have : k ≠ a := fun e => ha (e ▸ h1)
      simp [h1, this]
    · by_cases h2 : k = a
      · subst h2; simp [h1]
      · simp [h1, h2]

theorem getS_writeS (s : State) (d : SReg) (f : Nat → Word) (k : Nat) (r : SReg) :
    getS (writeS s d f) k r = if inS s k = true ∧ r = d ∧ d ≠ 0 then f k else getS s k r := by
  rw [writeS, getS_foldl_setS _ (active_nodup s)]
  simp only [inS_iff]

theorem getP_writeP (s : State) (d : Reg3) (f : Nat → Bool) (k : Nat) (n : Reg3) :
    getP (writeP s d f) k n = if inS s k = true ∧ n = d ∧ d ≠ 7 then f k else getP s k n := by
  have aux : ∀ (ks : List Nat), ks.Nodup → ∀ s : State,
      getP (ks.foldl (fun x k => setP x k d (f k)) s) k n =
        if k ∈ ks ∧ n = d ∧ d ≠ 7 then f k else getP s k n := by
    intro ks
    induction ks with
    | nil => intro _ s; simp
    | cons a ks ih =>
      intro h s
      obtain ⟨ha, hn⟩ := List.nodup_cons.mp h
      rw [List.foldl_cons, ih hn, getP_setP]
      by_cases h1 : k ∈ ks
      · have : k ≠ a := fun e => ha (e ▸ h1)
        simp [h1, this]
      · by_cases h2 : k = a
        · subst h2; simp [h1]
        · simp [h1, h2]
  rw [writeP, aux _ (active_nodup s)]
  simp only [inS_iff]

/-- A write of scalar registers changes nothing but them. -/
theorem writeS_rest (s : State) (d : SReg) (f : Nat → Word) :
    writeS s d f = { s with rf := { s.rf with s := (writeS s d f).rf.s } } := by
  have aux : ∀ (ks : List Nat) (s : State),
      ks.foldl (fun x k => setS x k d (f k)) s =
        { s with rf := { s.rf with s := (ks.foldl (fun x k => setS x k d (f k)) s).rf.s } } := by
    intro ks
    induction ks with
    | nil => intro s; rfl
    | cons a ks ih =>
      intro s
      rw [List.foldl_cons, ih]
      unfold setS
      split <;> rfl
  exact aux _ s

theorem writeP_rest (s : State) (d : Reg3) (f : Nat → Bool) :
    writeP s d f = { s with rf := { s.rf with p := (writeP s d f).rf.p } } := by
  have aux : ∀ (ks : List Nat) (s : State),
      ks.foldl (fun x k => setP x k d (f k)) s =
        { s with rf := { s.rf with p := (ks.foldl (fun x k => setP x k d (f k)) s).rf.p } } := by
    intro ks
    induction ks with
    | nil => intro s; rfl
    | cons a ks ih =>
      intro s
      rw [List.foldl_cons, ih]
      unfold setP
      split <;> rfl
  exact aux _ s

/-! ## Strands -/

theorem get?_modStrand (s : State) (k k' : Nat) (f : Strand → Strand) :
    AMap.get? (modStrand s k f).strands k' =
      if k' = k then (AMap.get? s.strands k').map f else AMap.get? s.strands k' := AMap.get?_modify _ _ _ _

theorem get?_modStrands (ks : List Nat) (h : ks.Nodup) (s : State) (f : Strand → Strand) (k : Nat) :
    AMap.get? (modStrands s ks f).strands k =
      (AMap.get? s.strands k).map (fun x => if k ∈ ks then f x else x) := by
  induction ks generalizing s with
  | nil => simp [modStrands]
  | cons a ks ih =>
    obtain ⟨ha, hn⟩ := List.nodup_cons.mp h
    have e : modStrands s (a :: ks) f = modStrands (modStrand s a f) ks f := rfl
    rw [e, ih hn, get?_modStrand]
    by_cases h1 : k ∈ ks
    · have : k ≠ a := fun e => ha (e ▸ h1)
      simp [h1, this]
    · by_cases h2 : k = a
      · subst h2; simp [h1, Option.map_map, Function.comp_def]
      · simp [h1, h2]

theorem modStrands_rest (s : State) (ks : List Nat) (f : Strand → Strand) :
    modStrands s ks f = { s with strands := (modStrands s ks f).strands } := by
  induction ks generalizing s with
  | nil => rfl
  | cons a ks ih =>
    have e : modStrands s (a :: ks) f = modStrands (modStrand s a f) ks f := rfl
    rw [e, ih]
    rfl

theorem strandsAfter_advance (s t : State) (h : t.strands = s.strands) (hi : t.issue = s.issue) :
    StrandsAfter s (advance t) (goesOn s) := by
  intro k
  have ha : active t = active s := by unfold active lanes skey gk; rw [hi]
  rw [advance, get?_modStrands _ (active_nodup t), ha, h, hi]
  simp only [inS_iff]
  rfl

theorem advance_rest (s : State) : advance s = { s with strands := (advance s).strands } := modStrands_rest _ _ _

theorem getS_congr {s t : State} (h : t.rf = s.rf) (k : Nat) (r : SReg) : getS t k r = getS s k r := by
  unfold getS; rw [h]

theorem getP_congr {s t : State} (h : t.rf = s.rf) (k : Nat) (n : Reg3) : getP t k n = getP s k n := by
  unfold getP; rw [h]

theorem getG_congr {s t : State} (h : t.rf = s.rf) (q : Nat) (n : GReg) : getG t q n = getG s q n := by
  unfold getG; rw [h]

/-! ## The shared register forms -/

/-- Everything that `resS` does. -/
theorem resS_spec (s : State) (d : SReg) (v : Nat → Word) : ScalarResult s (resS s d v) d v := by
  have hw := writeS_rest s d v
  have ha := advance_rest (writeS s d v)
  refine ⟨_, rfl, ?_, ?_, ?_⟩
  · rw [ha, hw]
  · intro k r
    rw [getS_congr (s := writeS s d v) (by rw [ha]), getS_writeS]
  · exact strandsAfter_advance s _ (by rw [hw]) (by rw [hw])

/-- Everything that `resP` does. -/
theorem resP_spec (s : State) (d : Reg3) (v : Nat → Bool) : PredResult s (resP s d v) d v := by
  have hw := writeP_rest s d v
  have ha := advance_rest (writeP s d v)
  refine ⟨_, rfl, ?_, ?_, ?_⟩
  · rw [ha, hw]
  · intro k r
    rw [getP_congr (s := writeP s d v) (by rw [ha]), getP_writeP]
  · exact strandsAfter_advance s _ (by rw [hw]) (by rw [hw])

/-- Everything that `resG` does. -/
theorem resG_spec (s : State) (d : GReg) (v : DWord) : GroupResult s (resG s d v) d v := by
  have hw : setG s (gk s) d v = { s with rf := { s.rf with g := (setG s (gk s) d v).rf.g } } := by
    unfold setG; split <;> rfl
  have ha := advance_rest (setG s (gk s) d v)
  refine ⟨_, rfl, ?_, ?_, ?_⟩
  · rw [ha, hw]
  · intro q n
    rw [getG_congr (s := setG s (gk s) d v) (by rw [ha]), getG_setG]
  · exact strandsAfter_advance s _ (by rw [hw]) (by rw [hw])

end Sys2Proof.Machine
end

