-- ==== Sys2Proof/Laws/State.lean ====
section
/-! SUPPORT. What each update of the state leaves as it was, field by field, and what it makes of the one it changes. Each
theorem is a conjunction that simp takes apart, so that no proof unfolds a record update. -/

namespace Sys2Proof.Machine

@[simp] theorem setS_fields (s : State) (k : Nat) (r : SReg) (v : Word) :
    (setS s k r v).issue = s.issue ∧ (setS s k r v).strands = s.strands ∧ (setS s k r v).groups = s.groups ∧
    (setS s k r v).tasks = s.tasks ∧ (setS s k r v).cores = s.cores ∧ (setS s k r v).clusters = s.clusters ∧
    (setS s k r v).ctxs = s.ctxs ∧ (setS s k r v).parts = s.parts ∧ (setS s k r v).locks = s.locks ∧
    (setS s k r v).tags = s.tags ∧ (setS s k r v).mem = s.mem ∧ (setS s k r v).corewin = s.corewin ∧
    (setS s k r v).cluwin = s.cluwin ∧ (setS s k r v).opmem = s.opmem ∧ (setS s k r v).pcs = s.pcs ∧
    (setS s k r v).posts = s.posts ∧ (setS s k r v).queues = s.queues ∧ (setS s k r v).engines = s.engines ∧
    (setS s k r v).launches = s.launches ∧ (setS s k r v).calls = s.calls ∧ (setS s k r v).replays = s.replays ∧
    (setS s k r v).map = s.map ∧ (setS s k r v).tlbs = s.tlbs ∧ (setS s k r v).badLines = s.badLines ∧
    (setS s k r v).badOps = s.badOps ∧ (setS s k r v).images = s.images ∧ (setS s k r v).mesh = s.mesh ∧
    (setS s k r v).routers = s.routers ∧ (setS s k r v).pl = s.pl ∧ (setS s k r v).fab = s.fab ∧
    (setS s k r v).windows = s.windows ∧ (setS s k r v).mgmt = s.mgmt ∧ (setS s k r v).service = s.service ∧
    (setS s k r v).determEn = s.determEn ∧ (setS s k r v).determActive = s.determActive ∧
    (setS s k r v).prqIds = s.prqIds ∧ (setS s k r v).plIds = s.plIds ∧ (setS s k r v).now = s.now ∧
    (setS s k r v).agenda = s.agenda ∧ (setS s k r v).favor = s.favor ∧ (setS s k r v).nextQuarter = s.nextQuarter ∧
    (setS s k r v).lastEvent = s.lastEvent ∧ (setS s k r v).uid = s.uid ∧ (setS s k r v).serial = s.serial ∧
    (setS s k r v).draws = s.draws := by
  unfold setS; split <;> and_intros <;> rfl

@[simp] theorem setP_fields (s : State) (k : Nat) (n : Reg3) (v : Bool) :
    (setP s k n v).issue = s.issue ∧ (setP s k n v).strands = s.strands ∧ (setP s k n v).groups = s.groups ∧
    (setP s k n v).tasks = s.tasks ∧ (setP s k n v).cores = s.cores ∧ (setP s k n v).clusters = s.clusters ∧
    (setP s k n v).ctxs = s.ctxs ∧ (setP s k n v).parts = s.parts ∧ (setP s k n v).locks = s.locks ∧
    (setP s k n v).tags = s.tags ∧ (setP s k n v).mem = s.mem ∧ (setP s k n v).corewin = s.corewin ∧
    (setP s k n v).cluwin = s.cluwin ∧ (setP s k n v).opmem = s.opmem ∧ (setP s k n v).pcs = s.pcs ∧
    (setP s k n v).posts = s.posts ∧ (setP s k n v).queues = s.queues ∧ (setP s k n v).engines = s.engines ∧
    (setP s k n v).launches = s.launches ∧ (setP s k n v).calls = s.calls ∧ (setP s k n v).replays = s.replays ∧
    (setP s k n v).map = s.map ∧ (setP s k n v).tlbs = s.tlbs ∧ (setP s k n v).badLines = s.badLines ∧
    (setP s k n v).badOps = s.badOps ∧ (setP s k n v).images = s.images ∧ (setP s k n v).mesh = s.mesh ∧
    (setP s k n v).routers = s.routers ∧ (setP s k n v).pl = s.pl ∧ (setP s k n v).fab = s.fab ∧
    (setP s k n v).windows = s.windows ∧ (setP s k n v).mgmt = s.mgmt ∧ (setP s k n v).service = s.service ∧
    (setP s k n v).determEn = s.determEn ∧ (setP s k n v).determActive = s.determActive ∧
    (setP s k n v).prqIds = s.prqIds ∧ (setP s k n v).plIds = s.plIds ∧ (setP s k n v).now = s.now ∧
    (setP s k n v).agenda = s.agenda ∧ (setP s k n v).favor = s.favor ∧ (setP s k n v).nextQuarter = s.nextQuarter ∧
    (setP s k n v).lastEvent = s.lastEvent ∧ (setP s k n v).uid = s.uid ∧ (setP s k n v).serial = s.serial ∧
    (setP s k n v).draws = s.draws := by
  unfold setP; split <;> and_intros <;> rfl

@[simp] theorem setG_fields (s : State) (q : Nat) (n : GReg) (v : DWord) :
    (setG s q n v).issue = s.issue ∧ (setG s q n v).strands = s.strands ∧ (setG s q n v).groups = s.groups ∧
    (setG s q n v).tasks = s.tasks ∧ (setG s q n v).cores = s.cores ∧ (setG s q n v).clusters = s.clusters ∧
    (setG s q n v).ctxs = s.ctxs ∧ (setG s q n v).parts = s.parts ∧ (setG s q n v).locks = s.locks ∧
    (setG s q n v).tags = s.tags ∧ (setG s q n v).mem = s.mem ∧ (setG s q n v).corewin = s.corewin ∧
    (setG s q n v).cluwin = s.cluwin ∧ (setG s q n v).opmem = s.opmem ∧ (setG s q n v).pcs = s.pcs ∧
    (setG s q n v).posts = s.posts ∧ (setG s q n v).queues = s.queues ∧ (setG s q n v).engines = s.engines ∧
    (setG s q n v).launches = s.launches ∧ (setG s q n v).calls = s.calls ∧ (setG s q n v).replays = s.replays ∧
    (setG s q n v).map = s.map ∧ (setG s q n v).tlbs = s.tlbs ∧ (setG s q n v).badLines = s.badLines ∧
    (setG s q n v).badOps = s.badOps ∧ (setG s q n v).images = s.images ∧ (setG s q n v).mesh = s.mesh ∧
    (setG s q n v).routers = s.routers ∧ (setG s q n v).pl = s.pl ∧ (setG s q n v).fab = s.fab ∧
    (setG s q n v).windows = s.windows ∧ (setG s q n v).mgmt = s.mgmt ∧ (setG s q n v).service = s.service ∧
    (setG s q n v).determEn = s.determEn ∧ (setG s q n v).determActive = s.determActive ∧
    (setG s q n v).prqIds = s.prqIds ∧ (setG s q n v).plIds = s.plIds ∧ (setG s q n v).now = s.now ∧
    (setG s q n v).agenda = s.agenda ∧ (setG s q n v).favor = s.favor ∧ (setG s q n v).nextQuarter = s.nextQuarter ∧
    (setG s q n v).lastEvent = s.lastEvent ∧ (setG s q n v).uid = s.uid ∧ (setG s q n v).serial = s.serial ∧
    (setG s q n v).draws = s.draws := by
  unfold setG; split <;> and_intros <;> rfl

@[simp] theorem setH_fields (s : State) (q : Nat) (n : Reg3) (v : BitVec 256) :
    (setH s q n v).issue = s.issue ∧ (setH s q n v).strands = s.strands ∧ (setH s q n v).groups = s.groups ∧
    (setH s q n v).tasks = s.tasks ∧ (setH s q n v).cores = s.cores ∧ (setH s q n v).clusters = s.clusters ∧
    (setH s q n v).ctxs = s.ctxs ∧ (setH s q n v).parts = s.parts ∧ (setH s q n v).locks = s.locks ∧
    (setH s q n v).tags = s.tags ∧ (setH s q n v).mem = s.mem ∧ (setH s q n v).corewin = s.corewin ∧
    (setH s q n v).cluwin = s.cluwin ∧ (setH s q n v).opmem = s.opmem ∧ (setH s q n v).pcs = s.pcs ∧
    (setH s q n v).posts = s.posts ∧ (setH s q n v).queues = s.queues ∧ (setH s q n v).engines = s.engines ∧
    (setH s q n v).launches = s.launches ∧ (setH s q n v).calls = s.calls ∧ (setH s q n v).replays = s.replays ∧
    (setH s q n v).map = s.map ∧ (setH s q n v).tlbs = s.tlbs ∧ (setH s q n v).badLines = s.badLines ∧
    (setH s q n v).badOps = s.badOps ∧ (setH s q n v).images = s.images ∧ (setH s q n v).mesh = s.mesh ∧
    (setH s q n v).routers = s.routers ∧ (setH s q n v).pl = s.pl ∧ (setH s q n v).fab = s.fab ∧
    (setH s q n v).windows = s.windows ∧ (setH s q n v).mgmt = s.mgmt ∧ (setH s q n v).service = s.service ∧
    (setH s q n v).determEn = s.determEn ∧ (setH s q n v).determActive = s.determActive ∧
    (setH s q n v).prqIds = s.prqIds ∧ (setH s q n v).plIds = s.plIds ∧ (setH s q n v).now = s.now ∧
    (setH s q n v).agenda = s.agenda ∧ (setH s q n v).favor = s.favor ∧ (setH s q n v).nextQuarter = s.nextQuarter ∧
    (setH s q n v).lastEvent = s.lastEvent ∧ (setH s q n v).uid = s.uid ∧ (setH s q n v).serial = s.serial ∧
    (setH s q n v).draws = s.draws := by
  and_intros <;> rfl

@[simp] theorem setJ_fields (s : State) (q n : Nat) (v : JoinMask) :
    (setJ s q n v).issue = s.issue ∧ (setJ s q n v).strands = s.strands ∧ (setJ s q n v).groups = s.groups ∧
    (setJ s q n v).tasks = s.tasks ∧ (setJ s q n v).cores = s.cores ∧ (setJ s q n v).clusters = s.clusters ∧
    (setJ s q n v).ctxs = s.ctxs ∧ (setJ s q n v).parts = s.parts ∧ (setJ s q n v).locks = s.locks ∧
    (setJ s q n v).tags = s.tags ∧ (setJ s q n v).mem = s.mem ∧ (setJ s q n v).corewin = s.corewin ∧
    (setJ s q n v).cluwin = s.cluwin ∧ (setJ s q n v).opmem = s.opmem ∧ (setJ s q n v).pcs = s.pcs ∧
    (setJ s q n v).posts = s.posts ∧ (setJ s q n v).queues = s.queues ∧ (setJ s q n v).engines = s.engines ∧
    (setJ s q n v).launches = s.launches ∧ (setJ s q n v).calls = s.calls ∧ (setJ s q n v).replays = s.replays ∧
    (setJ s q n v).map = s.map ∧ (setJ s q n v).tlbs = s.tlbs ∧ (setJ s q n v).badLines = s.badLines ∧
    (setJ s q n v).badOps = s.badOps ∧ (setJ s q n v).images = s.images ∧ (setJ s q n v).mesh = s.mesh ∧
    (setJ s q n v).routers = s.routers ∧ (setJ s q n v).pl = s.pl ∧ (setJ s q n v).fab = s.fab ∧
    (setJ s q n v).windows = s.windows ∧ (setJ s q n v).mgmt = s.mgmt ∧ (setJ s q n v).service = s.service ∧
    (setJ s q n v).determEn = s.determEn ∧ (setJ s q n v).determActive = s.determActive ∧
    (setJ s q n v).prqIds = s.prqIds ∧ (setJ s q n v).plIds = s.plIds ∧ (setJ s q n v).now = s.now ∧
    (setJ s q n v).agenda = s.agenda ∧ (setJ s q n v).favor = s.favor ∧ (setJ s q n v).nextQuarter = s.nextQuarter ∧
    (setJ s q n v).lastEvent = s.lastEvent ∧ (setJ s q n v).uid = s.uid ∧ (setJ s q n v).serial = s.serial ∧
    (setJ s q n v).draws = s.draws := by
  and_intros <;> rfl

@[simp] theorem setK_fields (s : State) (q : Nat) (n : KReg) (v : Token) :
    (setK s q n v).issue = s.issue ∧ (setK s q n v).strands = s.strands ∧ (setK s q n v).groups = s.groups ∧
    (setK s q n v).tasks = s.tasks ∧ (setK s q n v).cores = s.cores ∧ (setK s q n v).clusters = s.clusters ∧
    (setK s q n v).ctxs = s.ctxs ∧ (setK s q n v).parts = s.parts ∧ (setK s q n v).locks = s.locks ∧
    (setK s q n v).tags = s.tags ∧ (setK s q n v).mem = s.mem ∧ (setK s q n v).corewin = s.corewin ∧
    (setK s q n v).cluwin = s.cluwin ∧ (setK s q n v).opmem = s.opmem ∧ (setK s q n v).pcs = s.pcs ∧
    (setK s q n v).posts = s.posts ∧ (setK s q n v).queues = s.queues ∧ (setK s q n v).engines = s.engines ∧
    (setK s q n v).launches = s.launches ∧ (setK s q n v).calls = s.calls ∧ (setK s q n v).replays = s.replays ∧
    (setK s q n v).map = s.map ∧ (setK s q n v).tlbs = s.tlbs ∧ (setK s q n v).badLines = s.badLines ∧
    (setK s q n v).badOps = s.badOps ∧ (setK s q n v).images = s.images ∧ (setK s q n v).mesh = s.mesh ∧
    (setK s q n v).routers = s.routers ∧ (setK s q n v).pl = s.pl ∧ (setK s q n v).fab = s.fab ∧
    (setK s q n v).windows = s.windows ∧ (setK s q n v).mgmt = s.mgmt ∧ (setK s q n v).service = s.service ∧
    (setK s q n v).determEn = s.determEn ∧ (setK s q n v).determActive = s.determActive ∧
    (setK s q n v).prqIds = s.prqIds ∧ (setK s q n v).plIds = s.plIds ∧ (setK s q n v).now = s.now ∧
    (setK s q n v).agenda = s.agenda ∧ (setK s q n v).favor = s.favor ∧ (setK s q n v).nextQuarter = s.nextQuarter ∧
    (setK s q n v).lastEvent = s.lastEvent ∧ (setK s q n v).uid = s.uid ∧ (setK s q n v).serial = s.serial ∧
    (setK s q n v).draws = s.draws := by
  and_intros <;> rfl

@[simp] theorem modStrand_fields (s : State) (k : Nat) (f : Strand → Strand) :
    (modStrand s k f).issue = s.issue ∧ (modStrand s k f).rf = s.rf ∧ (modStrand s k f).groups = s.groups ∧
    (modStrand s k f).tasks = s.tasks ∧ (modStrand s k f).cores = s.cores ∧ (modStrand s k f).clusters = s.clusters ∧
    (modStrand s k f).ctxs = s.ctxs ∧ (modStrand s k f).parts = s.parts ∧ (modStrand s k f).locks = s.locks ∧
    (modStrand s k f).tags = s.tags ∧ (modStrand s k f).mem = s.mem ∧ (modStrand s k f).corewin = s.corewin ∧
    (modStrand s k f).cluwin = s.cluwin ∧ (modStrand s k f).opmem = s.opmem ∧ (modStrand s k f).pcs = s.pcs ∧
    (modStrand s k f).posts = s.posts ∧ (modStrand s k f).queues = s.queues ∧ (modStrand s k f).engines = s.engines ∧
    (modStrand s k f).launches = s.launches ∧ (modStrand s k f).calls = s.calls ∧
    (modStrand s k f).replays = s.replays ∧ (modStrand s k f).map = s.map ∧ (modStrand s k f).tlbs = s.tlbs ∧
    (modStrand s k f).badLines = s.badLines ∧ (modStrand s k f).badOps = s.badOps ∧
    (modStrand s k f).images = s.images ∧ (modStrand s k f).mesh = s.mesh ∧ (modStrand s k f).routers = s.routers ∧
    (modStrand s k f).pl = s.pl ∧ (modStrand s k f).fab = s.fab ∧ (modStrand s k f).windows = s.windows ∧
    (modStrand s k f).mgmt = s.mgmt ∧ (modStrand s k f).service = s.service ∧ (modStrand s k f).determEn = s.determEn ∧
    (modStrand s k f).determActive = s.determActive ∧ (modStrand s k f).prqIds = s.prqIds ∧
    (modStrand s k f).plIds = s.plIds ∧ (modStrand s k f).now = s.now ∧ (modStrand s k f).agenda = s.agenda ∧
    (modStrand s k f).favor = s.favor ∧ (modStrand s k f).nextQuarter = s.nextQuarter ∧
    (modStrand s k f).lastEvent = s.lastEvent ∧ (modStrand s k f).uid = s.uid ∧ (modStrand s k f).serial = s.serial ∧
    (modStrand s k f).draws = s.draws := by
  and_intros <;> rfl

@[simp] theorem modTask_fields (s : State) (k : Nat) (f : Task → Task) :
    (modTask s k f).issue = s.issue ∧ (modTask s k f).rf = s.rf ∧ (modTask s k f).strands = s.strands ∧
    (modTask s k f).groups = s.groups ∧ (modTask s k f).cores = s.cores ∧ (modTask s k f).clusters = s.clusters ∧
    (modTask s k f).ctxs = s.ctxs ∧ (modTask s k f).parts = s.parts ∧ (modTask s k f).locks = s.locks ∧
    (modTask s k f).tags = s.tags ∧ (modTask s k f).mem = s.mem ∧ (modTask s k f).corewin = s.corewin ∧
    (modTask s k f).cluwin = s.cluwin ∧ (modTask s k f).opmem = s.opmem ∧ (modTask s k f).pcs = s.pcs ∧
    (modTask s k f).posts = s.posts ∧ (modTask s k f).queues = s.queues ∧ (modTask s k f).engines = s.engines ∧
    (modTask s k f).launches = s.launches ∧ (modTask s k f).calls = s.calls ∧ (modTask s k f).replays = s.replays ∧
    (modTask s k f).map = s.map ∧ (modTask s k f).tlbs = s.tlbs ∧ (modTask s k f).badLines = s.badLines ∧
    (modTask s k f).badOps = s.badOps ∧ (modTask s k f).images = s.images ∧ (modTask s k f).mesh = s.mesh ∧
    (modTask s k f).routers = s.routers ∧ (modTask s k f).pl = s.pl ∧ (modTask s k f).fab = s.fab ∧
    (modTask s k f).windows = s.windows ∧ (modTask s k f).mgmt = s.mgmt ∧ (modTask s k f).service = s.service ∧
    (modTask s k f).determEn = s.determEn ∧ (modTask s k f).determActive = s.determActive ∧
    (modTask s k f).prqIds = s.prqIds ∧ (modTask s k f).plIds = s.plIds ∧ (modTask s k f).now = s.now ∧
    (modTask s k f).agenda = s.agenda ∧ (modTask s k f).favor = s.favor ∧ (modTask s k f).nextQuarter = s.nextQuarter ∧
    (modTask s k f).lastEvent = s.lastEvent ∧ (modTask s k f).uid = s.uid ∧ (modTask s k f).serial = s.serial ∧
    (modTask s k f).draws = s.draws := by
  and_intros <;> rfl

@[simp] theorem modGroup_fields (s : State) (k : Nat) (f : Group → Group) :
    (modGroup s k f).issue = s.issue ∧ (modGroup s k f).rf = s.rf ∧ (modGroup s k f).strands = s.strands ∧
    (modGroup s k f).tasks = s.tasks ∧ (modGroup s k f).cores = s.cores ∧ (modGroup s k f).clusters = s.clusters ∧
    (modGroup s k f).ctxs = s.ctxs ∧ (modGroup s k f).parts = s.parts ∧ (modGroup s k f).locks = s.locks ∧
    (modGroup s k f).tags = s.tags ∧ (modGroup s k f).mem = s.mem ∧ (modGroup s k f).corewin = s.corewin ∧
    (modGroup s k f).cluwin = s.cluwin ∧ (modGroup s k f).opmem = s.opmem ∧ (modGroup s k f).pcs = s.pcs ∧
    (modGroup s k f).posts = s.posts ∧ (modGroup s k f).queues = s.queues ∧ (modGroup s k f).engines = s.engines ∧
    (modGroup s k f).launches = s.launches ∧ (modGroup s k f).calls = s.calls ∧ (modGroup s k f).replays = s.replays ∧
    (modGroup s k f).map = s.map ∧ (modGroup s k f).tlbs = s.tlbs ∧ (modGroup s k f).badLines = s.badLines ∧
    (modGroup s k f).badOps = s.badOps ∧ (modGroup s k f).images = s.images ∧ (modGroup s k f).mesh = s.mesh ∧
    (modGroup s k f).routers = s.routers ∧ (modGroup s k f).pl = s.pl ∧ (modGroup s k f).fab = s.fab ∧
    (modGroup s k f).windows = s.windows ∧ (modGroup s k f).mgmt = s.mgmt ∧ (modGroup s k f).service = s.service ∧
    (modGroup s k f).determEn = s.determEn ∧ (modGroup s k f).determActive = s.determActive ∧
    (modGroup s k f).prqIds = s.prqIds ∧ (modGroup s k f).plIds = s.plIds ∧ (modGroup s k f).now = s.now ∧
    (modGroup s k f).agenda = s.agenda ∧ (modGroup s k f).favor = s.favor ∧
    (modGroup s k f).nextQuarter = s.nextQuarter ∧ (modGroup s k f).lastEvent = s.lastEvent ∧
    (modGroup s k f).uid = s.uid ∧ (modGroup s k f).serial = s.serial ∧ (modGroup s k f).draws = s.draws := by
  and_intros <;> rfl

@[simp] theorem modCore_fields (s : State) (c : Nat) (f : Core → Core) :
    (modCore s c f).issue = s.issue ∧ (modCore s c f).rf = s.rf ∧ (modCore s c f).strands = s.strands ∧
    (modCore s c f).groups = s.groups ∧ (modCore s c f).tasks = s.tasks ∧ (modCore s c f).clusters = s.clusters ∧
    (modCore s c f).ctxs = s.ctxs ∧ (modCore s c f).parts = s.parts ∧ (modCore s c f).locks = s.locks ∧
    (modCore s c f).tags = s.tags ∧ (modCore s c f).mem = s.mem ∧ (modCore s c f).corewin = s.corewin ∧
    (modCore s c f).cluwin = s.cluwin ∧ (modCore s c f).opmem = s.opmem ∧ (modCore s c f).pcs = s.pcs ∧
    (modCore s c f).posts = s.posts ∧ (modCore s c f).queues = s.queues ∧ (modCore s c f).engines = s.engines ∧
    (modCore s c f).launches = s.launches ∧ (modCore s c f).calls = s.calls ∧ (modCore s c f).replays = s.replays ∧
    (modCore s c f).map = s.map ∧ (modCore s c f).tlbs = s.tlbs ∧ (modCore s c f).badLines = s.badLines ∧
    (modCore s c f).badOps = s.badOps ∧ (modCore s c f).images = s.images ∧ (modCore s c f).mesh = s.mesh ∧
    (modCore s c f).routers = s.routers ∧ (modCore s c f).pl = s.pl ∧ (modCore s c f).fab = s.fab ∧
    (modCore s c f).windows = s.windows ∧ (modCore s c f).mgmt = s.mgmt ∧ (modCore s c f).service = s.service ∧
    (modCore s c f).determEn = s.determEn ∧ (modCore s c f).determActive = s.determActive ∧
    (modCore s c f).prqIds = s.prqIds ∧ (modCore s c f).plIds = s.plIds ∧ (modCore s c f).now = s.now ∧
    (modCore s c f).agenda = s.agenda ∧ (modCore s c f).favor = s.favor ∧ (modCore s c f).nextQuarter = s.nextQuarter ∧
    (modCore s c f).lastEvent = s.lastEvent ∧ (modCore s c f).uid = s.uid ∧ (modCore s c f).serial = s.serial ∧
    (modCore s c f).draws = s.draws := by
  and_intros <;> rfl

@[simp] theorem modCluster_fields (s : State) (c : Nat) (f : Cluster → Cluster) :
    (modCluster s c f).issue = s.issue ∧ (modCluster s c f).rf = s.rf ∧ (modCluster s c f).strands = s.strands ∧
    (modCluster s c f).groups = s.groups ∧ (modCluster s c f).tasks = s.tasks ∧ (modCluster s c f).cores = s.cores ∧
    (modCluster s c f).ctxs = s.ctxs ∧ (modCluster s c f).parts = s.parts ∧ (modCluster s c f).locks = s.locks ∧
    (modCluster s c f).tags = s.tags ∧ (modCluster s c f).mem = s.mem ∧ (modCluster s c f).corewin = s.corewin ∧
    (modCluster s c f).cluwin = s.cluwin ∧ (modCluster s c f).opmem = s.opmem ∧ (modCluster s c f).pcs = s.pcs ∧
    (modCluster s c f).posts = s.posts ∧ (modCluster s c f).queues = s.queues ∧
    (modCluster s c f).engines = s.engines ∧ (modCluster s c f).launches = s.launches ∧
    (modCluster s c f).calls = s.calls ∧ (modCluster s c f).replays = s.replays ∧ (modCluster s c f).map = s.map ∧
    (modCluster s c f).tlbs = s.tlbs ∧ (modCluster s c f).badLines = s.badLines ∧
    (modCluster s c f).badOps = s.badOps ∧ (modCluster s c f).images = s.images ∧ (modCluster s c f).mesh = s.mesh ∧
    (modCluster s c f).routers = s.routers ∧ (modCluster s c f).pl = s.pl ∧ (modCluster s c f).fab = s.fab ∧
    (modCluster s c f).windows = s.windows ∧ (modCluster s c f).mgmt = s.mgmt ∧
    (modCluster s c f).service = s.service ∧ (modCluster s c f).determEn = s.determEn ∧
    (modCluster s c f).determActive = s.determActive ∧ (modCluster s c f).prqIds = s.prqIds ∧
    (modCluster s c f).plIds = s.plIds ∧ (modCluster s c f).now = s.now ∧ (modCluster s c f).agenda = s.agenda ∧
    (modCluster s c f).favor = s.favor ∧ (modCluster s c f).nextQuarter = s.nextQuarter ∧
    (modCluster s c f).lastEvent = s.lastEvent ∧ (modCluster s c f).uid = s.uid ∧
    (modCluster s c f).serial = s.serial ∧ (modCluster s c f).draws = s.draws := by
  and_intros <;> rfl

@[simp] theorem modCtx_fields (s : State) (c : CtxId) (f : Ctx → Ctx) :
    (modCtx s c f).issue = s.issue ∧ (modCtx s c f).rf = s.rf ∧ (modCtx s c f).strands = s.strands ∧
    (modCtx s c f).groups = s.groups ∧ (modCtx s c f).tasks = s.tasks ∧ (modCtx s c f).cores = s.cores ∧
    (modCtx s c f).clusters = s.clusters ∧ (modCtx s c f).parts = s.parts ∧ (modCtx s c f).locks = s.locks ∧
    (modCtx s c f).tags = s.tags ∧ (modCtx s c f).mem = s.mem ∧ (modCtx s c f).corewin = s.corewin ∧
    (modCtx s c f).cluwin = s.cluwin ∧ (modCtx s c f).opmem = s.opmem ∧ (modCtx s c f).pcs = s.pcs ∧
    (modCtx s c f).posts = s.posts ∧ (modCtx s c f).queues = s.queues ∧ (modCtx s c f).engines = s.engines ∧
    (modCtx s c f).launches = s.launches ∧ (modCtx s c f).calls = s.calls ∧ (modCtx s c f).replays = s.replays ∧
    (modCtx s c f).map = s.map ∧ (modCtx s c f).tlbs = s.tlbs ∧ (modCtx s c f).badLines = s.badLines ∧
    (modCtx s c f).badOps = s.badOps ∧ (modCtx s c f).images = s.images ∧ (modCtx s c f).mesh = s.mesh ∧
    (modCtx s c f).routers = s.routers ∧ (modCtx s c f).pl = s.pl ∧ (modCtx s c f).fab = s.fab ∧
    (modCtx s c f).windows = s.windows ∧ (modCtx s c f).mgmt = s.mgmt ∧ (modCtx s c f).service = s.service ∧
    (modCtx s c f).determEn = s.determEn ∧ (modCtx s c f).determActive = s.determActive ∧
    (modCtx s c f).prqIds = s.prqIds ∧ (modCtx s c f).plIds = s.plIds ∧ (modCtx s c f).now = s.now ∧
    (modCtx s c f).agenda = s.agenda ∧ (modCtx s c f).favor = s.favor ∧ (modCtx s c f).nextQuarter = s.nextQuarter ∧
    (modCtx s c f).lastEvent = s.lastEvent ∧ (modCtx s c f).uid = s.uid ∧ (modCtx s c f).serial = s.serial ∧
    (modCtx s c f).draws = s.draws := by
  and_intros <;> rfl

@[simp] theorem modWindow_fields (s : State) (fn : BitVec 6) (f : Window → Window) :
    (modWindow s fn f).issue = s.issue ∧ (modWindow s fn f).rf = s.rf ∧ (modWindow s fn f).strands = s.strands ∧
    (modWindow s fn f).groups = s.groups ∧ (modWindow s fn f).tasks = s.tasks ∧ (modWindow s fn f).cores = s.cores ∧
    (modWindow s fn f).clusters = s.clusters ∧ (modWindow s fn f).ctxs = s.ctxs ∧ (modWindow s fn f).parts = s.parts ∧
    (modWindow s fn f).locks = s.locks ∧ (modWindow s fn f).tags = s.tags ∧ (modWindow s fn f).mem = s.mem ∧
    (modWindow s fn f).corewin = s.corewin ∧ (modWindow s fn f).cluwin = s.cluwin ∧
    (modWindow s fn f).opmem = s.opmem ∧ (modWindow s fn f).pcs = s.pcs ∧ (modWindow s fn f).posts = s.posts ∧
    (modWindow s fn f).queues = s.queues ∧ (modWindow s fn f).engines = s.engines ∧
    (modWindow s fn f).launches = s.launches ∧ (modWindow s fn f).calls = s.calls ∧
    (modWindow s fn f).replays = s.replays ∧ (modWindow s fn f).map = s.map ∧ (modWindow s fn f).tlbs = s.tlbs ∧
    (modWindow s fn f).badLines = s.badLines ∧ (modWindow s fn f).badOps = s.badOps ∧
    (modWindow s fn f).images = s.images ∧ (modWindow s fn f).mesh = s.mesh ∧ (modWindow s fn f).routers = s.routers ∧
    (modWindow s fn f).pl = s.pl ∧ (modWindow s fn f).fab = s.fab ∧ (modWindow s fn f).mgmt = s.mgmt ∧
    (modWindow s fn f).service = s.service ∧ (modWindow s fn f).determEn = s.determEn ∧
    (modWindow s fn f).determActive = s.determActive ∧ (modWindow s fn f).prqIds = s.prqIds ∧
    (modWindow s fn f).plIds = s.plIds ∧ (modWindow s fn f).now = s.now ∧ (modWindow s fn f).agenda = s.agenda ∧
    (modWindow s fn f).favor = s.favor ∧ (modWindow s fn f).nextQuarter = s.nextQuarter ∧
    (modWindow s fn f).lastEvent = s.lastEvent ∧ (modWindow s fn f).uid = s.uid ∧
    (modWindow s fn f).serial = s.serial ∧ (modWindow s fn f).draws = s.draws := by
  and_intros <;> rfl

@[simp] theorem modQueue_fields (s : State) (q : Nat) (f : CopyQueue → CopyQueue) :
    (modQueue s q f).issue = s.issue ∧ (modQueue s q f).rf = s.rf ∧ (modQueue s q f).strands = s.strands ∧
    (modQueue s q f).groups = s.groups ∧ (modQueue s q f).tasks = s.tasks ∧ (modQueue s q f).cores = s.cores ∧
    (modQueue s q f).clusters = s.clusters ∧ (modQueue s q f).ctxs = s.ctxs ∧ (modQueue s q f).parts = s.parts ∧
    (modQueue s q f).locks = s.locks ∧ (modQueue s q f).tags = s.tags ∧ (modQueue s q f).mem = s.mem ∧
    (modQueue s q f).corewin = s.corewin ∧ (modQueue s q f).cluwin = s.cluwin ∧ (modQueue s q f).opmem = s.opmem ∧
    (modQueue s q f).pcs = s.pcs ∧ (modQueue s q f).posts = s.posts ∧ (modQueue s q f).engines = s.engines ∧
    (modQueue s q f).launches = s.launches ∧ (modQueue s q f).calls = s.calls ∧ (modQueue s q f).replays = s.replays ∧
    (modQueue s q f).map = s.map ∧ (modQueue s q f).tlbs = s.tlbs ∧ (modQueue s q f).badLines = s.badLines ∧
    (modQueue s q f).badOps = s.badOps ∧ (modQueue s q f).images = s.images ∧ (modQueue s q f).mesh = s.mesh ∧
    (modQueue s q f).routers = s.routers ∧ (modQueue s q f).pl = s.pl ∧ (modQueue s q f).fab = s.fab ∧
    (modQueue s q f).windows = s.windows ∧ (modQueue s q f).mgmt = s.mgmt ∧ (modQueue s q f).service = s.service ∧
    (modQueue s q f).determEn = s.determEn ∧ (modQueue s q f).determActive = s.determActive ∧
    (modQueue s q f).prqIds = s.prqIds ∧ (modQueue s q f).plIds = s.plIds ∧ (modQueue s q f).now = s.now ∧
    (modQueue s q f).agenda = s.agenda ∧ (modQueue s q f).favor = s.favor ∧
    (modQueue s q f).nextQuarter = s.nextQuarter ∧ (modQueue s q f).lastEvent = s.lastEvent ∧
    (modQueue s q f).uid = s.uid ∧ (modQueue s q f).serial = s.serial ∧ (modQueue s q f).draws = s.draws := by
  and_intros <;> rfl

@[simp] theorem modEngine_fields (s : State) (e : Nat) (f : Engine → Engine) :
    (modEngine s e f).issue = s.issue ∧ (modEngine s e f).rf = s.rf ∧ (modEngine s e f).strands = s.strands ∧
    (modEngine s e f).groups = s.groups ∧ (modEngine s e f).tasks = s.tasks ∧ (modEngine s e f).cores = s.cores ∧
    (modEngine s e f).clusters = s.clusters ∧ (modEngine s e f).ctxs = s.ctxs ∧ (modEngine s e f).parts = s.parts ∧
    (modEngine s e f).locks = s.locks ∧ (modEngine s e f).tags = s.tags ∧ (modEngine s e f).mem = s.mem ∧
    (modEngine s e f).corewin = s.corewin ∧ (modEngine s e f).cluwin = s.cluwin ∧ (modEngine s e f).opmem = s.opmem ∧
    (modEngine s e f).pcs = s.pcs ∧ (modEngine s e f).posts = s.posts ∧ (modEngine s e f).queues = s.queues ∧
    (modEngine s e f).launches = s.launches ∧ (modEngine s e f).calls = s.calls ∧
    (modEngine s e f).replays = s.replays ∧ (modEngine s e f).map = s.map ∧ (modEngine s e f).tlbs = s.tlbs ∧
    (modEngine s e f).badLines = s.badLines ∧ (modEngine s e f).badOps = s.badOps ∧
    (modEngine s e f).images = s.images ∧ (modEngine s e f).mesh = s.mesh ∧ (modEngine s e f).routers = s.routers ∧
    (modEngine s e f).pl = s.pl ∧ (modEngine s e f).fab = s.fab ∧ (modEngine s e f).windows = s.windows ∧
    (modEngine s e f).mgmt = s.mgmt ∧ (modEngine s e f).service = s.service ∧ (modEngine s e f).determEn = s.determEn ∧
    (modEngine s e f).determActive = s.determActive ∧ (modEngine s e f).prqIds = s.prqIds ∧
    (modEngine s e f).plIds = s.plIds ∧ (modEngine s e f).now = s.now ∧ (modEngine s e f).agenda = s.agenda ∧
    (modEngine s e f).favor = s.favor ∧ (modEngine s e f).nextQuarter = s.nextQuarter ∧
    (modEngine s e f).lastEvent = s.lastEvent ∧ (modEngine s e f).uid = s.uid ∧ (modEngine s e f).serial = s.serial ∧
    (modEngine s e f).draws = s.draws := by
  and_intros <;> rfl

@[simp] theorem modPort_fields (s : State) (p : Nat) (f : Port → Port) :
    (modPort s p f).issue = s.issue ∧ (modPort s p f).rf = s.rf ∧ (modPort s p f).strands = s.strands ∧
    (modPort s p f).groups = s.groups ∧ (modPort s p f).tasks = s.tasks ∧ (modPort s p f).cores = s.cores ∧
    (modPort s p f).clusters = s.clusters ∧ (modPort s p f).ctxs = s.ctxs ∧ (modPort s p f).parts = s.parts ∧
    (modPort s p f).locks = s.locks ∧ (modPort s p f).tags = s.tags ∧ (modPort s p f).mem = s.mem ∧
    (modPort s p f).corewin = s.corewin ∧ (modPort s p f).cluwin = s.cluwin ∧ (modPort s p f).opmem = s.opmem ∧
    (modPort s p f).pcs = s.pcs ∧ (modPort s p f).posts = s.posts ∧ (modPort s p f).queues = s.queues ∧
    (modPort s p f).engines = s.engines ∧ (modPort s p f).launches = s.launches ∧ (modPort s p f).calls = s.calls ∧
    (modPort s p f).replays = s.replays ∧ (modPort s p f).map = s.map ∧ (modPort s p f).tlbs = s.tlbs ∧
    (modPort s p f).badLines = s.badLines ∧ (modPort s p f).badOps = s.badOps ∧ (modPort s p f).images = s.images ∧
    (modPort s p f).mesh = s.mesh ∧ (modPort s p f).routers = s.routers ∧ (modPort s p f).pl = s.pl ∧
    (modPort s p f).windows = s.windows ∧ (modPort s p f).mgmt = s.mgmt ∧ (modPort s p f).service = s.service ∧
    (modPort s p f).determEn = s.determEn ∧ (modPort s p f).determActive = s.determActive ∧
    (modPort s p f).prqIds = s.prqIds ∧ (modPort s p f).plIds = s.plIds ∧ (modPort s p f).now = s.now ∧
    (modPort s p f).agenda = s.agenda ∧ (modPort s p f).favor = s.favor ∧ (modPort s p f).nextQuarter = s.nextQuarter ∧
    (modPort s p f).lastEvent = s.lastEvent ∧ (modPort s p f).uid = s.uid ∧ (modPort s p f).serial = s.serial ∧
    (modPort s p f).draws = s.draws := by
  and_intros <;> rfl

@[simp] theorem modPeer_fields (s : State) (p : BitVec 10) (f : Peer → Peer) :
    (modPeer s p f).issue = s.issue ∧ (modPeer s p f).rf = s.rf ∧ (modPeer s p f).strands = s.strands ∧
    (modPeer s p f).groups = s.groups ∧ (modPeer s p f).tasks = s.tasks ∧ (modPeer s p f).cores = s.cores ∧
    (modPeer s p f).clusters = s.clusters ∧ (modPeer s p f).ctxs = s.ctxs ∧ (modPeer s p f).parts = s.parts ∧
    (modPeer s p f).locks = s.locks ∧ (modPeer s p f).tags = s.tags ∧ (modPeer s p f).mem = s.mem ∧
    (modPeer s p f).corewin = s.corewin ∧ (modPeer s p f).cluwin = s.cluwin ∧ (modPeer s p f).opmem = s.opmem ∧
    (modPeer s p f).pcs = s.pcs ∧ (modPeer s p f).posts = s.posts ∧ (modPeer s p f).queues = s.queues ∧
    (modPeer s p f).engines = s.engines ∧ (modPeer s p f).launches = s.launches ∧ (modPeer s p f).calls = s.calls ∧
    (modPeer s p f).replays = s.replays ∧ (modPeer s p f).map = s.map ∧ (modPeer s p f).tlbs = s.tlbs ∧
    (modPeer s p f).badLines = s.badLines ∧ (modPeer s p f).badOps = s.badOps ∧ (modPeer s p f).images = s.images ∧
    (modPeer s p f).mesh = s.mesh ∧ (modPeer s p f).routers = s.routers ∧ (modPeer s p f).pl = s.pl ∧
    (modPeer s p f).windows = s.windows ∧ (modPeer s p f).mgmt = s.mgmt ∧ (modPeer s p f).service = s.service ∧
    (modPeer s p f).determEn = s.determEn ∧ (modPeer s p f).determActive = s.determActive ∧
    (modPeer s p f).prqIds = s.prqIds ∧ (modPeer s p f).plIds = s.plIds ∧ (modPeer s p f).now = s.now ∧
    (modPeer s p f).agenda = s.agenda ∧ (modPeer s p f).favor = s.favor ∧ (modPeer s p f).nextQuarter = s.nextQuarter ∧
    (modPeer s p f).lastEvent = s.lastEvent ∧ (modPeer s p f).uid = s.uid ∧ (modPeer s p f).serial = s.serial ∧
    (modPeer s p f).draws = s.draws := by
  and_intros <;> rfl

@[simp] theorem modPl_fields (s : State) (f : Pleach → Pleach) :
    (modPl s f).issue = s.issue ∧ (modPl s f).rf = s.rf ∧ (modPl s f).strands = s.strands ∧
    (modPl s f).groups = s.groups ∧ (modPl s f).tasks = s.tasks ∧ (modPl s f).cores = s.cores ∧
    (modPl s f).clusters = s.clusters ∧ (modPl s f).ctxs = s.ctxs ∧ (modPl s f).parts = s.parts ∧
    (modPl s f).locks = s.locks ∧ (modPl s f).tags = s.tags ∧ (modPl s f).mem = s.mem ∧
    (modPl s f).corewin = s.corewin ∧ (modPl s f).cluwin = s.cluwin ∧ (modPl s f).opmem = s.opmem ∧
    (modPl s f).pcs = s.pcs ∧ (modPl s f).posts = s.posts ∧ (modPl s f).queues = s.queues ∧
    (modPl s f).engines = s.engines ∧ (modPl s f).launches = s.launches ∧ (modPl s f).calls = s.calls ∧
    (modPl s f).replays = s.replays ∧ (modPl s f).map = s.map ∧ (modPl s f).tlbs = s.tlbs ∧
    (modPl s f).badLines = s.badLines ∧ (modPl s f).badOps = s.badOps ∧ (modPl s f).images = s.images ∧
    (modPl s f).mesh = s.mesh ∧ (modPl s f).routers = s.routers ∧ (modPl s f).fab = s.fab ∧
    (modPl s f).windows = s.windows ∧ (modPl s f).mgmt = s.mgmt ∧ (modPl s f).service = s.service ∧
    (modPl s f).determEn = s.determEn ∧ (modPl s f).determActive = s.determActive ∧ (modPl s f).prqIds = s.prqIds ∧
    (modPl s f).plIds = s.plIds ∧ (modPl s f).now = s.now ∧ (modPl s f).agenda = s.agenda ∧
    (modPl s f).favor = s.favor ∧ (modPl s f).nextQuarter = s.nextQuarter ∧ (modPl s f).lastEvent = s.lastEvent ∧
    (modPl s f).uid = s.uid ∧ (modPl s f).serial = s.serial ∧ (modPl s f).draws = s.draws := by
  and_intros <;> rfl

@[simp] theorem modMgmt_fields (s : State) (f : Mgmt → Mgmt) :
    (modMgmt s f).issue = s.issue ∧ (modMgmt s f).rf = s.rf ∧ (modMgmt s f).strands = s.strands ∧
    (modMgmt s f).groups = s.groups ∧ (modMgmt s f).tasks = s.tasks ∧ (modMgmt s f).cores = s.cores ∧
    (modMgmt s f).clusters = s.clusters ∧ (modMgmt s f).ctxs = s.ctxs ∧ (modMgmt s f).parts = s.parts ∧
    (modMgmt s f).locks = s.locks ∧ (modMgmt s f).tags = s.tags ∧ (modMgmt s f).mem = s.mem ∧
    (modMgmt s f).corewin = s.corewin ∧ (modMgmt s f).cluwin = s.cluwin ∧ (modMgmt s f).opmem = s.opmem ∧
    (modMgmt s f).pcs = s.pcs ∧ (modMgmt s f).posts = s.posts ∧ (modMgmt s f).queues = s.queues ∧
    (modMgmt s f).engines = s.engines ∧ (modMgmt s f).launches = s.launches ∧ (modMgmt s f).calls = s.calls ∧
    (modMgmt s f).replays = s.replays ∧ (modMgmt s f).map = s.map ∧ (modMgmt s f).tlbs = s.tlbs ∧
    (modMgmt s f).badLines = s.badLines ∧ (modMgmt s f).badOps = s.badOps ∧ (modMgmt s f).images = s.images ∧
    (modMgmt s f).mesh = s.mesh ∧ (modMgmt s f).routers = s.routers ∧ (modMgmt s f).pl = s.pl ∧
    (modMgmt s f).fab = s.fab ∧ (modMgmt s f).windows = s.windows ∧ (modMgmt s f).service = s.service ∧
    (modMgmt s f).determEn = s.determEn ∧ (modMgmt s f).determActive = s.determActive ∧
    (modMgmt s f).prqIds = s.prqIds ∧ (modMgmt s f).plIds = s.plIds ∧ (modMgmt s f).now = s.now ∧
    (modMgmt s f).agenda = s.agenda ∧ (modMgmt s f).favor = s.favor ∧ (modMgmt s f).nextQuarter = s.nextQuarter ∧
    (modMgmt s f).lastEvent = s.lastEvent ∧ (modMgmt s f).uid = s.uid ∧ (modMgmt s f).serial = s.serial ∧
    (modMgmt s f).draws = s.draws := by
  and_intros <;> rfl

@[simp] theorem inject_fields (s : State) (m : Message) :
    (inject s m).issue = s.issue ∧ (inject s m).rf = s.rf ∧ (inject s m).strands = s.strands ∧
    (inject s m).groups = s.groups ∧ (inject s m).tasks = s.tasks ∧ (inject s m).cores = s.cores ∧
    (inject s m).clusters = s.clusters ∧ (inject s m).ctxs = s.ctxs ∧ (inject s m).parts = s.parts ∧
    (inject s m).locks = s.locks ∧ (inject s m).tags = s.tags ∧ (inject s m).mem = s.mem ∧
    (inject s m).corewin = s.corewin ∧ (inject s m).cluwin = s.cluwin ∧ (inject s m).opmem = s.opmem ∧
    (inject s m).pcs = s.pcs ∧ (inject s m).posts = s.posts ∧ (inject s m).queues = s.queues ∧
    (inject s m).engines = s.engines ∧ (inject s m).launches = s.launches ∧ (inject s m).calls = s.calls ∧
    (inject s m).replays = s.replays ∧ (inject s m).map = s.map ∧ (inject s m).tlbs = s.tlbs ∧
    (inject s m).badLines = s.badLines ∧ (inject s m).badOps = s.badOps ∧ (inject s m).images = s.images ∧
    (inject s m).routers = s.routers ∧ (inject s m).pl = s.pl ∧ (inject s m).fab = s.fab ∧
    (inject s m).windows = s.windows ∧ (inject s m).mgmt = s.mgmt ∧ (inject s m).service = s.service ∧
    (inject s m).determEn = s.determEn ∧ (inject s m).determActive = s.determActive ∧ (inject s m).prqIds = s.prqIds ∧
    (inject s m).plIds = s.plIds ∧ (inject s m).now = s.now ∧ (inject s m).agenda = s.agenda ∧
    (inject s m).favor = s.favor ∧ (inject s m).nextQuarter = s.nextQuarter ∧ (inject s m).lastEvent = s.lastEvent ∧
    (inject s m).uid = s.uid ∧ (inject s m).serial = s.serial ∧ (inject s m).draws = s.draws := by
  and_intros <;> rfl

/-! ## What the changed part reads -/

@[simp] theorem strandAt_modStrand_same (s : State) (k : Nat) (f : Strand → Strand) (x : Strand)
    (h : AMap.get? s.strands k = some x) : strandAt (modStrand s k f) k = f x := by
  simp [strandAt, modStrand, AMap.getD, AMap.get?_modify, h]

theorem strandAt_modStrand_other (s : State) (k j : Nat) (f : Strand → Strand) (h : j ≠ k) :
    strandAt (modStrand s k f) j = strandAt s j := by
  simp [strandAt, modStrand, AMap.getD, AMap.get?_modify, h]

@[simp] theorem coreAt_modCore (s : State) (c j : Nat) (f : Core → Core) :
    coreAt (modCore s c f) j = if j = c then f (coreAt s c) else coreAt s j := by
  simp [coreAt, modCore, AMap.getD_put]

@[simp] theorem clusterAt_modCluster (s : State) (c j : Nat) (f : Cluster → Cluster) :
    clusterAt (modCluster s c f) j = if j = c then f (clusterAt s c) else clusterAt s j := by
  simp [clusterAt, modCluster, AMap.getD_put]

@[simp] theorem queueAt_modQueue (s : State) (q j : Nat) (f : CopyQueue → CopyQueue) :
    queueAt (modQueue s q f) j = if j = q then f (queueAt s q) else queueAt s j := by
  simp [queueAt, modQueue, AMap.getD_put]

@[simp] theorem engineAt_modEngine (s : State) (e j : Nat) (f : Engine → Engine) :
    engineAt (modEngine s e f) j = if j = e then f (engineAt s e) else engineAt s j := by
  simp [engineAt, modEngine, AMap.getD_put]

@[simp] theorem portAt_modPort (s : State) (p j : Nat) (f : Port → Port) :
    portAt (modPort s p f) j = if j = p then f (portAt s p) else portAt s j := by
  simp [portAt, modPort, AMap.getD_put]

@[simp] theorem ctxAt?_modCtx (s : State) (c j : CtxId) (f : Ctx → Ctx) :
    ctxAt? (modCtx s c f) j = if j = c then (ctxAt? s c).map f else ctxAt? s j := by
  simp only [ctxAt?, modCtx, AMap.get?_modify, BitVec.toNat_inj]
  by_cases h : j = c
  · rw [h]
  · rw [if_neg h, if_neg h]

@[simp] theorem windowAt_modWindow (s : State) (w j : BitVec 6) (f : Window → Window) :
    windowAt (modWindow s w f) j = if j = w then f (windowAt s w) else windowAt s j := by
  simp [windowAt, modWindow, AMap.getD_put, BitVec.toNat_inj]

@[simp] theorem peerAt_modPeer (s : State) (p j : BitVec 10) (f : Peer → Peer) :
    peerAt (modPeer s p f) j = if j = p then f (peerAt s p) else peerAt s j := by
  simp [peerAt, modPeer, AMap.getD_put, BitVec.toNat_inj]

@[simp] theorem modPl_pl (s : State) (f : Pleach → Pleach) : (modPl s f).pl = f s.pl := rfl

@[simp] theorem modMgmt_mgmt (s : State) (f : Mgmt → Mgmt) : (modMgmt s f).mgmt = f s.mgmt := rfl

@[simp] theorem inject_mesh (s : State) (m : Message) : (inject s m).mesh = s.mesh ++ [m] := rfl

theorem getH_setH (s : State) (q j : Nat) (n m : Reg3) (v : BitVec 256) :
    getH (setH s q n v) j m = if j = q ∧ m = n then v else getH s j m := by
  have hn := n.isLt
  have hm := m.isLt
  simp only [getH, setH, Sparse.read_write]
  by_cases h : j = q ∧ m = n
  · rw [if_pos h, if_pos (by rw [h.1, h.2])]
  · rw [if_neg h, if_neg]
    intro e
    have : m.toNat = n.toNat := by omega
    exact h ⟨by omega, BitVec.eq_of_toNat_eq this⟩

theorem getK_setK (s : State) (q j : Nat) (n m : KReg) (v : Token) :
    getK (setK s q n v) j m = if j = q ∧ m = n then v else getK s j m := by
  have hn := n.isLt
  have hm := m.isLt
  simp only [getK, setK, AMap.getD_put]
  by_cases h : j = q ∧ m = n
  · rw [if_pos h, if_pos (by rw [h.1, h.2])]
  · rw [if_neg h, if_neg]
    intro e
    have : m.toNat = n.toNat := by omega
    exact h ⟨by omega, BitVec.eq_of_toNat_eq this⟩

theorem getJ_setJ (s : State) (q j n m : Nat) (v : JoinMask) (hn : n < 8) (hm : m < 8) :
    getJ (setJ s q n v) j m = if j = q ∧ m = n then v else getJ s j m := by
  simp only [getJ, setJ, AMap.getD_put]
  by_cases h : j = q ∧ m = n
  · rw [if_pos h, if_pos (by rw [h.1, h.2])]
  · rw [if_neg h, if_neg]
    intro e
    exact h ⟨by omega, by omega⟩

end Sys2Proof.Machine
end

