-- ==== Sys2Proof/Laws/Memory.lean ====
section
/-! SUPPORT. Laws of the memories: what a write leaves at every address, that every operation on a memory keeps its canonical
form, and what the shared operations on memory and translations change. -/

namespace Sys2Proof.Machine

/-! ## Wake events -/

theorem wakeLine_rest (s : State) (l : MonLine) (only : Wakes) :
    wakeLine s l only = { s with strands := (wakeLine s l only).strands, cores := (wakeLine s l only).cores } := by
  have key : ∀ (cs : List Nat) (t : State), cs.foldl (fun s c => modCore s c (fun x => { x with snap := [] })) t =
      { t with cores := (cs.foldl (fun s c => modCore s c (fun x => { x with snap := [] })) t).cores } := by
    intro cs
    induction cs with
    | nil => intro t; rfl
    | cons c cs ih => intro t; rw [List.foldl_cons, ih]; rfl
  unfold wakeLine
  dsimp only
  rw [key]

/-- A range of wake events changes strands, and lines of the cores' snapshots, alone. -/
theorem wakeRange_rest (s : State) (mk : Nat → MonLine) (a n : Nat) (only : Wakes) :
    wakeRange s mk a n only =
      { s with strands := (wakeRange s mk a n only).strands, cores := (wakeRange s mk a n only).cores } := by
  have key : ∀ (ls : List Nat) (t : State), ls.foldl (fun s l => wakeLine s (mk l) only) t =
      { t with strands := (ls.foldl (fun s l => wakeLine s (mk l) only) t).strands,
               cores := (ls.foldl (fun s l => wakeLine s (mk l) only) t).cores } := by
    intro ls
    induction ls with
    | nil => intro t; rfl
    | cons l ls ih => intro t; rw [List.foldl_cons, ih, wakeLine_rest]
  unfold wakeRange
  split
  · rfl
  · exact key _ s

/-! ## Window stores -/

/-- A write of a window changes that store, and what its wake event changes. -/
theorem winWrite_rest (s : State) (cl : Bool) (a : Nat) (bs : List Byte) :
    winWrite s cl a bs =
      { s with cluwin := if cl then Mem.setBytes s.cluwin a bs else s.cluwin,
               corewin := if cl then s.corewin else Mem.setBytes s.corewin a bs,
               strands := (winWrite s cl a bs).strands, cores := (winWrite s cl a bs).cores } := by
  unfold winWrite
  rw [wakeRange_rest]
  cases cl <;> rfl

/-! ## Memory at the coherence point -/

theorem memSetBytes_fab (s : State) (pa : Nat) (bs : List Byte) :
    memSetBytes s pa bs = { s with mem := (memSetBytes s pa bs).mem, fab := (memSetBytes s pa bs).fab } := by
  induction bs generalizing s pa with
  | nil => rfl
  | cons b bs ih =>
    rw [memSetBytes, ih]
    unfold memSetByte
    split
    · unfold peerSetByte
      split
      · split <;> rfl
      · rfl
    · rfl

/-- Bytes below the device registers go to memory. -/
theorem memSetBytes_mem (s : State) (pa : Nat) (bs : List Byte) (h : pa + bs.length ≤ 0xF0001000000) :
    memSetBytes s pa bs = { s with mem := Mem.setBytes s.mem pa bs } := by
  induction bs generalizing s pa with
  | nil => rfl
  | cons b bs ih =>
    have hp : peerTable pa = false := by
      simp only [List.length_cons] at h
      simp only [peerTable, Bool.and_eq_false_iff, decide_eq_false_iff_not]
      omega
    simp only [List.length_cons] at h
    rw [memSetBytes, memSetByte, hp, ih _ _ (by omega)]
    rfl

theorem memSetBytes_wf (s : State) (pa : Nat) (bs : List Byte) (h : Mem.wf s.mem = true) :
    Mem.wf (memSetBytes s pa bs).mem = true := by
  induction bs generalizing s pa with
  | nil => exact h
  | cons b bs ih =>
    rw [memSetBytes]
    apply ih
    unfold memSetByte
    split
    · unfold peerSetByte
      split
      · split <;> exact h
      · exact h
    · exact Mem.wf_setByte _ _ _ h

theorem eccWrite_clean (s : State) (l : Nat) (h : s.badLines = []) : eccWrite s l = s := by
  simp [eccWrite, h, AMap.get?]

theorem eccWrite_foldl_clean (s : State) (ls : List Nat) (h : s.badLines = []) : ls.foldl eccWrite s = s := by
  induction ls with
  | nil => rfl
  | cons l ls ih => rw [List.foldl_cons, eccWrite_clean s l h, ih]

/-- R260: a write that performs where no line is bad puts its bytes at the coherence point; apart from that it changes what its
wake event changes. -/
theorem performFor_clean (s : State) (w : Wakes) (pa : Nat) (bs : List Byte) (hb : s.badLines = []) (h : pa + bs.length ≤ 0xF0001000000) :
    performFor s w pa bs =
      { s with mem := Mem.setBytes s.mem pa bs, strands := (performFor s w pa bs).strands,
               cores := (performFor s w pa bs).cores } := by
  unfold performFor
  split
  · next he =>
    have : bs = [] := by simpa using he
    subst this; rfl
  · rw [eccWrite_foldl_clean s _ hb]
    dsimp only
    rw [memSetBytes_mem s pa bs h, wakeRange_rest]

theorem perform_byte (s : State) (pa a : Nat) (bs : List Byte) (hb : s.badLines = []) (h : pa + bs.length ≤ 0xF0001000000) :
    Mem.byte (perform s pa bs).mem a = if pa ≤ a ∧ a < pa + bs.length then bs.getD (a - pa) 0 else Mem.byte s.mem a := by
  rw [perform, performFor_clean s _ pa bs hb h]
  show Mem.byte (Mem.setBytes s.mem pa bs) a = _
  rw [Mem.byte_setBytes]
  split
  · next hh => rw [List.getD_eq_getElem?_getD, List.getElem?_eq_getElem (by omega)]; rfl
  · rfl

/-- Retiring a page queues a migration and changes nothing else (R319). -/
theorem retirePage_rest (s : State) (pa : Nat) : retirePage s pa = { s with map := (retirePage s pa).map } := by
  unfold retirePage
  dsimp only
  split
  · rfl
  · split <;> rfl

/-- Counting a transient error changes the bad lines and the counters of the stacks (R318). -/
theorem countTransient_rest (s : State) (line : Nat) :
    countTransient s line =
      { s with badLines := (countTransient s line).badLines, mgmt := (countTransient s line).mgmt } := by
  unfold countTransient
  dsimp only
  split <;> rfl

theorem eccWrite_canonical (s : State) (l : Nat) (h : MemoriesCanonical s) : MemoriesCanonical (eccWrite s l) := by
  obtain ⟨h1, h2, h3, h4⟩ := h
  unfold eccWrite
  split
  · rw [retirePage_rest]
    exact ⟨Mem.wf_clear _ _ _ h1, h2, h3, h4⟩
  · rw [countTransient_rest]
    exact ⟨h1, h2, h3, h4⟩
  · exact ⟨h1, h2, h3, h4⟩

/-- A write that performs keeps the memories in their canonical form. -/
theorem performFor_canonical (s : State) (w : Wakes) (pa : Nat) (bs : List Byte) (h : MemoriesCanonical s) :
    MemoriesCanonical (performFor s w pa bs) := by
  have key : ∀ (ls : List Nat) (t : State), MemoriesCanonical t → MemoriesCanonical (ls.foldl eccWrite t) := by
    intro ls
    induction ls with
    | nil => intro t ht; exact ht
    | cons l ls ih => intro t ht; exact ih _ (eccWrite_canonical t l ht)
  unfold performFor
  split
  · exact h
  · dsimp only
    rw [wakeRange_rest]
    have hk := key ((List.range ((pa + bs.length - 1) / 128 - pa / 128 + 1)).map (fun i => pa / 128 + i)) s h
    revert hk
    generalize ((List.range ((pa + bs.length - 1) / 128 - pa / 128 + 1)).map (fun i => pa / 128 + i)).foldl eccWrite s = t
    intro ⟨h1, h2, h3, h4⟩
    refine ⟨memSetBytes_wf t pa bs h1, ?_, ?_, ?_⟩
    · show Mem.wf (memSetBytes t pa bs).corewin = true
      rw [memSetBytes_fab]; exact h2
    · show Mem.wf (memSetBytes t pa bs).cluwin = true
      rw [memSetBytes_fab]; exact h3
    · show Mem.wf (memSetBytes t pa bs).opmem = true
      rw [memSetBytes_fab]; exact h4

theorem perform_canonical (s : State) (pa : Nat) (bs : List Byte) (h : MemoriesCanonical s) :
    MemoriesCanonical (perform s pa bs) := performFor_canonical s _ pa bs h

theorem winWrite_canonical (s : State) (cl : Bool) (a : Nat) (bs : List Byte) (h : MemoriesCanonical s) :
    MemoriesCanonical (winWrite s cl a bs) := by
  obtain ⟨h1, h2, h3, h4⟩ := h
  rw [winWrite_rest]
  cases cl
  · exact ⟨h1, Mem.wf_setBytes _ _ _ h2, h3, h4⟩
  · exact ⟨h1, h2, Mem.wf_setBytes _ _ _ h3, h4⟩

theorem performStore_canonical (s : State) (c : Nat) (b : BufStore) (h : MemoriesCanonical s) :
    MemoriesCanonical (performStore s c b) := by
  have h' := performFor_canonical s (.others c) b.pa b.bytes h
  unfold performStore
  dsimp only
  split
  · exact h'
  · exact h'

/-- Publish(CHIP) empties the core's write buffer and keeps the canonical form. -/
theorem publish_canonical (s : State) (c : Nat) (h : MemoriesCanonical s) : MemoriesCanonical (publish s c) := by
  have key : ∀ (bs : List BufStore) (t : State), MemoriesCanonical t →
      MemoriesCanonical (bs.foldl (fun s x => performStore s c x) t) := by
    intro bs
    induction bs with
    | nil => intro t ht; exact ht
    | cons b bs ih => intro t ht; exact ih _ (performStore_canonical t c b ht)
  exact key _ _ h

theorem makeStore_canonical (s : State) (c : Nat) (ctx : CtxId) (pa : Nat) (bs : List Byte) (h : MemoriesCanonical s) :
    MemoriesCanonical (makeStore s c ctx pa bs) := by
  have h' : MemoriesCanonical
      (wakeRange (modCore s c (fun x => ({ x with wbuf := x.wbuf ++ [⟨pa, bs, ctx⟩] } : Core).moves ctx pa bs.length)) .global
        pa bs.length (.core c)) := by
    rw [wakeRange_rest]; exact h
  unfold makeStore
  dsimp only
  split
  · exact publish_canonical _ c h'
  · exact h'

theorem opWrite_canonical (s : State) (cluster a : Nat) (bs : List Byte) (h : MemoriesCanonical s) :
    MemoriesCanonical (opWrite s cluster a bs) := by
  obtain ⟨h1, h2, h3, h4⟩ := h
  unfold opWrite
  split
  · exact ⟨h1, h2, h3, h4⟩
  · exact ⟨h1, h2, h3, Mem.wf_setBytes _ _ _ h4⟩

theorem opZero_canonical (s : State) (cluster a n : Nat) (h : MemoriesCanonical s) :
    MemoriesCanonical (opZero s cluster a n) := by
  obtain ⟨h1, h2, h3, h4⟩ := h
  exact ⟨h1, h2, h3, Mem.wf_clear _ _ _ h4⟩

theorem reset_canonical : MemoriesCanonical State.reset := ⟨rfl, rfl, rfl, rfl⟩

/-! ## Loads and translation -/

theorem fillLine_rest (s : State) (c line : Nat) : fillLine s c line = { s with cores := (fillLine s c line).cores } := by
  unfold fillLine; split <;> rfl

/-- A load of a core changes its snapshot alone. -/
theorem loadGlobal_rest (s : State) (c pa n : Nat) :
    (loadGlobal s c pa n).1 = { s with cores := (loadGlobal s c pa n).1.cores } := by
  unfold loadGlobal
  dsimp only
  split
  · rfl
  · exact fillLine_rest s c (pa / 128)

theorem tlbFill_rest (s : State) (e : TlbEntry) (c : Nat) : tlbFill s e c = { s with tlbs := (tlbFill s e c).tlbs } := by
  unfold tlbFill; dsimp only; split <;> rfl

theorem tlbFills_rest (e : TlbEntry) (cs : List Nat) (t : State) :
    cs.foldl (fun s c => tlbFill s e c) t = { t with tlbs := (cs.foldl (fun s c => tlbFill s e c) t).tlbs } := by
  induction cs generalizing t with
  | nil => rfl
  | cons c cs ih => rw [List.foldl_cons, ih, tlbFill_rest]

/-- A read of table entries counts transient errors and rebuilds tables; where no line is bad it changes nothing (R318). -/
theorem readEntries_rest (s : State) (ctx : CtxId) (va : Nat) :
    readEntries s ctx va = { s with badLines := (readEntries s ctx va).badLines, mgmt := (readEntries s ctx va).mgmt,
                                    map := (readEntries s ctx va).map } := by
  have one : ∀ (t : State) (e : Nat × Nat), readEntry t e =
      { t with badLines := (readEntry t e).badLines, mgmt := (readEntry t e).mgmt, map := (readEntry t e).map } := by
    intro t e
    unfold readEntry
    split
    · rfl
    · rw [countTransient_rest]
    · split <;> rfl
  have key : ∀ (es : List (Nat × Nat)) (t : State), es.foldl readEntry t =
      { t with badLines := (es.foldl readEntry t).badLines, mgmt := (es.foldl readEntry t).mgmt,
               map := (es.foldl readEntry t).map } := by
    intro es
    induction es with
    | nil => intro t; rfl
    | cons e es ih => intro t; rw [List.foldl_cons, ih, one t e]
  unfold readEntries
  split
  · rfl
  · exact key _ _

theorem readEntries_clean (s : State) (ctx : CtxId) (va : Nat) (h : s.badLines = []) : readEntries s ctx va = s := by
  simp [readEntries, h]

/-- The walkers keep the stage-2 entries they meet in their caches alone (R287). -/
theorem fillWalkers_rest (s : State) (ctx : CtxId) (va : Nat) :
    fillWalkers s ctx va = { s with tlbs := (fillWalkers s ctx va).tlbs } := by
  have key : ∀ (p : Nat) (l : List Nat) (t : State),
      l.foldl (fun s ipa => match stage2 s p 0 ipa false with | .page f => tlbFill s f (walkerCache p) | _ => s) t =
      { t with tlbs := (l.foldl (fun s ipa =>
        match stage2 s p 0 ipa false with | .page f => tlbFill s f (walkerCache p) | _ => s) t).tlbs } := by
    intro p l
    induction l with
    | nil => intro t; rfl
    | cons a l ih =>
      intro t
      rw [List.foldl_cons, ih]
      split
      · rw [tlbFill_rest]
      · rfl
  unfold fillWalkers
  split
  · rfl
  · exact key _ _ s

/-- A walker's walk changes the walkers' entries, and what the reads of the table entries change (R287, R318). -/
theorem walkRead_rest (s : State) (ctx : CtxId) (va : Nat) (write : Bool) :
    (walkRead s ctx va write).1 =
      { s with tlbs := (walkRead s ctx va write).1.tlbs, badLines := (walkRead s ctx va write).1.badLines,
               mgmt := (walkRead s ctx va write).1.mgmt, map := (walkRead s ctx va write).1.map } := by
  unfold walkRead
  dsimp only
  rw [fillWalkers_rest]
  have h := readEntries_rest s ctx va
  revert h
  generalize readEntries s ctx va = t
  intro h
  rw [h]

/-- Where no line has an error a walker's walk changes the walkers' entries alone. -/
theorem walkRead_clean (s : State) (ctx : CtxId) (va : Nat) (write : Bool) (h : s.badLines = []) :
    (walkRead s ctx va write).1 = { s with tlbs := (walkRead s ctx va write).1.tlbs } := by
  unfold walkRead
  dsimp only
  rw [readEntries_clean s ctx va h]
  exact fillWalkers_rest s ctx va

/-- A translation changes the translation caches, and what the reads of the table entries change (R318). -/
theorem translate_rest (s : State) (cs : List Nat) (ctx : CtxId) (va : Nat) (write : Bool) :
    (translate s cs ctx va write).1 =
      { s with tlbs := (translate s cs ctx va write).1.tlbs, badLines := (translate s cs ctx va write).1.badLines,
               mgmt := (translate s cs ctx va write).1.mgmt, map := (translate s cs ctx va write).1.map } := by
  unfold translate
  split
  · split
    · rfl
    · dsimp only; rw [tlbFills_rest]
  · have h := walkRead_rest s ctx va write
    revert h
    generalize walkRead s ctx va write = t
    intro h
    dsimp only
    split
    · dsimp only; rw [tlbFills_rest, h]
    · exact h

/-- Where no line has an error a translation changes the translation caches alone. -/
theorem translate_clean (s : State) (cs : List Nat) (ctx : CtxId) (va : Nat) (write : Bool) (h : s.badLines = []) :
    (translate s cs ctx va write).1 = { s with tlbs := (translate s cs ctx va write).1.tlbs } := by
  unfold translate
  split
  · split
    · rfl
    · exact tlbFills_rest _ _ _
  · have h := walkRead_clean s ctx va write h
    revert h
    generalize walkRead s ctx va write = t
    intro h
    dsimp only
    split
    · dsimp only; rw [tlbFills_rest, h]
    · exact h

/-- A page request enters the queue of a context, or of a virtual function's window, and changes nothing else. -/
theorem requestPage_rest (s : State) (ctx : CtxId) (a : Absent) (access : Access) :
    requestPage s ctx a access =
      { s with ctxs := (requestPage s ctx a access).ctxs, windows := (requestPage s ctx a access).windows } := by
  unfold requestPage
  split
  · rfl
  · dsimp only; split <;> rfl

end Sys2Proof.Machine
end

