-- ==== Sys2Proof/Laws/Operations.lean ====
section
/-! SUPPORT. For each operation that the meanings share, one theorem that says everything it does. -/

namespace Sys2Proof.Machine

/-! ## Pairs -/

theorem evenReg_ne (d : BitVec 5) : evenReg d + 1 = d ++ 1#1 ∧ d ++ 1#1 ≠ 0 ∧ d ++ 1#1 ≠ evenReg d := by
  revert d; decide

theorem getS_setPair (s : State) (k k' : Nat) (d : BitVec 5) (v : DWord) (r : SReg) :
    getS (setPair s k (evenReg d) v) k' r =
      if k' = k ∧ r = d ++ 0#1 ∧ r ≠ 0 then v.setWidth 32
      else if k' = k ∧ r = d ++ 1#1 then v.extractLsb' 32 32
      else getS s k' r := by
  obtain ⟨h1, h2, h3⟩ := evenReg_ne d
  have h4 : evenReg d = d ++ 0#1 := rfl
  unfold setPair
  rw [getS_setS, getS_setS, h1]
  rw [h4] at h3 ⊢
  by_cases hk : k' = k
  · subst hk
    by_cases e1 : r = d ++ 1#1
    · subst e1; simp only [true_and, h3, h2, false_and, if_false, if_true, ne_eq, not_false_eq_true]; try simp [h2]
    · by_cases e0 : r = d ++ 0#1
      · subst e0; simp [Ne.symm h3]
      · simp [e1, e0]
  · simp [hk]

theorem setPair_rest (s : State) (k : Nat) (r : SReg) (v : DWord) :
    setPair s k r v = { s with rf := { s.rf with s := (setPair s k r v).rf.s } } := by
  unfold setPair setS; split <;> split <;> rfl

theorem writePair_rest (s : State) (d : BitVec 5) (f : Nat → DWord) :
    writePair s d f = { s with rf := { s.rf with s := (writePair s d f).rf.s } } := by
  have key : ∀ (ks : List Nat) (t : State), ks.foldl (fun x k => setPair x k (evenReg d) (f k)) t =
      { t with rf := { t.rf with s := (ks.foldl (fun x k => setPair x k (evenReg d) (f k)) t).rf.s } } := by
    intro ks
    induction ks with
    | nil => intro t; rfl
    | cons k ks ih => intro t; rw [List.foldl_cons, ih, setPair_rest]
  exact key _ s

theorem getS_writePair (s : State) (d : BitVec 5) (f : Nat → DWord) (k : Nat) (r : SReg) :
    getS (writePair s d f) k r =
      if inS s k = true ∧ r = d ++ 0#1 ∧ r ≠ 0 then (f k).setWidth 32
      else if inS s k = true ∧ r = d ++ 1#1 then (f k).extractLsb' 32 32
      else getS s k r := by
  have key : ∀ (ks : List Nat), ks.Nodup → ∀ t : State,
      getS (ks.foldl (fun x k => setPair x k (evenReg d) (f k)) t) k r =
        if k ∈ ks ∧ r = d ++ 0#1 ∧ r ≠ 0 then (f k).setWidth 32
        else if k ∈ ks ∧ r = d ++ 1#1 then (f k).extractLsb' 32 32
        else getS t k r := by
    intro ks
    induction ks with
    | nil => intro _ t; simp
    | cons a ks ih =>
      intro hn t
      obtain ⟨ha, hn⟩ := List.nodup_cons.mp hn
      rw [List.foldl_cons, ih hn, getS_setPair]
      by_cases hk : k = a
      · subst hk; simp [ha]
      · simp [hk]
  have := key (active s) (active_nodup s) s
  simp only [inS_iff]
  exact this

/-- Everything that `resPair` does. -/
theorem resPair_spec (s : State) (d : BitVec 5) (v : Nat → DWord) : PairResult s (resPair s d v) d v := by
  have hw := writePair_rest s d v
  have ha := advance_rest (writePair s d v)
  refine ⟨_, rfl, ?_, ?_, ?_⟩
  · rw [ha, hw]
  · intro k r
    rw [getS_congr (s := writePair s d v) (by rw [ha]), getS_writePair]
  · exact strandsAfter_advance s _ (by rw [hw]) (by rw [hw])

/-! ## Going on, waiting and jumping -/

theorem active_congr {s t : State} (h : t.issue = s.issue) : active t = active s := by
  unfold active lanes skey gk; rw [h]

/-- Every strand of S goes on; nothing else changes. -/
theorem advance_goesOn (s t : State) (p : State → Prop) (h : t.strands = s.strands) (hi : t.issue = s.issue)
    (hp : p (advance t)) : GoesOn s (.next (advance t)) p :=
  ⟨_, rfl, hp, strandsAfter_advance s t h hi⟩

/-- Giving a turn back neither reads nor writes strands, and it changes the groups' turns and the core's choices alone. -/
theorem giveTurnBack_strands (s : State) (m : AMap Strand) :
    giveTurnBack { s with strands := m } = { giveTurnBack s with strands := m } ∧
      giveTurnBack s = { s with groups := (giveTurnBack s).groups, cores := (giveTurnBack s).cores } := by
  have key : ∀ (gs : List (Nat × BitVec 5 × Option Yielded)) (t : State),
      gs.foldl (fun s g => modGroup s g.1 (fun x => { x with turn := g.2.1, yielded := g.2.2 })) { t with strands := m } =
        { gs.foldl (fun s g => modGroup s g.1 (fun x => { x with turn := g.2.1, yielded := g.2.2 })) t with strands := m } ∧
      gs.foldl (fun s g => modGroup s g.1 (fun x => { x with turn := g.2.1, yielded := g.2.2 })) t =
        { t with groups := (gs.foldl (fun s g => modGroup s g.1 (fun x => { x with turn := g.2.1, yielded := g.2.2 })) t).groups } := by
    intro gs
    induction gs with
    | nil => intro t; exact ⟨rfl, rfl⟩
    | cons g gs ih =>
      intro t
      obtain ⟨a, b⟩ := ih (modGroup t g.1 (fun x => { x with turn := g.2.1, yielded := g.2.2 }))
      exact ⟨a, by rw [List.foldl_cons, b]; rfl⟩
  unfold giveTurnBack
  dsimp only
  obtain ⟨a, b⟩ := key s.issue.before.groups s
  rw [a]
  split
  · exact ⟨rfl, by rw [b]⟩
  · exact ⟨rfl, by rw [b]; rfl⟩

/-- Every strand of S waits for a condition, and the issue takes no turn; nothing else changes (R106). -/
theorem waitFor_waits (s : State) (c : Cond) : WaitsFor s (.next (waitFor s (active s) c)) c := by
  have hs : (waitFor s (active s) c).strands = (holdFor s (active s) c).strands := by
    unfold waitFor; rw [(giveTurnBack_strands _ []).2]
  refine ⟨_, rfl, ?_, ?_⟩
  · rw [hs]
    unfold waitFor
    rw [show holdFor s (active s) c = { s with strands := (holdFor s (active s) c).strands } from modStrands_rest s _ _]
    exact (giveTurnBack_strands s _).1
  intro k
  rw [hs]
  unfold holdFor
  rw [get?_modStrands _ (active_nodup s)]
  cases AMap.get? s.strands k with
  | none => rfl
  | some x =>
    simp only [Option.map_some, Option.some.injEq]
    by_cases h : k ∈ active s
    · simp only [h, (inS_iff s k).mpr h, if_true]
      cases x.wait <;> rfl
    · have : inS s k = false := by rw [Bool.eq_false_iff]; exact fun e => h ((inS_iff s k).mp e)
      simp [this, h]

theorem get?_goTo (s : State) (target : Nat → VAddr) (k : Nat) :
    AMap.get? (goTo s target).strands k =
      (AMap.get? s.strands k).map (fun x => if inS s k then goesTo target k x else x) := by
  have key : ∀ (ks : List Nat), ks.Nodup → ∀ t : State,
      AMap.get? (ks.foldl (fun x k => modStrand x k (fun y => { y with pc := target k, wait := .run })) t).strands k =
        (AMap.get? t.strands k).map (fun x => if k ∈ ks then goesTo target k x else x) := by
    intro ks
    induction ks with
    | nil => intro _ t; simp
    | cons a ks ih =>
      intro hn t
      obtain ⟨ha, hn⟩ := List.nodup_cons.mp hn
      rw [List.foldl_cons, ih hn, get?_modStrand]
      by_cases hk : k = a
      · subst hk
        cases AMap.get? t.strands k <;> simp [ha, goesTo]
      · cases AMap.get? t.strands k <;> simp [hk]
  have h := key (active s) (active_nodup s) s
  rw [show goTo s target = (active s).foldl (fun x k => modStrand x k (fun y => { y with pc := target k, wait := .run })) s from rfl, h]
  cases AMap.get? s.strands k with
  | none => rfl
  | some x =>
    by_cases hk : k ∈ active s
    · simp [hk, (inS_iff s k).mpr hk]
    · have : inS s k = false := by rw [Bool.eq_false_iff]; exact fun e => hk ((inS_iff s k).mp e)
      simp [hk, this]

/-- A jump changes strands alone. -/
theorem goTo_rest (s : State) (target : Nat → VAddr) : goTo s target = { s with strands := (goTo s target).strands } := by
  have key : ∀ (ks : List Nat) (t : State),
      ks.foldl (fun x k => modStrand x k (fun y => { y with pc := target k, wait := .run })) t =
        { t with strands := (ks.foldl (fun x k => modStrand x k (fun y => { y with pc := target k, wait := .run })) t).strands } := by
    intro ks
    induction ks with
    | nil => intro t; rfl
    | cons k ks ih => intro t; rw [List.foldl_cons, ih]; rfl
  exact key _ s

/-! ## Checks and traps -/

/-- R34: with every strand of S at the level the instruction goes on; else it raises PRIV. -/
theorem needPrivAt_cases (s : State) (p : BitVec 2) (v : DWord) (go : Out State) :
    (needPrivAt s p v go = go ∧ ∀ k ∈ active s, (privOf s k).ult p = false) ∨
    ∃ k ∈ active s, (privOf s k).ult p = true ∧ needPrivAt s p v go = .next (raiseTrap s cPRIV v k) := by
  unfold needPrivAt below?
  cases h : (active s).find? (fun k => (privOf s k).ult p) with
  | none =>
    left
    refine ⟨rfl, fun k hk => ?_⟩
    simpa using List.find?_eq_none.mp h k hk
  | some k => exact .inr ⟨k, List.mem_of_find?_eq_some h, by simpa using List.find?_some (p := fun k => (privOf s k).ult p) h, rfl⟩

/-- R177: the checks of an access end in a trap, in a stop at an address that is no memory, or let it go on. -/
theorem checked_cases (r : State × List (Nat × Found)) (go : State → List (Nat × Found) → Out State) :
    (∃ k c v, firstTrap r.2 = some (k, c, v) ∧ checked r go = .next (raiseTrap r.1 c v k)) ∨
    (firstTrap r.2 = none ∧ ∃ pa o, paStop? pa = some o ∧ checked r go = o) ∨
    (firstTrap r.2 = none ∧ checked r go = go r.1 r.2) := by
  unfold checked
  cases h : firstTrap r.2 with
  | some x => exact .inl ⟨x.1, x.2.1, x.2.2, rfl, rfl⟩
  | none =>
    right
    dsimp only
    cases hp : paStops? (r.2.filterMap (fun f => match f.2 with | .page a => some a | _ => none)) with
    | none => exact .inr ⟨rfl, rfl⟩
    | some o =>
      obtain ⟨pa, -, hpa⟩ := List.exists_of_findSome?_eq_some hp
      exact .inl ⟨rfl, pa, o, hpa, rfl⟩

/-- A stop is a fault at an address that no memory has, or a refusal at a device register. -/
theorem paStop?_cases (pa : Nat) (o : Out State) (h : paStop? pa = some o) :
    plainMem pa = false ∧ peerTable pa = false ∧ (o = .fault (.noSuchAddress pa) ∨ o = .refused (.deviceRegister pa)) := by
  unfold paStop? at h
  split at h
  · cases h
  · next hn =>
    simp only [Bool.or_eq_true, not_or, Bool.not_eq_true] at hn
    split at h <;> cases h
    · exact ⟨hn.1, hn.2, .inr rfl⟩
    · exact ⟨hn.1, hn.2, .inl rfl⟩

/-- No trap without an issuing task. -/
theorem raiseTrap_idle (s : State) (c : BitVec 8) (v : DWord) (k : Nat) (h : issuer? s = none) : raiseTrap s c v k = s := by
  unfold raiseTrap; rw [h]

/-- R40: a trap is taken by the issuing task at the pc of the instruction. -/
theorem raiseTrap_taken (s : State) (c : BitVec 8) (v : DWord) (k tk : Nat) (t : Task) (h : issuer? s = some (tk, t)) :
    raiseTrap s c v k = takeTrap s tk c v s.issue.pc (strandIx s k) := by
  unfold raiseTrap; rw [h]

/-! ## Posts, packets, calls and messages -/

/-- The head post of a window is handled, waits, or belongs to another operation. -/
theorem handlePost_cases (fn : BitVec 6) (op : Nat) (s : State) (go : State → Slot → Word → CtxId → State × PostEnd) :
    handlePost fn op s go = .next s ∨
    ∃ p r, (windowAt s fn).posts = p :: r ∧
      (let id := dieId kReq fn.toNat (windowAt s fn).idCount
       let e := postOutcome s fn (slotOf p) id go
       handlePost fn op s go = .next (if e.2 = .wait then e.1 else closePost e.1 fn (slotOf p) id e.2)) := by
  unfold handlePost
  cases h : (windowAt s fn).posts with
  | nil => exact .inl rfl
  | cons p r =>
    dsimp only
    split
    · exact .inl rfl
    · exact .inr ⟨p, r, rfl, rfl⟩

/-- R385: a packet is absent, a duplicate, or taken once and its SEQ marked. -/
theorem withPacket_cases (s : State) (n kind : Nat) (go : State → BitVec 10 → BitVec 32 → Nat → List Byte → Out State) :
    (rxAt? s n kind = none ∧ withPacket s n kind go = .next s) ∨
    ∃ port v b, rxAt? s n kind = some (port, v, b) ∧
      ((received (peerAt s (pkSrc b)) (pkSeq b) = true ∧
          withPacket s n kind go = .next (answerAgain (dropRx s n) (pkSrc b) (pkSeq b) kind)) ∨
       (received (peerAt s (pkSrc b)) (pkSeq b) = false ∧
          withPacket s n kind go =
            match go (modPeer (dropRx s n) (pkSrc b) (fun x => markSeq x (pkSeq b))) (pkSrc b) (pkSeq b) port (pkBody b) with
            | .next t => .next (answerMarkers t (pkSrc b))
            | o => o)) := by
  unfold withPacket
  cases h : rxAt? s n kind with
  | none => exact .inl ⟨rfl, rfl⟩
  | some x =>
    obtain ⟨port, v, b⟩ := x
    right
    refine ⟨port, v, b, rfl, ?_⟩
    dsimp only
    cases hr : received (peerAt s (pkSrc b)) (pkSeq b)
    · exact .inr ⟨rfl, rfl⟩
    · exact .inl ⟨rfl, rfl⟩

/-- A message of the mesh that is given to its agent has left its last router, and no other that has left stands before it
(R372, R375). -/
theorem meshAt?_some (s : State) (n : Nat) (m : Message) (h : meshAt? s n = some m) :
    s.mesh[n]? = some m ∧ m.landed = true ∧ ∀ x ∈ s.mesh.take n, x.landed = false := by
  unfold meshAt? at h
  cases hm : s.mesh[n]? with
  | none => rw [hm] at h; cases h
  | some y =>
    rw [hm] at h
    dsimp only at h
    split at h
    · next hn =>
      cases h
      simp only [Bool.and_eq_true, Bool.not_eq_true', List.any_eq_false, Bool.not_eq_true] at hn
      exact ⟨rfl, hn⟩
    · cases h

end Sys2Proof.Machine
end

