-- ==== Sys2Proof/Laws/PerInstr.lean ====
section
/-! SUPPORT. What is proved once for each instruction: the word that encode gives it holds its own fields. An event
has no word. -/

set_option Elab.async false

namespace Sys2Proof.Laws.WordFields

/-- R66, R72: the fields of the word of an instruction, read back before the value checks, are the instruction's. -/
def Statement (i : Instr) : Prop := ∀ w, encode i = some w → decodeFields w = some i

theorem nop : Statement .nop := by
  intro w h; cases h; simp [decodeFields, decSys]

theorem halt : Statement .halt := by
  intro w h; cases h; simp [decodeFields, decSys]

theorem bkpt (z) : Statement (.bkpt z) := by
  intro w h; cases h; simp [decodeFields, decSys]

theorem trap (a) : Statement (.trap a) := by
  intro w h; cases h; simp [decodeFields, decSys]

theorem eret (a l) : Statement (.eret a l) := by
  intro w h; cases h; simp [decodeFields, decSys]

theorem iflush : Statement .iflush := by
  intro w h; cases h; simp [decodeFields, decSys]

theorem replay : Statement .replay := by
  intro w h; cases h; simp [decodeFields, decSys]

theorem yield : Statement .yield := by
  intro w h; cases h; simp [decodeFields, decSys]

theorem add (d a b) : Statement (.add d a b) := by
  intro w h; cases h; simp [decodeFields, decAlu]

theorem sub (d a b) : Statement (.sub d a b) := by
  intro w h; cases h; simp [decodeFields, decAlu]

theorem mul (d a b) : Statement (.mul d a b) := by
  intro w h; cases h; simp [decodeFields, decAlu]

theorem mulh (d a b) : Statement (.mulh d a b) := by
  intro w h; cases h; simp [decodeFields, decAlu]

theorem mulhu (d a b) : Statement (.mulhu d a b) := by
  intro w h; cases h; simp [decodeFields, decAlu]

theorem div (d a b) : Statement (.div d a b) := by
  intro w h; cases h; simp [decodeFields, decAlu]

theorem divu (d a b) : Statement (.divu d a b) := by
  intro w h; cases h; simp [decodeFields, decAlu]

theorem rem (d a b) : Statement (.rem d a b) := by
  intro w h; cases h; simp [decodeFields, decAlu]

theorem remu (d a b) : Statement (.remu d a b) := by
  intro w h; cases h; simp [decodeFields, decAlu]

theorem and (d a b) : Statement (.and d a b) := by
  intro w h; cases h; simp [decodeFields, decAlu]

theorem or (d a b) : Statement (.or d a b) := by
  intro w h; cases h; simp [decodeFields, decAlu]

theorem xor (d a b) : Statement (.xor d a b) := by
  intro w h; cases h; simp [decodeFields, decAlu]

theorem andn (d a b) : Statement (.andn d a b) := by
  intro w h; cases h; simp [decodeFields, decAlu]

theorem shl (d a b) : Statement (.shl d a b) := by
  intro w h; cases h; simp [decodeFields, decAlu]

theorem shr (d a b) : Statement (.shr d a b) := by
  intro w h; cases h; simp [decodeFields, decAlu]

theorem sra (d a b) : Statement (.sra d a b) := by
  intro w h; cases h; simp [decodeFields, decAlu]

theorem rol (d a b) : Statement (.rol d a b) := by
  intro w h; cases h; simp [decodeFields, decAlu]

theorem ror (d a b) : Statement (.ror d a b) := by
  intro w h; cases h; simp [decodeFields, decAlu]

theorem min (d a b) : Statement (.min d a b) := by
  intro w h; cases h; simp [decodeFields, decAlu]

theorem max (d a b) : Statement (.max d a b) := by
  intro w h; cases h; simp [decodeFields, decAlu]

theorem minu (d a b) : Statement (.minu d a b) := by
  intro w h; cases h; simp [decodeFields, decAlu]

theorem maxu (d a b) : Statement (.maxu d a b) := by
  intro w h; cases h; simp [decodeFields, decAlu]

theorem adds (d a b) : Statement (.adds d a b) := by
  intro w h; cases h; simp [decodeFields, decAlu]

theorem subs (d a b) : Statement (.subs d a b) := by
  intro w h; cases h; simp [decodeFields, decAlu]

theorem addus (d a b) : Statement (.addus d a b) := by
  intro w h; cases h; simp [decodeFields, decAlu]

theorem subus (d a b) : Statement (.subus d a b) := by
  intro w h; cases h; simp [decodeFields, decAlu]

theorem clz (d a) : Statement (.clz d a) := by
  intro w h; cases h; simp [decodeFields, decAlu]

theorem ctz (d a) : Statement (.ctz d a) := by
  intro w h; cases h; simp [decodeFields, decAlu]

theorem popc (d a) : Statement (.popc d a) := by
  intro w h; cases h; simp [decodeFields, decAlu]

theorem brev (d a) : Statement (.brev d a) := by
  intro w h; cases h; simp [decodeFields, decAlu]

theorem sextb (d a) : Statement (.sextb d a) := by
  intro w h; cases h; simp [decodeFields, decAlu]

theorem sexth (d a) : Statement (.sexth d a) := by
  intro w h; cases h; simp [decodeFields, decAlu]

theorem addi (d a i) : Statement (.addi d a i) := by
  intro w h; cases h; simp [decodeFields, decAddi]

theorem andi (d a i) : Statement (.andi d a i) := by
  intro w h; cases h; simp [decodeFields, decAndi]

theorem ori (d a i) : Statement (.ori d a i) := by
  intro w h; cases h; simp [decodeFields, decOri]

theorem xori (d a i) : Statement (.xori d a i) := by
  intro w h; cases h; simp [decodeFields, decXori]

theorem shli (d a c) : Statement (.shli d a c) := by
  intro w h; cases h; simp [decodeFields, decShi]

theorem shri (d a c) : Statement (.shri d a c) := by
  intro w h; cases h; simp [decodeFields, decShi]

theorem srai (d a c) : Statement (.srai d a c) := by
  intro w h; cases h; simp [decodeFields, decShi]

theorem lui (d i) : Statement (.lui d i) := by
  intro w h; cases h; simp [decodeFields, decLui]

theorem muli (d a i) : Statement (.muli d a i) := by
  intro w h; cases h; simp [decodeFields, decMuli]

theorem cmp (p c a b m) : Statement (.cmp p c a b m) := by
  intro w h; cases h; simp [decodeFields, decCmp]

theorem cmpi (p c a i) : Statement (.cmpi p c a i) := by
  intro w h; cases h; simp [decodeFields, decCmpi]

theorem pand (d a b) : Statement (.pand d a b) := by
  intro w h; cases h; simp [decodeFields, decPlog]

theorem por (d a b) : Statement (.por d a b) := by
  intro w h; cases h; simp [decodeFields, decPlog]

theorem pxor (d a b) : Statement (.pxor d a b) := by
  intro w h; cases h; simp [decodeFields, decPlog]

theorem pandn (d a b) : Statement (.pandn d a b) := by
  intro w h; cases h; simp [decodeFields, decPlog]

theorem porn (d a b) : Statement (.porn d a b) := by
  intro w h; cases h; simp [decodeFields, decPlog]

theorem pnot (d a) : Statement (.pnot d a) := by
  intro w h; cases h; simp [decodeFields, decPlog]

theorem sel (d a b p) : Statement (.sel d a b p) := by
  intro w h; cases h
  obtain rfl | rfl | rfl | rfl | rfl | rfl | rfl | rfl :
      p = 0#3 ∨ p = 1#3 ∨ p = 2#3 ∨ p = 3#3 ∨ p = 4#3 ∨ p = 5#3 ∨ p = 6#3 ∨ p = 7#3 := by revert p; decide
  all_goals simp [decodeFields, decPlog]

theorem gadd (d a b) : Statement (.gadd d a b) := by
  intro w h; cases h; simp [decodeFields, decGalu]

theorem gsub (d a b) : Statement (.gsub d a b) := by
  intro w h; cases h; simp [decodeFields, decGalu]

theorem gmul (d a b) : Statement (.gmul d a b) := by
  intro w h; cases h; simp [decodeFields, decGalu]

theorem gand (d a b) : Statement (.gand d a b) := by
  intro w h; cases h; simp [decodeFields, decGalu]

theorem gor (d a b) : Statement (.gor d a b) := by
  intro w h; cases h; simp [decodeFields, decGalu]

theorem gxor (d a b) : Statement (.gxor d a b) := by
  intro w h; cases h; simp [decodeFields, decGalu]

theorem gshl (d a b) : Statement (.gshl d a b) := by
  intro w h; cases h; simp [decodeFields, decGalu]

theorem gshr (d a b) : Statement (.gshr d a b) := by
  intro w h; cases h; simp [decodeFields, decGalu]

theorem gmov (d a) : Statement (.gmov d a) := by
  intro w h; cases h; simp [decodeFields, decGalu]

theorem gfrom (d a) : Statement (.gfrom d a) := by
  intro w h; cases h; simp [decodeFields, decGalu]

theorem gaddi (d a i) : Statement (.gaddi d a i) := by
  intro w h; cases h; simp [decodeFields, decGaddi]

theorem gli (d i) : Statement (.gli d i) := by
  intro w h; cases h; simp [decodeFields, decGli]

theorem addw (d a b) : Statement (.addw d a b) := by
  intro w h; cases h; simp [decodeFields, decWalu]

theorem subw (d a b) : Statement (.subw d a b) := by
  intro w h; cases h; simp [decodeFields, decWalu]

theorem mulw (d a b) : Statement (.mulw d a b) := by
  intro w h; cases h; simp [decodeFields, decWalu]

theorem shlw (d a b) : Statement (.shlw d a b) := by
  intro w h; cases h; simp [decodeFields, decWalu]

theorem shrw (d a b) : Statement (.shrw d a b) := by
  intro w h; cases h; simp [decodeFields, decWalu]

theorem movg (d a) : Statement (.movg d a) := by
  intro w h; cases h; simp [decodeFields, decWalu]

theorem voteAny (d a) : Statement (.voteAny d a) := by
  intro w h; cases h; simp [decodeFields, decXstr]

theorem voteAll (d a) : Statement (.voteAll d a) := by
  intro w h; cases h; simp [decodeFields, decXstr]

theorem voteBal (d a) : Statement (.voteBal d a) := by
  intro w h; cases h; simp [decodeFields, decXstr]

theorem shflIdx (d a b) : Statement (.shflIdx d a b) := by
  intro w h; cases h; simp [decodeFields, decXstr]

theorem shflUp (d a b) : Statement (.shflUp d a b) := by
  intro w h; cases h; simp [decodeFields, decXstr]

theorem shflDn (d a b) : Statement (.shflDn d a b) := by
  intro w h; cases h; simp [decodeFields, decXstr]

theorem shflXor (d a b) : Statement (.shflXor d a b) := by
  intro w h; cases h; simp [decodeFields, decXstr]

theorem redAdd (d a) : Statement (.redAdd d a) := by
  intro w h; cases h; simp [decodeFields, decXstr]

theorem redMin (d a) : Statement (.redMin d a) := by
  intro w h; cases h; simp [decodeFields, decXstr]

theorem redMax (d a) : Statement (.redMax d a) := by
  intro w h; cases h; simp [decodeFields, decXstr]

theorem matchLanes (d a) : Statement (.matchLanes d a) := by
  intro w h; cases h; simp [decodeFields, decXstr]

theorem actv (d) : Statement (.actv d) := by
  intro w h; cases h; simp [decodeFields, decXstr]

theorem fadd (d a b) : Statement (.fadd d a b) := by
  intro w h; cases h; simp [decodeFields, decFalu]

theorem fsub (d a b) : Statement (.fsub d a b) := by
  intro w h; cases h; simp [decodeFields, decFalu]

theorem fmul (d a b) : Statement (.fmul d a b) := by
  intro w h; cases h; simp [decodeFields, decFalu]

theorem fmin (d a b) : Statement (.fmin d a b) := by
  intro w h; cases h; simp [decodeFields, decFalu]

theorem fmax (d a b) : Statement (.fmax d a b) := by
  intro w h; cases h; simp [decodeFields, decFalu]

theorem fabs (d a) : Statement (.fabs d a) := by
  intro w h; cases h; simp [decodeFields, decFalu]

theorem fneg (d a) : Statement (.fneg d a) := by
  intro w h; cases h; simp [decodeFields, decFalu]

theorem frcp (d a) : Statement (.frcp d a) := by
  intro w h; cases h; simp [decodeFields, decFalu]

theorem frsq (d a) : Statement (.frsq d a) := by
  intro w h; cases h; simp [decodeFields, decFalu]

theorem fsqrt (d a) : Statement (.fsqrt d a) := by
  intro w h; cases h; simp [decodeFields, decFalu]

theorem fexp2 (d a) : Statement (.fexp2 d a) := by
  intro w h; cases h; simp [decodeFields, decFalu]

theorem flog2 (d a) : Statement (.flog2 d a) := by
  intro w h; cases h; simp [decodeFields, decFalu]

theorem ffma (d a b c m) : Statement (.ffma d a b c m) := by
  intro w h; cases h; simp [decodeFields, decFfma]

theorem fcmp (p c a b m) : Statement (.fcmp p c a b m) := by
  intro w h; cases h; simp [decodeFields, decFcmp]

theorem fcvt (d a r s1 f g) : Statement (.fcvt d a r s1 f g) := by
  intro w h; cases h; simp [decodeFields, decFcvt]

theorem fcvtTrap (d a r s1 f g) : Statement (.fcvtTrap d a r s1 f g) := by
  intro w h; cases h; simp [decodeFields, decFcvt]

theorem hadd2 (d a b f) : Statement (.hadd2 d a b f) := by
  intro w h; cases h
  obtain rfl | rfl : f = 0#1 ∨ f = 1#1 := by revert f; decide
  all_goals simp [decodeFields, decHalu]

theorem hsub2 (d a b f) : Statement (.hsub2 d a b f) := by
  intro w h; cases h
  obtain rfl | rfl : f = 0#1 ∨ f = 1#1 := by revert f; decide
  all_goals simp [decodeFields, decHalu]

theorem hmul2 (d a b f) : Statement (.hmul2 d a b f) := by
  intro w h; cases h
  obtain rfl | rfl : f = 0#1 ∨ f = 1#1 := by revert f; decide
  all_goals simp [decodeFields, decHalu]

theorem hmin2 (d a b f) : Statement (.hmin2 d a b f) := by
  intro w h; cases h
  obtain rfl | rfl : f = 0#1 ∨ f = 1#1 := by revert f; decide
  all_goals simp [decodeFields, decHalu]

theorem hmax2 (d a b f) : Statement (.hmax2 d a b f) := by
  intro w h; cases h
  obtain rfl | rfl : f = 0#1 ∨ f = 1#1 := by revert f; decide
  all_goals simp [decodeFields, decHalu]

theorem hfma2 (d a b c m) : Statement (.hfma2 d a b c m) := by
  intro w h; cases h; simp [decodeFields, decHfma2]

theorem idp4 (d a b c m) : Statement (.idp4 d a b c m) := by
  intro w h; cases h; simp [decodeFields, decIdp4]

theorem bra (n p o) : Statement (.bra n p o) := by
  intro w h; cases h; simp [decodeFields, decBra]

theorem jmp (o) : Statement (.jmp o) := by
  intro w h; cases h; simp [decodeFields, decJmp]

theorem jal (o) : Statement (.jal o) := by
  intro w h; cases h; simp [decodeFields, decJal]

theorem jr (a) : Statement (.jr a) := by
  intro w h; cases h; simp [decodeFields, decJr]

theorem jalr (d a) : Statement (.jalr d a) := by
  intro w h; cases h; simp [decodeFields, decJr]

theorem jrG (a) : Statement (.jrG a) := by
  intro w h; cases h; simp [decodeFields, decJr]

theorem jalrG (d a) : Statement (.jalrG d a) := by
  intro w h; cases h; simp [decodeFields, decJr]

theorem jarm (j i) : Statement (.jarm j i) := by
  intro w h; cases h; simp [decodeFields, decJoinop]

theorem jset (j a) : Statement (.jset j a) := by
  intro w h; cases h; simp [decodeFields, decJoinop]

theorem jget (j d) : Statement (.jget j d) := by
  intro w h; cases h; simp [decodeFields, decJoinop]

theorem join (j) : Statement (.join j) := by
  intro w h; cases h; simp [decodeFields, decJoinop]

theorem fork (a o) : Statement (.fork a o) := by
  intro w h; cases h; simp [decodeFields, decTaskop]

theorem fjoin (a) : Statement (.fjoin a) := by
  intro w h; cases h; simp [decodeFields, decTaskop]

theorem exit : Statement .exit := by
  intro w h; cases h; simp [decodeFields, decExit]

theorem monw (g x i) : Statement (.monw g x i) := by
  intro w h; cases h; simp [decodeFields, decMonw]

theorem ld (d g x s1 z i) : Statement (.ld d g x s1 z i) := by
  intro w h; cases h; simp [decodeFields, decLd]

theorem st (d g x s1 z i) : Statement (.st d g x s1 z i) := by
  intro w h; cases h; simp [decodeFields, decSt]

theorem llk (d g x s1 z i) : Statement (.llk d g x s1 z i) := by
  intro w h; cases h; simp [decodeFields, decLlk]

theorem sul (d g x s1 z i) : Statement (.sul d g x s1 z i) := by
  intro w h; cases h; simp [decodeFields, decSul]

theorem atomAdd (d g x f) : Statement (.atomAdd d g x f) := by
  intro w h; cases h; simp [decodeFields, decAtom]

theorem atomMin (d g x f) : Statement (.atomMin d g x f) := by
  intro w h; cases h; simp [decodeFields, decAtom]

theorem atomMax (d g x f) : Statement (.atomMax d g x f) := by
  intro w h; cases h; simp [decodeFields, decAtom]

theorem atomMinu (d g x f) : Statement (.atomMinu d g x f) := by
  intro w h; cases h; simp [decodeFields, decAtom]

theorem atomMaxu (d g x f) : Statement (.atomMaxu d g x f) := by
  intro w h; cases h; simp [decodeFields, decAtom]

theorem atomAnd (d g x f) : Statement (.atomAnd d g x f) := by
  intro w h; cases h; simp [decodeFields, decAtom]

theorem atomOr (d g x f) : Statement (.atomOr d g x f) := by
  intro w h; cases h; simp [decodeFields, decAtom]

theorem atomXor (d g x f) : Statement (.atomXor d g x f) := by
  intro w h; cases h; simp [decodeFields, decAtom]

theorem atomXchg (d g x f) : Statement (.atomXchg d g x f) := by
  intro w h; cases h; simp [decodeFields, decAtom]

theorem atomCas (d g x f) : Statement (.atomCas d g x f) := by
  intro w h; cases h; simp [decodeFields, decAtom]

theorem atomFadd (d g x f) : Statement (.atomFadd d g x f) := by
  intro w h; cases h; simp [decodeFields, decAtom]

theorem tlook (d a) : Statement (.tlook d a) := by
  intro w h; cases h; simp [decodeFields, decTag]

theorem tins (d a b) : Statement (.tins d a b) := by
  intro w h; cases h; simp [decodeFields, decTag]

theorem tdel (d a) : Statement (.tdel d a) := by
  intro w h; cases h; simp [decodeFields, decTag]

theorem tclr : Statement .tclr := by
  intro w h; cases h; simp [decodeFields, decTag]

theorem ropLd (d g x s1) : Statement (.ropLd d g x s1) := by
  intro w h; cases h; simp [decodeFields, decRop]

theorem ropSt (d g x s1) : Statement (.ropSt d g x s1) := by
  intro w h; cases h; simp [decodeFields, decRop]

theorem ropAdd (d g x s1) : Statement (.ropAdd d g x s1) := by
  intro w h; cases h; simp [decodeFields, decRop]

theorem ropCas2 (d g x) : Statement (.ropCas2 d g x) := by
  intro w h; cases h; simp [decodeFields, decRop]

theorem ropEnq (d g x) : Statement (.ropEnq d g x) := by
  intro w h; cases h; simp [decodeFields, decRop]

theorem ropChase (d g x h) : Statement (.ropChase d g x h) := by
  intro w h; cases h; simp [decodeFields, decRop]

theorem phase (k s1) : Statement (.phase k s1) := by
  intro w h; cases h; simp [decodeFields, decPhase]

theorem barArrive (z) : Statement (.barArrive z) := by
  intro w h; cases h; simp [decodeFields, decBar]

theorem barWait (z) : Statement (.barWait z) := by
  intro w h; cases h; simp [decodeFields, decBar]

theorem barSync (z) : Statement (.barSync z) := by
  intro w h; cases h; simp [decodeFields, decBar]

theorem barArriveCl (z) : Statement (.barArriveCl z) := by
  intro w h; cases h; simp [decodeFields, decBar]

theorem barWaitCl (z) : Statement (.barWaitCl z) := by
  intro w h; cases h; simp [decodeFields, decBar]

theorem barSyncCl (z) : Statement (.barSyncCl z) := by
  intro w h; cases h; simp [decodeFields, decBar]

theorem qfence (a) : Statement (.qfence a) := by
  intro w h; cases h; simp [decodeFields, decQfence]

theorem cpy (h a b k) : Statement (.cpy h a b k) := by
  intro w h; cases h; simp [decodeFields, decCpy]

theorem twait (a k) : Statement (.twait a k) := by
  intro w h; cases h; simp [decodeFields, decTok]

theorem tread (d k) : Statement (.tread d k) := by
  intro w h; cases h; simp [decodeFields, decTok]

theorem tset (a k) : Statement (.tset a k) := by
  intro w h; cases h; simp [decodeFields, decTok]

theorem tadd (a k) : Statement (.tadd a k) := by
  intro w h; cases h; simp [decodeFields, decTok]

theorem hset (h a w) : Statement (.hset h a w) := by
  intro w h; cases h; simp [decodeFields, decHset]

theorem mclaim (d) : Statement (.mclaim d) := by
  intro w h; cases h; simp [decodeFields, decMtx]

theorem mrelease (a) : Statement (.mrelease a) := by
  intro w h; cases h; simp [decodeFields, decMtx]

theorem mpost (a b k) : Statement (.mpost a b k) := by
  intro w h; cases h; simp [decodeFields, decMtx]

theorem pcset (a b) : Statement (.pcset a b) := by
  intro w h; cases h; simp [decodeFields, decMtx]

theorem pcread (d a) : Statement (.pcread d a) := by
  intro w h; cases h; simp [decodeFields, decMtx]

theorem pcwait (a) : Statement (.pcwait a) := by
  intro w h; cases h; simp [decodeFields, decMtx]

theorem send (a b w) : Statement (.send a b w) := by
  intro w h; cases h; simp [decodeFields, decSend]

theorem sendC (a b w) : Statement (.sendC a b w) := by
  intro w h; cases h; simp [decodeFields, decSend]

theorem sendNb (p a b w) : Statement (.sendNb p a b w) := by
  intro w h; cases h; simp [decodeFields, decSend]

theorem reply (b w) : Statement (.reply b w) := by
  intro w h; cases h; simp [decodeFields, decMsg]

theorem refuse : Statement .refuse := by
  intro w h; cases h; simp [decodeFields, decMsg]

theorem mbind (d a b) : Statement (.mbind d a b) := by
  intro w h; cases h; simp [decodeFields, decMsg]

theorem munbind (d a) : Statement (.munbind d a) := by
  intro w h; cases h; simp [decodeFields, decMsg]

theorem mqstat (d a) : Statement (.mqstat d a) := by
  intro w h; cases h; simp [decodeFields, decMsg]

theorem launch (a k) : Statement (.launch a k) := by
  intro w h; cases h; simp [decodeFields, decMsg]

theorem map (d a b) : Statement (.map d a b) := by
  intro w h; cases h; simp [decodeFields, decMapop]

theorem grant (d a b) : Statement (.grant d a b) := by
  intro w h; cases h; simp [decodeFields, decMapop]

theorem unmap (d a) : Statement (.unmap d a) := by
  intro w h; cases h; simp [decodeFields, decMapop]

theorem mquery (d a) : Statement (.mquery d a) := by
  intro w h; cases h; simp [decodeFields, decMapop]

theorem cinv (d a b) : Statement (.cinv d a b) := by
  intro w h; cases h; simp [decodeFields, decCinv]

theorem slotcall (d a) : Statement (.slotcall d a) := by
  intro w h; cases h; simp [decodeFields, decSlotcall]

theorem slotcallNb (d a) : Statement (.slotcallNb d a) := by
  intro w h; cases h; simp [decodeFields, decSlotcall]

theorem csrr (d c) : Statement (.csrr d c) := by
  intro w h; cases h; simp [decodeFields, decCsr]

theorem csrw (a c) : Statement (.csrw a c) := by
  intro w h; cases h; simp [decodeFields, decCsr]

theorem csrs (d a c) : Statement (.csrs d a c) := by
  intro w h; cases h; simp [decodeFields, decCsr]

theorem csrc (d a c) : Statement (.csrc d a c) := by
  intro w h; cases h; simp [decodeFields, decCsr]

theorem plwr (a b) : Statement (.plwr a b) := by
  intro w h; cases h; simp [decodeFields, decPleach]

theorem plrd (d a) : Statement (.plrd d a) := by
  intro w h; cases h; simp [decodeFields, decPleach]

theorem plgo : Statement .plgo := by
  intro w h; cases h; simp [decodeFields, decPleach]

theorem plhalt : Statement .plhalt := by
  intro w h; cases h; simp [decodeFields, decPleach]

theorem plstat (d a) : Statement (.plstat d a) := by
  intro w h; cases h; simp [decodeFields, decPleach]

theorem stasha (a b) : Statement (.stasha a b) := by
  intro w h; cases h; simp [decodeFields, decPleach]

theorem stashf (a b) : Statement (.stashf a b) := by
  intro w h; cases h; simp [decodeFields, decPleach]

theorem slotgive (a b) : Statement (.slotgive a b) := by
  intro w h; cases h; simp [decodeFields, decPleach]

theorem messageArrival (n) : Statement (.messageArrival n) := by intro w h; cases h

theorem mailboxDequeue (core) : Statement (.mailboxDequeue core) := by intro w h; cases h

theorem taskAdmission (core) : Statement (.taskAdmission core) := by intro w h; cases h

theorem taskEnd (task) : Statement (.taskEnd task) := by intro w h; cases h

theorem launchPlacement (cluster) : Statement (.launchPlacement cluster) := by intro w h; cases h

theorem workSteal (core) : Statement (.workSteal core) := by intro w h; cases h

theorem sendQueueInject (core) : Statement (.sendQueueInject core) := by intro w h; cases h

theorem sendqTimeout (group) : Statement (.sendqTimeout group) := by intro w h; cases h

theorem unbound (core ctx slot) : Statement (.unbound core ctx slot) := by intro w h; cases h

theorem overflowRefill (core ctx) : Statement (.overflowRefill core ctx) := by intro w h; cases h

theorem monitorTimeout (strand) : Statement (.monitorTimeout strand) := by intro w h; cases h

theorem pagereq (vf queue) : Statement (.pagereq vf queue) := by intro w h; cases h

theorem coreReplay (core ctx) : Statement (.coreReplay core ctx) := by intro w h; cases h

theorem coppice (core) : Statement (.coppice core) := by intro w h; cases h

theorem reAdmission (cluster) : Statement (.reAdmission cluster) := by intro w h; cases h

theorem migrationProtect : Statement .migrationProtect := by intro w h; cases h

theorem migrationSwitch : Statement .migrationSwitch := by intro w h; cases h

theorem migrationRelease : Statement .migrationRelease := by intro w h; cases h

theorem invalidation : Statement .invalidation := by intro w h; cases h

theorem shootdownAck (cache) : Statement (.shootdownAck cache) := by intro w h; cases h

theorem reclaimEnd : Statement .reclaimEnd := by intro w h; cases h

theorem copyRun (cluster queue) : Statement (.copyRun cluster queue) := by intro w h; cases h

theorem copyComplete (cluster queue) : Statement (.copyComplete cluster queue) := by intro w h; cases h

theorem recordIssue (cluster) : Statement (.recordIssue cluster) := by intro w h; cases h

theorem wload (engine) : Statement (.wload engine) := by intro w h; cases h

theorem swap (engine) : Statement (.swap engine) := by intro w h; cases h

theorem mstream (engine) : Statement (.mstream engine) := by intro w h; cases h

theorem gemm (engine) : Statement (.gemm engine) := by intro w h; cases h

theorem drain (engine) : Statement (.drain engine) := by intro w h; cases h

theorem recordComplete (engine) : Statement (.recordComplete engine) := by intro w h; cases h

theorem residentSwitch (cluster) : Statement (.residentSwitch cluster) := by intro w h; cases h

theorem sliceEnd (ctx) : Statement (.sliceEnd ctx) := by intro w h; cases h

theorem preemptionRequest (ctx clusters) : Statement (.preemptionRequest ctx clusters) := by intro w h; cases h

theorem budgetExpiry (task) : Statement (.budgetExpiry task) := by intro w h; cases h

theorem quiescentSave (task) : Statement (.quiescentSave task) := by intro w h; cases h

theorem contextSave (ctx) : Statement (.contextSave ctx) := by intro w h; cases h

theorem contextRestore (image clusters) : Statement (.contextRestore image clusters) := by intro w h; cases h

theorem determSwitch : Statement .determSwitch := by intro w h; cases h

theorem pleachWalkCycle : Statement .pleachWalkCycle := by intro w h; cases h

theorem pleachEntryEnd (entry) : Statement (.pleachEntryEnd entry) := by intro w h; cases h

theorem slotgiveMsg (n) : Statement (.slotgiveMsg n) := by intro w h; cases h

theorem arrive (n) : Statement (.arrive n) := by intro w h; cases h

theorem plctlClr : Statement .plctlClr := by intro w h; cases h

theorem msg (n) : Statement (.msg n) := by intro w h; cases h

theorem write (n) : Statement (.write n) := by intro w h; cases h

theorem read (n) : Statement (.read n) := by intro w h; cases h

theorem rdata (n) : Statement (.rdata n) := by intro w h; cases h

theorem rop (n) : Statement (.rop n) := by intro w h; cases h

theorem roprep (n) : Statement (.roprep n) := by intro w h; cases h

theorem xreq (n) : Statement (.xreq n) := by intro w h; cases h

theorem xrep (n) : Statement (.xrep n) := by intro w h; cases h

theorem inval (n) : Statement (.inval n) := by intro w h; cases h

theorem invack (n) : Statement (.invack n) := by intro w h; cases h

theorem marker (n) : Statement (.marker n) := by intro w h; cases h

theorem markack (n) : Statement (.markack n) := by intro w h; cases h

theorem eack (n) : Statement (.eack n) := by intro w h; cases h

theorem e2eRetransmit (peer seq) : Statement (.e2eRetransmit peer seq) := by intro w h; cases h

theorem peerDisconnect (peer) : Statement (.peerDisconnect peer) := by intro w h; cases h

theorem rreq (port) : Statement (.rreq port) := by intro w h; cases h

theorem linkReplayTimeout (port) : Statement (.linkReplayTimeout port) := by intro w h; cases h

theorem lastingLinkError (port) : Statement (.lastingLinkError port) := by intro w h; cases h

theorem lossOfLight (port transmit waves) : Statement (.lossOfLight port transmit waves) := by intro w h; cases h

theorem wavelengthReturn (port transmit waves) : Statement (.wavelengthReturn port transmit waves) := by intro w h; cases h

theorem restripeRestart (port transmit) : Statement (.restripeRestart port transmit) := by intro w h; cases h

theorem hostSend (fn) : Statement (.hostSend fn) := by intro w h; cases h

theorem hostMap (fn) : Statement (.hostMap fn) := by intro w h; cases h

theorem hostGrant (fn) : Statement (.hostGrant fn) := by intro w h; cases h

theorem hostUnmap (fn) : Statement (.hostUnmap fn) := by intro w h; cases h

theorem hostMquery (fn) : Statement (.hostMquery fn) := by intro w h; cases h

theorem reserve (fn) : Statement (.reserve fn) := by intro w h; cases h

theorem migrate (fn) : Statement (.migrate fn) := by intro w h; cases h

theorem hostReplay (fn) : Statement (.hostReplay fn) := by intro w h; cases h

theorem partcreate (fn) : Statement (.partcreate fn) := by intro w h; cases h

theorem partdestroy (fn) : Statement (.partdestroy fn) := by intro w h; cases h

theorem ctxcreate (fn) : Statement (.ctxcreate fn) := by intro w h; cases h

theorem ctxdestroy (fn) : Statement (.ctxdestroy fn) := by intro w h; cases h

theorem place (fn) : Statement (.place fn) := by intro w h; cases h

theorem save (fn) : Statement (.save fn) := by intro w h; cases h

theorem capset (fn) : Statement (.capset fn) := by intro w h; cases h

theorem plassign (fn) : Statement (.plassign fn) := by intro w h; cases h

theorem time (n) : Statement (.time n) := by intro w h; cases h

theorem alloc (n) : Statement (.alloc n) := by intro w h; cases h

theorem free (n) : Statement (.free n) := by intro w h; cases h

theorem log (n) : Statement (.log n) := by intro w h; cases h

theorem signal (n) : Statement (.signal n) := by intro w h; cases h

theorem wake (n) : Statement (.wake n) := by intro w h; cases h

theorem mapproxy (n) : Statement (.mapproxy n) := by intro w h; cases h

theorem yieldslice (n) : Statement (.yieldslice n) := by intro w h; cases h

theorem features (n) : Statement (.features n) := by intro w h; cases h

theorem claim (master) : Statement (.claim master) := by intro w h; cases h

theorem release (master) : Statement (.release master) := by intro w h; cases h

theorem handover (master successor) : Statement (.handover master successor) := by intro w h; cases h

theorem accept (master) : Statement (.accept master) := by intro w h; cases h

theorem handoverLapse : Statement .handoverLapse := by intro w h; cases h

theorem transportReset (master) : Statement (.transportReset master) := by intro w h; cases h

theorem negotiate (master) : Statement (.negotiate master) := by intro w h; cases h

theorem registerWrite (space offset value) : Statement (.registerWrite space offset value) := by intro w h; cases h

theorem flr (fn) : Statement (.flr fn) := by intro w h; cases h

theorem moduleReset : Statement .moduleReset := by intro w h; cases h

theorem boot : Statement .boot := by intro w h; cases h

theorem powerGating (watts celsius) : Statement (.powerGating watts celsius) := by intro w h; cases h

theorem thermalShutdown (celsius) : Statement (.thermalShutdown celsius) := by intro w h; cases h

theorem getVersion : Statement .getVersion := by intro w h; cases h

theorem getCapabilities : Statement .getCapabilities := by intro w h; cases h

theorem negotiateAlgorithms (slhDsaShake256f) : Statement (.negotiateAlgorithms slhDsaShake256f) := by intro w h; cases h

theorem getDigests : Statement .getDigests := by intro w h; cases h

theorem getCertificate (slot offset length) : Statement (.getCertificate slot offset length) := by intro w h; cases h

theorem challenge (nonce) : Statement (.challenge nonce) := by intro w h; cases h

theorem getMeasurements (index) : Statement (.getMeasurements index) := by intro w h; cases h

theorem linkFlit (port bytes parity) : Statement (.linkFlit port bytes parity) := by intro w h; cases h

theorem rreqResend (port) : Statement (.rreqResend port) := by intro w h; cases h

end Sys2Proof.Laws.WordFields
end

