-- ==== Sys2Proof/Tests/Slice0.lean ====
section
/-! SUPPORT. Tests of the model: ill-formed terms, words written out from the spec's encodings, single steps, and for every
statement with hypotheses a state and operands that meet them. -/

set_option Elab.async false

open Sys2Proof Sys2Proof.Machine

namespace Sys2Proof.Tests

/-! ## Ill-formed terms: each value check of R82 refuses one -/

theorem test_wf_eret_level : (Instr.eret 3 2).wf = false := by decide
theorem test_wf_cmp_condition : (Instr.cmp 0 10 1 2 0).wf = false := by decide
theorem test_wf_cmp_set_with_bits : (Instr.cmp 0 0 1 2 0b000001).wf = false := by decide
theorem test_wf_cmp_combination : (Instr.cmp 0 0 1 2 0b110000).wf = false := by decide
theorem test_wf_cmpi_condition : (Instr.cmpi 0 10 1 2).wf = false := by decide
theorem test_wf_fcmp_condition : (Instr.fcmp 0 8 1 2 0).wf = false := by decide
theorem test_wf_fcmp_combination : (Instr.fcmp 0 0 1 2 0b110000).wf = false := by decide
theorem test_wf_fcvt_pair : (Instr.fcvt 1 2 0 0 0 0).wf = false := by decide
theorem test_wf_fcvt_sat : (Instr.fcvt 1 2 0 1 1 0).wf = false := by decide
theorem test_wf_fcvtTrap_pair : (Instr.fcvtTrap 1 2 0 0 5 6).wf = false := by decide
theorem test_wf_ld_space : (Instr.ld 4 8 0 3 4 0).wf = false := by decide
theorem test_wf_ld_size : (Instr.ld 4 8 0 0 7 0).wf = false := by decide
theorem test_wf_ld_pair : (Instr.ld 5 8 0 0 5 0).wf = false := by decide
theorem test_wf_ld_quad : (Instr.ld 6 8 0 0 6 0).wf = false := by decide
theorem test_wf_st_space : (Instr.st 4 8 0 3 4 0).wf = false := by decide
theorem test_wf_st_size : (Instr.st 4 8 0 0 1 0).wf = false := by decide
theorem test_wf_st_pair : (Instr.st 5 8 0 0 5 0).wf = false := by decide
theorem test_wf_llk_space : (Instr.llk 4 8 0 0 4 0).wf = false := by decide
theorem test_wf_llk_size : (Instr.llk 4 8 0 1 7 0).wf = false := by decide
theorem test_wf_sul_space : (Instr.sul 4 8 0 3 4 0).wf = false := by decide
theorem test_wf_sul_size : (Instr.sul 4 8 0 1 3 0).wf = false := by decide
theorem test_wf_atomAdd_pair : (Instr.atomAdd 5 8 0 0b100).wf = false := by decide
theorem test_wf_atomMin_pair : (Instr.atomMin 5 8 0 0b100).wf = false := by decide
theorem test_wf_atomMax_pair : (Instr.atomMax 5 8 0 0b100).wf = false := by decide
theorem test_wf_atomMinu_pair : (Instr.atomMinu 5 8 0 0b100).wf = false := by decide
theorem test_wf_atomMaxu_pair : (Instr.atomMaxu 5 8 0 0b100).wf = false := by decide
theorem test_wf_atomAnd_pair : (Instr.atomAnd 5 8 0 0b100).wf = false := by decide
theorem test_wf_atomOr_pair : (Instr.atomOr 5 8 0 0b100).wf = false := by decide
theorem test_wf_atomXor_pair : (Instr.atomXor 5 8 0 0b100).wf = false := by decide
theorem test_wf_atomXchg_pair : (Instr.atomXchg 5 8 0 0b100).wf = false := by decide
theorem test_wf_atomCas_pair : (Instr.atomCas 5 8 0 0).wf = false := by decide
theorem test_wf_atomCas_quad : (Instr.atomCas 6 8 0 0b100).wf = false := by decide
theorem test_wf_atomFadd_width : (Instr.atomFadd 4 8 0 0b100).wf = false := by decide
theorem test_wf_ropLd_size : (Instr.ropLd 4 8 0 3).wf = false := by decide
theorem test_wf_ropLd_quad : (Instr.ropLd 6 8 0 2).wf = false := by decide
theorem test_wf_ropSt_pair : (Instr.ropSt 5 8 0 1).wf = false := by decide
theorem test_wf_ropAdd_pair : (Instr.ropAdd 5 8 0 1).wf = false := by decide
theorem test_wf_phase_kind : (Instr.phase 3 0).wf = false := by decide
theorem test_wf_phase_scope : (Instr.phase 0 3).wf = false := by decide
theorem test_wf_send_length : (Instr.send 4 2 13).wf = false := by decide
theorem test_wf_send_past_g31 : (Instr.send 4 15 1).wf = false := by decide
theorem test_wf_sendC_past_g31 : (Instr.sendC 4 15 1).wf = false := by decide
theorem test_wf_sendNb_length : (Instr.sendNb 1 4 2 13).wf = false := by decide
theorem test_wf_reply_past_g31 : (Instr.reply 10 12).wf = false := by decide

/-! ## Words written out bit by bit from the formats of R66 and the codes of R72 to R81 -/

theorem test_words_sys :
    decodeTableWord 32 0b000000_00000000000000000000000001 = some (.nop) ∧
    decodeTableWord 32 0b000000_00000000000000000000000010 = some (.halt) ∧
    decodeTableWord 32 0b000000_0000000000000000_1001_000011 = some (.bkpt 9) ∧
    decodeTableWord 32 0b000000_000000_01011_000000000000100 = some (.trap 11) ∧
    decodeTableWord 32 0b000000_000000_01011_0000000_01_000101 = some (.eret 11 1) ∧
    decodeTableWord 32 0b000000_00000000000000000000000110 = some (.iflush) ∧
    decodeTableWord 32 0b000000_00000000000000000000000111 = some (.replay) ∧
    decodeTableWord 32 0b000000_00000000000000000000001000 = some (.yield) := by decide +kernel

theorem test_words_alu_a :
    decodeTableWord 32 0b000001_010011_101010_000101_00000001 = some (.add 19 42 5) ∧
    decodeTableWord 32 0b000001_010011_101010_000101_00000010 = some (.sub 19 42 5) ∧
    decodeTableWord 32 0b000001_010011_101010_000101_00000011 = some (.mul 19 42 5) ∧
    decodeTableWord 32 0b000001_010011_101010_000101_00000100 = some (.mulh 19 42 5) ∧
    decodeTableWord 32 0b000001_010011_101010_000101_00000101 = some (.mulhu 19 42 5) ∧
    decodeTableWord 32 0b000001_010011_101010_000101_00000110 = some (.div 19 42 5) ∧
    decodeTableWord 32 0b000001_010011_101010_000101_00000111 = some (.divu 19 42 5) ∧
    decodeTableWord 32 0b000001_010011_101010_000101_00001000 = some (.rem 19 42 5) ∧
    decodeTableWord 32 0b000001_010011_101010_000101_00001001 = some (.remu 19 42 5) ∧
    decodeTableWord 32 0b000001_010011_101010_000101_00001010 = some (.and 19 42 5) ∧
    decodeTableWord 32 0b000001_010011_101010_000101_00001011 = some (.or 19 42 5) ∧
    decodeTableWord 32 0b000001_010011_101010_000101_00001100 = some (.xor 19 42 5) ∧
    decodeTableWord 32 0b000001_010011_101010_000101_00001101 = some (.andn 19 42 5) ∧
    decodeTableWord 32 0b000001_010011_101010_000101_00001110 = some (.shl 19 42 5) ∧
    decodeTableWord 32 0b000001_010011_101010_000101_00001111 = some (.shr 19 42 5) ∧
    decodeTableWord 32 0b000001_010011_101010_000101_00010000 = some (.sra 19 42 5) := by decide +kernel

theorem test_words_alu_b :
    decodeTableWord 32 0b000001_010011_101010_000101_00010001 = some (.rol 19 42 5) ∧
    decodeTableWord 32 0b000001_010011_101010_000101_00010010 = some (.ror 19 42 5) ∧
    decodeTableWord 32 0b000001_010011_101010_000101_00010011 = some (.min 19 42 5) ∧
    decodeTableWord 32 0b000001_010011_101010_000101_00010100 = some (.max 19 42 5) ∧
    decodeTableWord 32 0b000001_010011_101010_000101_00010101 = some (.minu 19 42 5) ∧
    decodeTableWord 32 0b000001_010011_101010_000101_00010110 = some (.maxu 19 42 5) ∧
    decodeTableWord 32 0b000001_010011_101010_000101_00010111 = some (.adds 19 42 5) ∧
    decodeTableWord 32 0b000001_010011_101010_000101_00011000 = some (.subs 19 42 5) ∧
    decodeTableWord 32 0b000001_010011_101010_000101_00011001 = some (.addus 19 42 5) ∧
    decodeTableWord 32 0b000001_010011_101010_000101_00011010 = some (.subus 19 42 5) ∧
    decodeTableWord 32 0b000001_010011_101010_00000000011011 = some (.clz 19 42) ∧
    decodeTableWord 32 0b000001_010011_101010_00000000011100 = some (.ctz 19 42) ∧
    decodeTableWord 32 0b000001_010011_101010_00000000011101 = some (.popc 19 42) ∧
    decodeTableWord 32 0b000001_010011_101010_00000000011110 = some (.brev 19 42) ∧
    decodeTableWord 32 0b000001_010011_101010_00000000011111 = some (.sextb 19 42) ∧
    decodeTableWord 32 0b000001_010011_101010_00000000100000 = some (.sexth 19 42) := by decide +kernel

theorem test_words_addi :
    decodeTableWord 32 0b000010_010011_101010_10101001010011 = some (.addi 19 42 10835) := by decide +kernel

theorem test_words_andi :
    decodeTableWord 32 0b000011_010011_101010_10101001010011 = some (.andi 19 42 10835) := by decide +kernel

theorem test_words_ori :
    decodeTableWord 32 0b000100_010011_101010_10101001010011 = some (.ori 19 42 10835) := by decide +kernel

theorem test_words_xori :
    decodeTableWord 32 0b000101_010011_101010_10101001010011 = some (.xori 19 42 10835) := by decide +kernel

theorem test_words_shi :
    decodeTableWord 32 0b000110_010011_101010_000000000_01011 = some (.shli 19 42 11) ∧
    decodeTableWord 32 0b000110_010011_101010_010000000_01011 = some (.shri 19 42 11) ∧
    decodeTableWord 32 0b000110_010011_101010_100000000_01011 = some (.srai 19 42 11) := by decide +kernel

theorem test_words_lui :
    decodeTableWord 32 0b000111_010011_10011010001111000101 = some (.lui 19 631749) := by decide +kernel

theorem test_words_muli :
    decodeTableWord 32 0b001000_010011_101010_10101001010011 = some (.muli 19 42 10835) := by decide +kernel

theorem test_words_cmp :
    decodeTableWord 32 0b001001_101_0010_010011_101010_010011_0 = some (.cmp 5 2 19 42 19) := by decide +kernel

theorem test_words_cmpi :
    decodeTableWord 32 0b001010_101_0110_010011_1101001010011 = some (.cmpi 5 6 19 6739) := by decide +kernel

theorem test_words_plog :
    decodeTableWord 32 0b001011_000_101_000_010_000_110_00000001 = some (.pand 5 2 6) ∧
    decodeTableWord 32 0b001011_000_101_000_010_000_110_00000010 = some (.por 5 2 6) ∧
    decodeTableWord 32 0b001011_000_101_000_010_000_110_00000011 = some (.pxor 5 2 6) ∧
    decodeTableWord 32 0b001011_000_101_000_010_000_110_00000100 = some (.pandn 5 2 6) ∧
    decodeTableWord 32 0b001011_000_101_000_010_000_110_00000101 = some (.porn 5 2 6) ∧
    decodeTableWord 32 0b001011_000_101_000_010_00000000000110 = some (.pnot 5 2) ∧
    decodeTableWord 32 0b001011_010011_101010_000101_00001_101 = some (.sel 19 42 5 5) := by decide +kernel

theorem test_words_galu :
    decodeTableWord 32 0b001100_01011_10101_00110_00000000001 = some (.gadd 11 21 6) ∧
    decodeTableWord 32 0b001100_01011_10101_00110_00000000010 = some (.gsub 11 21 6) ∧
    decodeTableWord 32 0b001100_01011_10101_00110_00000000011 = some (.gmul 11 21 6) ∧
    decodeTableWord 32 0b001100_01011_10101_00110_00000000100 = some (.gand 11 21 6) ∧
    decodeTableWord 32 0b001100_01011_10101_00110_00000000101 = some (.gor 11 21 6) ∧
    decodeTableWord 32 0b001100_01011_10101_00110_00000000110 = some (.gxor 11 21 6) ∧
    decodeTableWord 32 0b001100_01011_10101_00110_00000000111 = some (.gshl 11 21 6) ∧
    decodeTableWord 32 0b001100_01011_10101_00110_00000001000 = some (.gshr 11 21 6) ∧
    decodeTableWord 32 0b001100_01011_10101_0000000000001001 = some (.gmov 11 21) ∧
    decodeTableWord 32 0b001100_01011_10101_0000000000001010 = some (.gfrom 11 21) := by decide +kernel

theorem test_words_gaddi :
    decodeTableWord 32 0b001101_01011_10101_1010010111000011 = some (.gaddi 11 21 42435) := by decide +kernel

theorem test_words_gli :
    decodeTableWord 32 0b001110_0_01011_10011010001111000101 = some (.gli 11 631749) := by decide +kernel

theorem test_words_walu :
    decodeTableWord 32 0b001111_01011_0_10101_0_00110_000000001 = some (.addw 11 21 6) ∧
    decodeTableWord 32 0b001111_01011_0_10101_0_00110_000000010 = some (.subw 11 21 6) ∧
    decodeTableWord 32 0b001111_01011_0_10101_0_00110_000000011 = some (.mulw 11 21 6) ∧
    decodeTableWord 32 0b001111_01011_0_10101_0_010011_00000100 = some (.shlw 11 21 19) ∧
    decodeTableWord 32 0b001111_01011_0_10101_0_010011_00000101 = some (.shrw 11 21 19) ∧
    decodeTableWord 32 0b001111_01011_00_10101_00000000000110 = some (.movg 11 21) := by decide +kernel

theorem test_words_xstr :
    decodeTableWord 32 0b010000_000_101_000_010_00000000000001 = some (.voteAny 5 2) ∧
    decodeTableWord 32 0b010000_000_101_000_010_00000000000010 = some (.voteAll 5 2) ∧
    decodeTableWord 32 0b010000_010011_000_101_00000000000011 = some (.voteBal 19 5) ∧
    decodeTableWord 32 0b010000_010011_101010_000101_00000100 = some (.shflIdx 19 42 5) ∧
    decodeTableWord 32 0b010000_010011_101010_000101_00000101 = some (.shflUp 19 42 5) ∧
    decodeTableWord 32 0b010000_010011_101010_000101_00000110 = some (.shflDn 19 42 5) ∧
    decodeTableWord 32 0b010000_010011_101010_000101_00000111 = some (.shflXor 19 42 5) ∧
    decodeTableWord 32 0b010000_010011_101010_00000000001000 = some (.redAdd 19 42) ∧
    decodeTableWord 32 0b010000_010011_101010_00000000001001 = some (.redMin 19 42) ∧
    decodeTableWord 32 0b010000_010011_101010_00000000001010 = some (.redMax 19 42) ∧
    decodeTableWord 32 0b010000_010011_101010_00000000001011 = some (.matchLanes 19 42) ∧
    decodeTableWord 32 0b010000_010011_00000000000000001100 = some (.actv 19) := by decide +kernel

theorem test_words_falu :
    decodeTableWord 32 0b010001_010011_101010_000101_00000001 = some (.fadd 19 42 5) ∧
    decodeTableWord 32 0b010001_010011_101010_000101_00000010 = some (.fsub 19 42 5) ∧
    decodeTableWord 32 0b010001_010011_101010_000101_00000011 = some (.fmul 19 42 5) ∧
    decodeTableWord 32 0b010001_010011_101010_000101_00000100 = some (.fmin 19 42 5) ∧
    decodeTableWord 32 0b010001_010011_101010_000101_00000101 = some (.fmax 19 42 5) ∧
    decodeTableWord 32 0b010001_010011_101010_00000000000110 = some (.fabs 19 42) ∧
    decodeTableWord 32 0b010001_010011_101010_00000000000111 = some (.fneg 19 42) ∧
    decodeTableWord 32 0b010001_010011_101010_00000000001000 = some (.frcp 19 42) ∧
    decodeTableWord 32 0b010001_010011_101010_00000000001001 = some (.frsq 19 42) ∧
    decodeTableWord 32 0b010001_010011_101010_00000000001010 = some (.fsqrt 19 42) ∧
    decodeTableWord 32 0b010001_010011_101010_00000000001011 = some (.fexp2 19 42) ∧
    decodeTableWord 32 0b010001_010011_101010_00000000001100 = some (.flog2 19 42) := by decide +kernel

theorem test_words_ffma :
    decodeTableWord 32 0b010010_010011_101010_000101_010011_01 = some (.ffma 19 42 5 19 1) := by decide +kernel

theorem test_words_fcmp :
    decodeTableWord 32 0b010011_101_0011_010011_101010_101010_0 = some (.fcmp 5 3 19 42 42) := by decide +kernel

theorem test_words_fcvt :
    decodeTableWord 32 0b010100_010011_101010_01_1_000_0011_0000 = some (.fcvt 19 42 1 1 3 0) ∧
    decodeTableWord 32 0b010100_010011_101010_01_0_100_0101_0000 = some (.fcvtTrap 19 42 1 0 5 0) := by decide +kernel

theorem test_words_halu :
    decodeTableWord 32 0b010101_010011_101010_000101_1_0000001 = some (.hadd2 19 42 5 1) ∧
    decodeTableWord 32 0b010101_010011_101010_000101_1_0000010 = some (.hsub2 19 42 5 1) ∧
    decodeTableWord 32 0b010101_010011_101010_000101_1_0000011 = some (.hmul2 19 42 5 1) ∧
    decodeTableWord 32 0b010101_010011_101010_000101_1_0000100 = some (.hmin2 19 42 5 1) ∧
    decodeTableWord 32 0b010101_010011_101010_000101_1_0000101 = some (.hmax2 19 42 5 1) := by decide +kernel

theorem test_words_hfma2 :
    decodeTableWord 32 0b010110_010011_101010_000101_010011_0_1 = some (.hfma2 19 42 5 19 1) := by decide +kernel

theorem test_words_idp4 :
    decodeTableWord 32 0b010111_010011_101010_000101_010011_01 = some (.idp4 19 42 5 19 1) := by decide +kernel

theorem test_words_bra :
    decodeTableWord 32 0b011000_1_101_1010110011110000011101 = some (.bra 1 5 2833437) := by decide +kernel

theorem test_words_jmp :
    decodeTableWord 32 0b011001_10101010111100110111100101 = some (.jmp 44813797) := by decide +kernel

theorem test_words_jal :
    decodeTableWord 32 0b011010_10101010111100110111100101 = some (.jal 44813797) := by decide +kernel

theorem test_words_jr :
    decodeTableWord 32 0b011011_000000_010011_00000000000001 = some (.jr 19) ∧
    decodeTableWord 32 0b011011_010011_101010_00000000000010 = some (.jalr 19 42) ∧
    decodeTableWord 32 0b011011_0000000_01011_00000000000011 = some (.jrG 11) ∧
    decodeTableWord 32 0b011011_010011_0_01011_00000000000100 = some (.jalrG 19 11) := by decide +kernel

theorem test_words_joinop :
    decodeTableWord 32 0b011100_000_101_10011010001111000101 = some (.jarm 5 631749) ∧
    decodeTableWord 32 0b011100_001_101_010011_00000000000000 = some (.jset 5 19) ∧
    decodeTableWord 32 0b011100_010_101_010011_00000000000000 = some (.jget 5 19) ∧
    decodeTableWord 32 0b011100_011_101_00000000000000000000 = some (.join 5) := by decide +kernel

theorem test_words_taskop :
    decodeTableWord 32 0b011101_010011_0_1001011001011010001 = some (.fork 19 307921) ∧
    decodeTableWord 32 0b011101_010011_10000000000000000000 = some (.fjoin 19) := by decide +kernel

theorem test_words_exit :
    decodeTableWord 32 0b011110_00000000000000000000000000 = some (.exit) := by decide +kernel

theorem test_words_monw :
    decodeTableWord 32 0b011111_000000_01011_010011_00100_1001 = some (.monw 11 19 9) := by decide +kernel

theorem test_words_ld :
    decodeTableWord 32 0b100000_010100_01011_101010_01_101_1001 = some (.ld 20 11 42 1 5 9) := by decide +kernel

theorem test_words_st :
    decodeTableWord 32 0b100001_010100_01011_101010_10_101_1001 = some (.st 20 11 42 2 5 9) := by decide +kernel

theorem test_words_llk :
    decodeTableWord 32 0b100010_010100_01011_101010_01_110_1001 = some (.llk 20 11 42 1 6 9) := by decide +kernel

theorem test_words_sul :
    decodeTableWord 32 0b100011_010100_01011_101010_10_101_1001 = some (.sul 20 11 42 2 5 9) := by decide +kernel

theorem test_words_atom :
    decodeTableWord 32 0b100100_010100_01011_101010_000000_101 = some (.atomAdd 20 11 42 5) ∧
    decodeTableWord 32 0b100100_010100_01011_101010_000010_101 = some (.atomMin 20 11 42 5) ∧
    decodeTableWord 32 0b100100_010100_01011_101010_000100_101 = some (.atomMax 20 11 42 5) ∧
    decodeTableWord 32 0b100100_010100_01011_101010_000110_101 = some (.atomMinu 20 11 42 5) ∧
    decodeTableWord 32 0b100100_010100_01011_101010_001000_101 = some (.atomMaxu 20 11 42 5) ∧
    decodeTableWord 32 0b100100_010100_01011_101010_001010_101 = some (.atomAnd 20 11 42 5) ∧
    decodeTableWord 32 0b100100_010100_01011_101010_001100_101 = some (.atomOr 20 11 42 5) ∧
    decodeTableWord 32 0b100100_010100_01011_101010_001110_101 = some (.atomXor 20 11 42 5) ∧
    decodeTableWord 32 0b100100_010100_01011_101010_010000_101 = some (.atomXchg 20 11 42 5) ∧
    decodeTableWord 32 0b100100_010100_01011_101010_010010_101 = some (.atomCas 20 11 42 5) ∧
    decodeTableWord 32 0b100100_010011_01011_101010_010100_011 = some (.atomFadd 19 11 42 3) := by decide +kernel

theorem test_words_tag :
    decodeTableWord 32 0b100101_010011_101010_00000000000001 = some (.tlook 19 42) ∧
    decodeTableWord 32 0b100101_010011_101010_000101_00000010 = some (.tins 19 42 5) ∧
    decodeTableWord 32 0b100101_010011_101010_00000000000011 = some (.tdel 19 42) ∧
    decodeTableWord 32 0b100101_00000000000000000000000100 = some (.tclr) := by decide +kernel

theorem test_words_rop :
    decodeTableWord 32 0b100110_010100_01011_101010_0000000_10 = some (.ropLd 20 11 42 2) ∧
    decodeTableWord 32 0b100110_010100_01011_101010_0000100_01 = some (.ropSt 20 11 42 1) ∧
    decodeTableWord 32 0b100110_010100_01011_101010_00010000_1 = some (.ropAdd 20 11 42 1) ∧
    decodeTableWord 32 0b100110_1001_00_01011_010011_000110000 = some (.ropCas2 9 11 19) ∧
    decodeTableWord 32 0b100110_01011_0_10101_010011_001000000 = some (.ropEnq 11 21 19) ∧
    decodeTableWord 32 0b100110_01011_0_10101_010011_001010_101 = some (.ropChase 11 21 19 5) := by decide +kernel

theorem test_words_phase :
    decodeTableWord 32 0b101000_0000000000000000_01_10_000000 = some (.phase 1 2) := by decide +kernel

theorem test_words_bar :
    decodeTableWord 32 0b101001_0000000000000000_1001_000001 = some (.barArrive 9) ∧
    decodeTableWord 32 0b101001_0000000000000000_1001_000010 = some (.barWait 9) ∧
    decodeTableWord 32 0b101001_0000000000000000_1001_000011 = some (.barSync 9) ∧
    decodeTableWord 32 0b101001_0000000000000000_1001_010001 = some (.barArriveCl 9) ∧
    decodeTableWord 32 0b101001_0000000000000000_1001_010010 = some (.barWaitCl 9) ∧
    decodeTableWord 32 0b101001_0000000000000000_1001_010011 = some (.barSyncCl 9) := by decide +kernel

theorem test_words_qfence :
    decodeTableWord 32 0b101010_000000_01011_000000000000000 = some (.qfence 11) := by decide +kernel

theorem test_words_cpy :
    decodeTableWord 32 0b101011_000_101_01011_10101_1001_000000 = some (.cpy 5 11 21 9) := by decide +kernel

theorem test_words_tok :
    decodeTableWord 32 0b101100_000000_01011_00000_1001_000001 = some (.twait 11 9) ∧
    decodeTableWord 32 0b101100_0_01011_0000000000_1001_000010 = some (.tread 11 9) ∧
    decodeTableWord 32 0b101100_000000_01011_00000_1001_000011 = some (.tset 11 9) ∧
    decodeTableWord 32 0b101100_000000_01011_00000_1001_000100 = some (.tadd 11 9) := by decide +kernel

theorem test_words_hset :
    decodeTableWord 32 0b101101_000_101_01011_0000000_01_000000 = some (.hset 5 11 1) := by decide +kernel

theorem test_words_mtx :
    decodeTableWord 32 0b101110_0_01011_00000000000000000001 = some (.mclaim 11) ∧
    decodeTableWord 32 0b101110_000000_01011_000000000000010 = some (.mrelease 11) ∧
    decodeTableWord 32 0b101110_000000_01011_10101_1001_000011 = some (.mpost 11 21 9) ∧
    decodeTableWord 32 0b101110_000000_01011_10101_0000000100 = some (.pcset 11 21) ∧
    decodeTableWord 32 0b101110_0_01011_10101_000000000000101 = some (.pcread 11 21) ∧
    decodeTableWord 32 0b101110_000000_01011_000000000000110 = some (.pcwait 11) := by decide +kernel

theorem test_words_send :
    decodeTableWord 32 0b110000_000000_01011_0110_0_0101_000001 = some (.send 11 6 5) ∧
    decodeTableWord 32 0b110000_000000_01011_0110_0_0101_000010 = some (.sendC 11 6 5) ∧
    decodeTableWord 32 0b110000_000_101_01011_0110_0_0101_000011 = some (.sendNb 5 11 6 5) := by decide +kernel

theorem test_words_msg :
    decodeTableWord 32 0b110001_00000000000_0110_0_0101_000001 = some (.reply 6 5) ∧
    decodeTableWord 32 0b110001_00000000000000000000000010 = some (.refuse) ∧
    decodeTableWord 32 0b110001_0_01011_10101_00110_0000000011 = some (.mbind 11 21 6) ∧
    decodeTableWord 32 0b110001_0_01011_10101_000000000000100 = some (.munbind 11 21) ∧
    decodeTableWord 32 0b110001_0_01011_10101_000000000000101 = some (.mqstat 11 21) ∧
    decodeTableWord 32 0b110001_000000_01011_00000_1001_000110 = some (.launch 11 9) := by decide +kernel

theorem test_words_mapop :
    decodeTableWord 32 0b110010_0_01011_10101_00110_0000000001 = some (.map 11 21 6) ∧
    decodeTableWord 32 0b110010_0_01011_10101_00110_0000000010 = some (.grant 11 21 6) ∧
    decodeTableWord 32 0b110010_0_01011_10101_000000000000011 = some (.unmap 11 21) ∧
    decodeTableWord 32 0b110010_0_01011_10101_000000000000100 = some (.mquery 11 21) := by decide +kernel

theorem test_words_cinv :
    decodeTableWord 32 0b110011_0_01011_10101_00110_0000000000 = some (.cinv 11 21 6) := by decide +kernel

theorem test_words_slotcall :
    decodeTableWord 32 0b110100_0_01011_10101_000000000000001 = some (.slotcall 11 21) ∧
    decodeTableWord 32 0b110100_0_01011_10101_000000000000010 = some (.slotcallNb 11 21) := by decide +kernel

theorem test_words_csr :
    decodeTableWord 32 0b110101_010011_00000000_010000010000 = some (.csrr 19 1040) ∧
    decodeTableWord 32 0b110101_000000_010011_01_010000010000 = some (.csrw 19 1040) ∧
    decodeTableWord 32 0b110101_010011_101010_10_010000010000 = some (.csrs 19 42 1040) ∧
    decodeTableWord 32 0b110101_010011_101010_11_010000010000 = some (.csrc 19 42 1040) := by decide +kernel

theorem test_words_pleach :
    decodeTableWord 32 0b110110_000000_01011_1001_00000000001 = some (.plwr 11 9) ∧
    decodeTableWord 32 0b110110_0_1001_0_01011_000000000000010 = some (.plrd 9 11) ∧
    decodeTableWord 32 0b110110_00000000000000000000000011 = some (.plgo) ∧
    decodeTableWord 32 0b110110_00000000000000000000000100 = some (.plhalt) ∧
    decodeTableWord 32 0b110110_0_01011_10101_000000000000101 = some (.plstat 11 21) ∧
    decodeTableWord 32 0b110110_000000_01011_10101_0000000110 = some (.stasha 11 21) ∧
    decodeTableWord 32 0b110110_000000_01011_10101_0000000111 = some (.stashf 11 21) ∧
    decodeTableWord 32 0b110110_000000_01011_10101_0000001000 = some (.slotgive 11 21) := by decide +kernel

/-! Words that the text of the spec writes out with their assembly form (R84, R88 to R100, R111 to R124, R162 to R172,
R183 to R198, R204 to R215, R230 to R259). -/

theorem test_examples_integer :
    decodeTableWord 32 0x0441_4617 = some (.adds 4 5 6) ∧ decodeTableWord 32 0x0441_401B = some (.clz 4 5) ∧
    decodeTableWord 32 0x1C41_2345 = some (.lui 4 0x12345) ∧ decodeTableWord 32 0x1041_0678 = some (.ori 4 4 0x678) ∧
    decodeTableWord 32 0x2510_8280 = some (.cmp 2 2 4 5 0) ∧ decodeTableWord 32 0x2C11_C703 = some (.pxor 1 7 7) ∧
    decodeTableWord 32 0x3484_FF80 = some (.gaddi 4 4 0xFF80) ∧ decodeTableWord 32 0x3C41_8801 = some (.addw 2 3 4) := by
  decide +kernel

theorem test_examples_control :
    decodeTableWord 32 0x6C0F_C001 = some (.jr 63) ∧ decodeTableWord 32 0x6FF2_0002 = some (.jalr 63 8) ∧
    decodeTableWord 32 0x7091_4000 = some (.jset 1 5) ∧ decodeTableWord 32 0x7111_8000 = some (.jget 1 6) ∧
    decodeTableWord 32 0x7190_0000 = some (.join 1) ∧ decodeTableWord 32 0x7800_0000 = some .exit ∧
    decodeTableWord 32 0x7540_0005 = some (.fork 20 5) ∧ decodeTableWord 32 0x7548_0000 = some (.fjoin 20) := by decide +kernel

theorem test_examples_float :
    decodeTableWord 32 0x4441_4601 = some (.fadd 4 5 6) ∧ decodeTableWord 32 0x4441_400A = some (.fsqrt 4 5) ∧
    decodeTableWord 32 0x4841_461C = some (.ffma 4 5 6 7 0) ∧ decodeTableWord 32 0x4841_461D = some (.ffma 4 5 6 7 1) ∧
    decodeTableWord 32 0x4D90_8280 = some (.fcmp 3 2 4 5 0) ∧ decodeTableWord 32 0x5041_4830 = some (.fcvt 4 5 0 1 3 0) ∧
    decodeTableWord 32 0x5041_5450 = some (.fcvtTrap 4 5 1 0 5 0) ∧ decodeTableWord 32 0x5441_4681 = some (.hadd2 4 5 6 1) ∧
    decodeTableWord 32 0x5841_461D = some (.hfma2 4 5 6 7 1) ∧ decodeTableWord 32 0x5C82_4A21 = some (.idp4 8 9 10 8 1) := by
  decide +kernel

theorem test_examples_memory :
    decodeTableWord 32 0x8040_0CC0 = some (.ld 4 0 6 1 4 0) ∧ decodeTableWord 32 0x8441_0A42 = some (.st 4 2 5 0 4 2) ∧
    decodeTableWord 32 0x8841_8B40 = some (.llk 4 3 5 2 4 0) ∧ decodeTableWord 32 0x8C41_8B40 = some (.sul 4 3 5 2 4 0) ∧
    decodeTableWord 32 0x9061_0A01 = some (.atomAdd 6 2 5 1) ∧ decodeTableWord 32 0x9081_0A94 = some (.atomCas 8 2 5 4) ∧
    decodeTableWord 32 0x9843_0E01 = some (.ropLd 4 6 7 1) ∧ decodeTableWord 32 0x9843_0E52 = some (.ropChase 2 6 7 2) ∧
    decodeTableWord 32 0xA000_0140 = some (.phase 1 1) := by decide +kernel

theorem test_examples_copies_and_messages :
    decodeTableWord 32 0xB417_0000 = some (.hset 1 14 0) ∧ decodeTableWord 32 0xA802_0000 = some (.qfence 4) ∧
    decodeTableWord 32 0xC002_1881 = some (.send 4 3 2) ∧ decodeTableWord 32 0xC012_1803 = some (.sendNb 1 4 3 0) ∧
    decodeTableWord 32 0xC400_6801 = some (.reply 13 0) ∧ decodeTableWord 32 0xC400_0002 = some .refuse ∧
    decodeTableWord 32 0xC442_9803 = some (.mbind 4 5 6) ∧ decodeTableWord 32 0xC442_8004 = some (.munbind 4 5) ∧
    decodeTableWord 32 0xC402_0146 = some (.launch 4 5) ∧ decodeTableWord 32 0xC842_9801 = some (.map 4 5 6) ∧
    decodeTableWord 32 0xC842_8003 = some (.unmap 4 5) ∧ decodeTableWord 32 0xCC42_9800 = some (.cinv 4 5 6) ∧
    decodeTableWord 32 0xD042_8002 = some (.slotcallNb 4 5) := by decide +kernel

theorem test_examples_system :
    decodeTableWord 32 0xD401_5410 = some (.csrw 5 0x410) ∧ decodeTableWord 32 0xD441_6010 = some (.csrs 4 5 0x010) ∧
    decodeTableWord 32 0xD441_7010 = some (.csrc 4 5 0x010) ∧ decodeTableWord 32 0x0000_0143 = some (.bkpt 5) ∧
    decodeTableWord 32 0x0002_0004 = some (.trap 4) ∧ decodeTableWord 32 0x0002_0045 = some (.eret 4 1) ∧
    decodeTableWord 32 0xD802_1801 = some (.plwr 4 3) ∧ decodeTableWord 32 0xD882_0002 = some (.plrd 4 4) ∧
    decodeTableWord 32 0xD842_8005 = some (.plstat 4 5) := by decide +kernel

/-- R82, R84: an unallocated code, a nonzero reserved field and a reserved value are no instructions, by name. -/
theorem test_refusals :
    decodeWord 0x0441_46FF = .error .unallocated ∧ decodeWord 0x0441_411B = .error .unallocated ∧
    decodeWord 0x9C00_0000 = .error .unallocated ∧ decodeWord 0x0000_0000 = .error .unallocated ∧
    decodeWord 0x0000_0085 = .error .reservedValue ∧ decode [1, 0, 0] = .error .truncated := by decide +kernel

/-! ## Small states -/

/-- One FIRM strand of a message-started task of context 1 on core 0, about to run the word at address 0. -/
def one : State := { placeStrand State.reset with issue := ⟨0, 0, 0, 1, 0, 0, ⟨[], none⟩⟩ }

/-- As `one`, with two strands in S. -/
def two : State := { one with strands := AMap.put one.strands 1 placedStrand, issue := ⟨0, 0, 0, 3, 0, 0, ⟨[], none⟩⟩ }

/-- As `one`, at the user level. -/
def user : State := modStrand one 0 (fun x => { x with priv := 0 })

/-- The task of `one`. -/
def task1 : Task := { placedTask with uid := State.reset.uid }

/-- The message that started it. -/
def message1 : Message :=
  { kind := .task, dw := 0, peer := none, core := 0, ctx := 1, slot := 0, supv := false, vnet := .req,
    origin := ⟨none, 0, 1, none⟩, id := 0, a0 := 0, a1 := 0, payload := [], trap := none, serial := 0 }

/-- One scalar register of a strand after an outcome. -/
def scalarOf (o : Out State) (k : Nat) (r : SReg) : Option Word := match o with | .next t => some (getS t k r) | _ => none

/-- One uniform register of group 0 after an outcome. -/
def uniformOf (o : Out State) (r : GReg) : Option DWord := match o with | .next t => some (getG t 0 r) | _ => none

/-- The state after an outcome, for one more look. -/
def after (o : Out State) : State := match o with | .next t => t | _ => State.reset

theorem test_one_issues : issuer? one = some (0, task1) ∧ active one = [0] ∧ active two = [0, 1] ∧
    task1.work = .message message1 := by decide +kernel

/-- A copy of the group of `one`: 64 bytes in one run, from COREWIN to COREWIN. -/
def copy1 : Copy :=
  { shape := 0x400000000000000009#256, src := 0, dst := 0x1000, tok := ⟨1, 0, 0⟩, ctx := 1, task := 0, core := 0, group := 0,
    winBase := 0, since := 0, run := 0, stopped := none, retry := false, done := false, error := false, peerOut := 0, peerSent := 0,
    peerData := none }

/-! ## Witnesses: what meets the hypotheses of each statement -/

theorem witness_FloatConversion_without_trap :
    let s := setS one 0 5 0x3F800000
    ∀ k ∈ active s, ¬((fcvtResult 0 0 1 0 (getS s k 5).toNat).2 &&& 0b10100#5 ≠ 0) := by decide +kernel

theorem witness_FloatConversion_trap :
    let s := setS two 1 5 0x7FC00000
    let bad := fun k => (fcvtResult 0 0 5 0 (getS s k 5).toNat).2 &&& 0b10100#5 ≠ 0
    active s = [0] ++ 1 :: [] ∧ bad 1 ∧ ∀ j ∈ [0], ¬bad j := by decide +kernel

theorem witness_FloatSignAndComparison_nan : (f32.value (getS (setS one 0 5 0x7FC00000) 0 5).toNat).isNan = true := by
  decide +kernel

theorem witness_FloatArithmetic_nan : (f32.value (getS (setS one 0 5 0xFF800001) 0 5).toNat).isNan = true := by decide +kernel

theorem witness_BranchesAndJumps_forward : one.issue.pc.toNat < (wordOffset one (1 : BitVec 22)).toNat := by decide +kernel

theorem witness_BranchesAndJumps_strand : (AMap.get? one.strands 0).isSome = true := by decide +kernel

theorem witness_BranchesAndJumps_aligned :
    let s := setG one 0 6 0xFFFFFFFFFFFFC
    (∀ k ∈ active s, (s.issue.pc.extractLsb' 32 20 ++ getS s k 5).toNat % 4 = 0) ∧
      (getG s (gk s) 6).toNat % 4 = 0 ∧ (getG s (gk s) 6).toNat < 2 ^ 52 := by decide +kernel

theorem witness_BranchesAndJumps_misaligned :
    let s := setS two 1 5 2
    let ts := fun k => s.issue.pc.extractLsb' 32 20 ++ getS s k 5
    active s = [0] ++ 1 :: [] ∧ (ts 1).toNat % 4 ≠ 0 ∧ ∀ j ∈ [0], (ts j).toNat % 4 = 0 := by decide +kernel

theorem witness_BranchesAndJumps_far :
    let s := setG one 0 6 0x10000000000000
    (getG s (gk s) 6).toNat % 4 = 0 ∧ 2 ^ 52 ≤ (getG s (gk s) 6).toNat := by decide +kernel

theorem witness_Joins_masks :
    (getJ one (gk one) 2).waiting = 0 ∧ (getJ (setJ one 0 2 ⟨3, 0, 2⟩) (gk one) 2).waiting ≠ 0 := by decide +kernel

theorem witness_Joins_elsewhere : (setJ one 0 2 ⟨3, 8, 0⟩).issue.pc ≠ (getJ (setJ one 0 2 ⟨3, 8, 0⟩) 0 2).pc := by
  decide +kernel

theorem witness_Joins_arrival :
    let s := setJ one 0 2 ⟨3, 0, 0⟩
    let m := getJ s (gk s) 2
    s.issue.pc = m.pc ∧ (AMap.get? s.strands (skey s 0)).map (·.pc) = some s.issue.pc ∧ s.issue.mask.getLsbD 0 = true ∧
      m.waiting.getLsbD 0 = false ∧ m.mask.getLsbD 0 = true ∧ m.waiting ||| (s.issue.mask &&& m.mask) ≠ m.mask := by
  decide +kernel

theorem witness_Joins_last :
    let s := setJ one 0 2 ⟨3, 0, 2⟩
    let m := getJ s (gk s) 2
    s.issue.pc = m.pc ∧ m.waiting ||| (s.issue.mask &&& m.mask) = m.mask := by decide +kernel

theorem witness_ExitEndsStrands : (∀ k ∈ active one, (strandAt one k).locks = []) ∧ one.issue.mask.getLsbD 0 = true := by
  decide +kernel

theorem witness_ForkAndFjoin :
    let s := setS one 0 20 0x7FFFFC
    let off := (getS s (firstActive s) 20).toNat
    issuer? s = some (0, task1) ∧ off % 4 = 0 ∧ off + 4 ≤ cluLimit s 0 ∧ clusterShare? s 0 1 = some (0, 0x800000, false) ∧
      (coreAt s 0).wbuf = [] ∧ (AMap.getD (coreAt s 0).deque 1 []).length < 32 ∧ sidePending s (active s) = false ∧
      ropsOut s (active s) = false ∧ deferredOf? s = none ∧ Mem.nat s.cluwin off 4 = 0 ∧
      Mem.nat (Mem.setBytes s.cluwin off [1, 0, 0, 0]) off 4 ≠ 0 := by decide +kernel

theorem witness_SystemWords_user :
    issuer? user = some (0, task1) ∧ active user = [] ++ 0 :: [] ∧ (privOf user 0).toNat < 2 ∧ (privOf user 0).toNat < 1 := by
  decide +kernel

theorem witness_SystemWords_firm :
    (∀ k ∈ active one, 2 ≤ (privOf one k).toNat) ∧ (∀ k ∈ active one, 1 ≤ (privOf one k).toNat) ∧ replayCores one 1 = [] := by
  decide +kernel

theorem witness_SystemWords_stopped_copy :
    let c := { copy1 with stopped := some ⟨0, .unmapped, 1, none, none, false⟩ }
    let s := { one with queues := AMap.put one.queues 0 ⟨[c], none⟩ }
    (AMap.get? s.queues 0).isSome = true ∧ c ∈ (queueAt s 0).copies ∧ c.ctx = task1.ctx ∧ c.stopped.isSome = true := by
  decide +kernel

theorem witness_EretReturns :
    let s := setG one 0 4 0xFFFFFFFFFFFFC
    let v := getG s (gk s) 4
    (∀ k ∈ active s, (1 : BitVec 2).toNat ≤ (privOf s k).toNat) ∧ v.toNat % 4 = 0 ∧ v.toNat < 2 ^ 52 := by decide +kernel

theorem witness_EretReturns_below : active user = [] ++ 0 :: [] ∧ (privOf user 0).toNat < (1 : BitVec 2).toNat := by
  decide +kernel

theorem witness_EretReturns_traps :
    (∀ k ∈ active one, (1 : BitVec 2).toNat ≤ (privOf one k).toNat) ∧ (getG (setG one 0 4 2) 0 4).toNat % 4 ≠ 0 ∧
      (getG (setG one 0 4 (1 <<< 52)) 0 4).toNat % 4 = 0 ∧ 2 ^ 52 ≤ (getG (setG one 0 4 (1 <<< 52)) 0 4).toNat := by
  decide +kernel

theorem witness_TrapsAreTaken :
    issuer? one = some (0, task1) ∧ task1.supv = false ∧ task1.work = .message message1 ∧
      ∀ k ∈ strandsOfTask task1, (strandAt one k).deferred = [] := by decide +kernel

theorem witness_TrapsOfServices :
    let t := { task1 with supv := true }
    let s := { one with tasks := AMap.put one.tasks 0 t }
    issuer? s = some (0, t) ∧ t.supv = true ∧ ∀ k ∈ strandsOfTask t, (strandAt s k).deferred = [] := by decide +kernel

theorem witness_Loads_window :
    issuer? one = some (0, task1) ∧ ∀ k ∈ active one,
      checkWindow one 0 task1 false (ea one k 0 0 (Machine.sizeOf 4) 7) (Machine.sizeOf 4) = .window 28 := by decide +kernel

theorem witness_Loads_global :
    issuer? one = some (0, task1) ∧ one.badLines = [] ∧
    (findAll one (fun y k => checkGlobal y 0 1 (ea one k 0 0 (Machine.sizeOf 6) 7) (Machine.sizeOf 6) 0 false)).2 =
      (active one).map (fun k => (k, .page 112)) ∧
    ∀ k ∈ active one, plainMem 112 = true ∧ 112 % 128 + Machine.sizeOf 6 ≤ 128 ∧
      sideOnLine one k (lineOf (ea one k 0 0 (Machine.sizeOf 6) 7)) = false := by decide +kernel

theorem witness_Stores_window :
    issuer? two = some (0, task1) ∧ ∀ k ∈ active two,
      checkWindow two 0 task1 true (ea two k 0 0 (Machine.sizeOf 4) 1) (Machine.sizeOf 4) = .window 4 := by decide +kernel

theorem witness_Stores_global :
    (findAll two (fun y k => checkGlobal y 0 1 (ea two k 0 0 (Machine.sizeOf 4) 1) (Machine.sizeOf 4) 1 true)).2 =
      (active two).map (fun k => (k, .page 4)) ∧
    (∀ k ∈ active two, plainMem 4 = true ∧ behind? two k (lineOf (ea two k 0 0 (Machine.sizeOf 4) 1)) = none) ∧
    (bufLines (coreAt two 0).wbuf).length + 32 ≤ 1024 := by decide +kernel

/-- A strand that holds two lock bits. -/
def locker : Strand := { placedStrand with locks := [5, 6] }

theorem witness_WindowLocks :
    let a := ea one 0 0 0 (Machine.sizeOf 4) 0
    issuer? one = some (0, task1) ∧ task1.saving = false ∧ active one = [0] ∧ AMap.get? one.strands 0 = some placedStrand ∧
    checkWindow one 0 task1 false a (Machine.sizeOf 4) = .window 0 ∧ AMap.get? one.locks (lockBit 0 false a 0) = none ∧
    placedStrand.locks.contains (lockBit 0 false a 0) = false ∧ placedStrand.locks.length < 2 := by decide +kernel

theorem witness_WindowLocks_held_by_another :
    let bit := lockBit 0 false (ea one 0 0 0 (Machine.sizeOf 4) 0) 0
    let s := { one with locks := AMap.put one.locks bit ⟨7, []⟩ }
    AMap.get? s.locks bit = some ⟨7, []⟩ ∧ placedStrand.locks.contains bit = false := by decide +kernel

theorem witness_WindowLocks_two_held :
    let s := { one with strands := AMap.put one.strands 0 locker }
    let bit := lockBit 0 false (ea s 0 0 0 (Machine.sizeOf 4) 0) 0
    AMap.get? s.strands 0 = some locker ∧ locker.locks.contains bit = false ∧ 2 ≤ locker.locks.length := by decide +kernel

theorem witness_WindowLocks_holder :
    let bit := lockBit 0 false (ea one 0 0 0 (Machine.sizeOf 4) 0) 0
    let y := { placedStrand with locks := [bit] }
    let s := { one with strands := AMap.put one.strands 0 y, locks := AMap.put one.locks bit ⟨0, []⟩ }
    AMap.get? s.strands 0 = some y ∧ AMap.get? s.locks bit = some ⟨0, []⟩ ∧ y.locks.contains bit = true := by decide +kernel

theorem witness_TagTable :
    issuer? one = some (0, task1) ∧ task1.winUnits ≠ 0 ∧ task1.winUnits ≤ 32 ∧ active one = [0] ∧
      AMap.rising one.tags = true := by decide +kernel

theorem witness_TagTable_without_window :
    let t := { task1 with winUnits := 0 }
    issuer? { one with tasks := AMap.put one.tasks 0 t } = some (0, t) ∧ t.winUnits = 0 := by decide +kernel

theorem witness_Atomics :
    issuer? one = some (0, task1) ∧ active one = [0] ∧ AMap.get? one.strands 0 = some placedStrand ∧
    placedStrand.deferred = [] ∧ one.badLines = [] ∧ (coreAt one 0).wbuf = [] ∧ (coreAt one 0).sidelog = [] ∧
    ropsOut one (active one) = false ∧
    (checkGlobal one 0 1 (getG one (gk one) 0 + (getS one 0 0).signExtend 64) 8 3 true).2 = .page 0 ∧ plainMem 0 = true ∧
    plainMem 8 = true := by decide +kernel

theorem witness_RemoteOperationsHere :
    let a := getG one (gk one) 0 + (getS one 0 0).signExtend 64
    (groupAt? one (gk one)).bind (·.parked) = none ∧ a.getLsbD 63 = false ∧ Mem.nat one.mem 0 8 = 0 ∧
    (∀ n ∈ [4, 8, 16], a.toNat % n = 0 ∧ (checkPage one (coreCaches 0) 1 a 0 false).2 = .page 0 ∧ plainMem (0 + n) = true) ∧
    (∀ n ∈ [4, 8, 16], (checkPage one (coreCaches 0) 1 a 1 true).2 = .page 0) ∧
    (∀ n ∈ [4, 8], (checkPage one (coreCaches 0) 1 a 3 true).2 = .page 0) := by decide +kernel

theorem witness_MonitorParks :
    let s := { one with strands := AMap.put one.strands 0 { placedStrand with lastLine := some 0, woken := true } }
    0 / 32 = gk s ∧ (checkGlobal s 0 1 (ea s 0 0 0 4 0) 4 0 false).2 = .page 0 ∧ plainMem 0 = true ∧
      sideOnLine s 0 (lineOf (ea s 0 0 0 4 0)) = false ∧ (strandAt s 0).lastLine = some (0 / 128) ∧ (strandAt s 0).woken = true ∧
      ¬((strandAt one 0).lastLine = some (0 / 128) ∧ (strandAt one 0).woken = true) := by decide +kernel

theorem witness_PhaseOrdersMemory :
    let s := modCore one 0 (fun c => { c with wbuf := [⟨4, [1, 2], 0⟩] })
    issuer? s = some (0, task1) ∧ s.badLines = [] ∧ sidePending s (active s) = false ∧ ropsOut s (active s) = false ∧
    deferredOf? s = none ∧ (coreAt s 0).peersWritten = [] ∧
    groupCopies s task1.uid (((groupAt? s (gk s)).map (·.index)).getD 0) (fun _ c => shDst c.shape == 4) = false ∧
    ∀ b ∈ (coreAt s 0).wbuf, ∀ n, n < b.bytes.length → plainMem (b.pa + n) = true := by decide +kernel

theorem witness_Barriers :
    issuer? one = some (0, task1) ∧ (∀ k ∈ active one, (strandAt one k).wait ≠ .exited) ∧ ropsOut one (active one) = false ∧
      sideUnperformed one (active one) = false ∧ barShare? one 0 1 = some (0, 16) ∧ (15 : BitVec 4).toNat < 16 ∧
      barShare? (modCluster one 0 (fun c => { c with lower := none })) 0 1 = none := by decide +kernel

theorem witness_Barriers_arrived :
    let s := after (exec (.barArrive 3) two)
    (AMap.get? s.tasks 0).isSome = true := by decide +kernel

theorem witness_Tokens_reached :
    let t := getK one 0 3
    (4 % 2 ^ 31 ≤ t.count.toNat % 2 ^ 31 ∨ t.count.getLsbD 31 = true ∨ t.outstanding = 0) ∧ t.outstanding = 0 := by
  decide +kernel

theorem witness_Tokens_waiting :
    let t := getK (setK one 0 3 ⟨3, 1⟩) 0 3
    ¬(4 % 2 ^ 31 ≤ t.count.toNat % 2 ^ 31 ∨ t.count.getLsbD 31 = true ∨ t.outstanding = 0) ∧ t.outstanding ≠ 0 := by
  decide +kernel

/-- `one` with the shape of `copy1` in h1. -/
def shaped : State := setH one 0 1 copy1.shape

theorem witness_ShapesAndCopies :
    issuer? shaped = some (0, task1) ∧ copyFault shaped task1 (getH shaped 0 1) 0 0x1000 = none := by decide +kernel

theorem witness_ShapesAndCopies_fault :
    copyFault shaped task1 (getH shaped 0 1) 0 0x7FFC1 = some (0x04, 0x7FFC1) := by decide +kernel

theorem witness_ShapesAndCopies_invalid : invalidShape (featureOn one 2) 7 = true := by decide +kernel

theorem witness_ShapesAndCopies_qfence :
    let s := setG { one with queues := AMap.put one.queues 3 ⟨[copy1], none⟩ } 0 4 8
    (∃ e ∈ s.queues, (∃ n, n < 12 ∧ (getG s 0 4).getLsbD n = true ∧ e.1 = 0 * 12 + n) ∧
      ∃ c ∈ e.2.copies, c.tok.uid = task1.uid ∧ c.tok.group = ((groupAt? s (gk s)).map (·.index)).getD 0) ∧
    one.queues = [] := by decide +kernel

/-- `one` with slot 0 of operand memory claimed by context 1. -/
def claimed : State := modCluster one 0 (fun c => { c with claims := AMap.put c.claims 0 1 })

/-- `one` with every slot claimed. -/
def allClaimed : State := modCluster one 0 (fun c => { c with claims := (List.range 512).map (fun i => (i, 1)) })

theorem witness_SlotsAndCounters :
    issuer? one = some (0, task1) ∧ MemoriesCanonical one ∧ slotShare? one 0 1 = some (0, 512) ∧
      counterShare? one 0 1 = some (0, 4096) ∧ AMap.get? (clusterAt one 0).claims (0 + 0) = none := by
  unfold MemoriesCanonical; decide +kernel

theorem witness_SlotsAndCounters_full :
    ∀ i, i < 512 → AMap.get? (clusterAt allClaimed 0).claims (0 + i) ≠ none := by decide +kernel

theorem witness_SlotsAndCounters_no_share :
    clusterShare? (modCluster one 0 (fun c => { c with lower := none })) 0 1 = none := by decide +kernel

theorem witness_SlotsAndCounters_release :
    let s := { claimed with queues := AMap.put one.queues 0 ⟨[{ copy1 with shape := 0x40000000000000000B }], none⟩ }
    (getG claimed 0 4).toNat < 512 ∧ AMap.get? (clusterAt claimed 0).claims (0 + 0) = some 1 ∧
      condHolds claimed (.slotIdle 0 0) = true ∧ AMap.get? (clusterAt s 0).claims 0 = some 1 ∧
      condHolds s (.slotIdle 0 0) = false := by decide +kernel

theorem witness_SlotsAndCounters_outside :
    let s := setG one 0 4 512
    512 ≤ (getG s 0 4).toNat ∧ 4096 ≤ (getG (setG one 0 4 4096) 0 4).toNat ∧ (getG one 0 4).toNat < 4096 ∧
      Sparse.read one.pcs (0 * 4096 + (0 + 0)) = 0 ∧
      Sparse.read { one with pcs := Sparse.write one.pcs 0 1 }.pcs (0 * 4096 + (0 + 0)) ≠ 0 := by decide +kernel

/-- `one` with the address of a block at 0x1000 in g4 and its first bytes there. -/
def block (bs : List Byte) : State := setG { one with mem := Mem.setBytes one.mem 0x1000 bs } 0 4 0x1000

/-- A SWAP record of engine 0. -/
def swapRecord : State := block [2]

theorem witness_RecordPosted :
    let r : BitVec 512 := BitVec.ofNat 512 (blockAt swapRecord 0x1000 64)
    issuer? swapRecord = some (0, task1) ∧ (clusterShare? swapRecord 0 1).isSome = true ∧
      (getG swapRecord 0 4).toNat % 64 = 0 ∧ BlockReadable swapRecord task1 (getG swapRecord 0 4) 64 0x1000 ∧
      recordFault swapRecord task1 r = none ∧ (AMap.getD swapRecord.posts 0 []).length < 256 ∧
      refused swapRecord 0 1 r 0 = false ∧ refused swapRecord 0 1 r (1 <<< 13) = true := by
  unfold BlockReadable; decide +kernel

theorem witness_RecordPosted_misaligned : (getG (setG one 0 4 0x1020) 0 4).toNat % 64 ≠ 0 := by decide +kernel

/-- `one` with a destination word in g4. -/
def sending (dw : DWord) : State := setG one 0 4 dw

theorem witness_Sends :
    let s := sending 0x0000000100000000
    let dw := getG s (gk s) 4
    issuer? s = some (0, task1) ∧ badDest dw 12 = false ∧ (privDest 1 dw = true → Privileged s 1) ∧
      (dw.getLsbD 63 = true → connected s (dw.extractLsb' 53 10) = true) ∧ (dw.getLsbD 52 = true → badPc (getG s 0 8) = false) ∧
      (sendQ (coreAt s 0) .req).length < (coreAt s 0).sqLim ∧
      task1.held.length - (if task1.refused = true then 1 else 0) < 16 := by unfold Privileged; decide +kernel

theorem witness_Sends_bad : badDest (getG (sending 0x0000000100000040) 0 4) 0 = true := by decide +kernel

theorem witness_Sends_user :
    let s := setG user 0 4 0x0000000200000000
    badDest (getG s 0 4) 0 = false ∧ privDest 1 (getG s 0 4) = true ∧ ∃ k ∈ active s, privOf s k = 0 := by decide +kernel

theorem witness_Sends_full :
    let s := modCore (sending 0x0000000100000000) 0 (fun c => { c with sendReq := List.replicate 32 message1 })
    ¬(sendQ (coreAt s 0) .req).length < (coreAt s 0).sqLim := by decide +kernel

theorem witness_Sends_sixteen_held :
    let t := { task1 with held := List.replicate 16 message1 }
    issuer? { one with tasks := AMap.put one.tasks 0 t } = some (0, t) ∧
      16 ≤ t.held.length - (if t.refused = true then 1 else 0) := by decide +kernel

theorem witness_RepliesAndQueues :
    task1.work = .message message1 ∧ message1.id.toNat / 2 ^ 28 = 0 ∧ (coreAt one 0).sendReply.length < (coreAt one 0).sqLim := by
  decide +kernel

theorem witness_RepliesAndQueues_full :
    let s := modCore one 0 (fun c => { c with sendReply := List.replicate 32 message1 })
    ¬(coreAt s 0).sendReply.length < (coreAt s 0).sqLim := by decide +kernel

/-- The supervisor task of a TRAP message. -/
def trapHandler : Task := { task1 with supv := true, work := .message { message1 with supv := true, id := 0x50000000 } }

theorem witness_RepliesAndQueues_trap :
    let s := { one with tasks := AMap.put one.tasks 0 trapHandler }
    issuer? s = some (0, trapHandler) ∧ trapHandler.supv = true ∧ (0x50000000 : Word).toNat / 2 ^ 28 = 5 := by decide +kernel

/-- A task started by a launch has no request. -/
theorem witness_RepliesAndQueues_no_request :
    let t := { task1 with work := .launch ⟨1, 1, 0, 0, 0, 0x80000000, 0⟩ }
    issuer? { one with tasks := AMap.put one.tasks 0 t } = some (0, t) ∧
      (∀ m, ¬(t.work = .message m ∧ m.id.toNat / 2 ^ 28 = 0)) ∧ ∀ m, t.work = .message m → m.id.toNat / 2 ^ 28 ≠ 5 := by
  refine ⟨by decide +kernel, fun m h => ?_, fun m h => ?_⟩
  · exact Work.noConfusion h.1
  · exact Work.noConfusion h

theorem witness_RepliesAndQueues_selectors :
    ∀ v ∈ [(0x0B : Nat), 0x0C, 0x0D, 0x10, 0x11, 0x12, 0x14, 0x15, 0x16, 0x17, 0x0E, 0x0F, 0x13, 0x18],
      (getG (setG one 0 4 (BitVec.ofNat 64 v)) 0 4).toNat = v := by decide +kernel

theorem witness_SlotBindings :
    let desc : DWord := 0x0000000100010100
    issuer? one = some (0, task1) ∧ ((desc.getLsbD 24 = true ∨ desc.extractLsb' 32 12 ≠ task1.ctx) → Privileged one 1) ∧
      foreign one 1 1 = false ∧ badDesc one desc = false ∧ badPc 0x1000 = false ∧ badPc 0x1002 = true ∧
      badDesc one (desc ||| (1 <<< 6)) = true ∧ foreign one 1 9 = true ∧ bound one 1 0 = false ∧
      bound (modCtx one 1 (fun c => { c with binds := AMap.put c.binds 0 ⟨0x1000, 1, 1, 0⟩ })) 1 0 = true := by
  unfold Privileged; decide +kernel

/-- A launch of n tasks of slot 0 over cluster 0. -/
def launching (n : Byte) : State := block [0, 0, n, 0, 1]

theorem witness_LaunchStarts :
    let d := fun s => BitVec.ofNat 256 (blockAt s 0x1000 32)
    (getG (launching 2) 0 4).toNat % 32 = 0 ∧ BlockReadable (launching 2) task1 (getG (launching 2) 0 4) 32 0x1000 ∧
      badLaunch (launching 2) 1 (d (launching 2)) = false ∧ ((d (launching 2)).extractLsb' 16 16).toNat = 2 ∧
      (clusterAt (launching 2) 0).launchQ.length < 64 ∧ badLaunch (launching 0) 1 (d (launching 0)) = false ∧
      ((d (launching 0)).extractLsb' 16 16).toNat = 0 ∧ (coreAt (launching 0) 0).peersWritten = [] ∧
      badLaunch (block [0x40]) 1 (d (block [0x40])) = true := by unfold BlockReadable; decide +kernel

theorem witness_LaunchStarts_misaligned : (getG (setG one 0 4 0x1010) 0 4).toNat % 32 ≠ 0 := by decide +kernel

/-- The node of one page of context 1. -/
def node1 : Node :=
  { cut := false, reclaim := false, granted := false, unbacked := false, moving := false, rights := 0x1F, psize := 0, gen := 0,
    parent := some 0, children := [], owner := 0, space := 1, pages := 1, va := 0, pva := 0, remote := 0, backs := none }

/-- The mapping tree of a state with the node of its first page. -/
def rooted (n : Node) (s : State) : State :=
  { s with map := { s.map with nodes := AMap.put s.map.nodes 1 n
                               leaf3 := AMap.modify s.map.leaf3 (2 ^ 33) (fun l => { l with node := 1 }) } }

/-- A mapping request of one page from 0 of the giver to 8 MiB of context 1, with rights R and W. -/
def mapping : State :=
  setG (rooted node1 (block ([0, 0, 0, 0, 0, 0, 0, 0] ++ [0, 0, 0x80, 0, 0, 0, 0, 0] ++ [1, 0, 0, 0, 3]))) 0 5 1

theorem witness_MappingInstructions :
    let r := mapReq (viewBytes mapping 0 0x1000 32)
    let check := fun (grant : Bool) => deriveCheck mapping.map grant 1 1 (foreign mapping 1 1) false r
    issuer? mapping = some (0, task1) ∧ (getG mapping 0 4).toNat % 32 = 0 ∧ (getG mapping 0 5).toNat % 4096 = 1 ∧
      BlockReadable mapping task1 (getG mapping 0 4) 32 0x1000 ∧ mapping.map.stopped = false ∧
      check false = .inr (1, .fresh) ∧ check true = .inr (1, .fresh) ∧ r.psize = 0 ∧ 0 < r.pages := by
  unfold BlockReadable; decide +kernel

theorem witness_MappingInstructions_refused :
    let r := mapReq (viewBytes (launching 2) 0 0x1000 32)
    deriveCheck (launching 2).map false 1 1 (foreign (launching 2) 1 1) false r = .inl 0x03 ∧
      deriveCheck (launching 2).map true 1 1 (foreign (launching 2) 1 1) false r = .inl 0x03 := by decide +kernel

theorem witness_MappingInstructions_handles :
    let s := rooted node1 one
    s.map.stopped = false ∧ s.badLines = [] ∧ byHandle? s.map 5 = none ∧ byHandle? s.map 1 = some (1, node1) ∧
      owns s.map 1 1 = true ∧ isCut s.map 1 = false ∧ owns (rooted { node1 with space := 2 } one).map 1 1 = false := by
  decide +kernel

theorem witness_MappingInstructions_cut :
    let s := rooted { node1 with cut := true } one
    let u := after (exec (.unmap 6 4) (setG (rooted node1 one) 0 4 1))
    isCut s.map 1 = true ∧ unmapPending? s.map 1 = none ∧ owns s.map 1 1 = true ∧ isCut u.map 1 = true ∧
      unmapPending? u.map 1 = some 1 := by decide +kernel

/-- `one` with a capability for service 3 as entry 5 of context 1's table, and the entry's number in g4. -/
def capable (f : State → State) : State :=
  f (setG { (modCtx one 1 (fun c => { c with capBase := 0x2000 })) with mem := Mem.setBytes one.mem 0x2028 [0x31] } 0 4 5)

theorem witness_PrivetCalls :
    let s := capable (fun s => setG s 0 5 0x1000)
    issuer? s = some (0, task1) ∧ capability? s 1 (getG s 0 4) = some 0x31 ∧ (getG s 0 5).toNat % 64 = 0 ∧
      BlockReadable s task1 (getG s 0 5) 64 0x1000 ∧ capability? s 1 6 = none ∧ (getG s 0 4).toNat % 128 ≠ 0 ∧
      (getG (capable (fun s => setG s 0 5 0x1020)) 0 5).toNat % 64 ≠ 0 := by unfold BlockReadable; decide +kernel

/-- A call record at 0x1000 whose capability is entry 5, in a state. -/
def record (state : Byte) : State :=
  capable (fun s => { setG s 0 4 0x1000 with mem := Mem.setBytes s.mem 0x1000 [5, 0, 0, 0, state] })

theorem witness_PrivetCalls_slot :
    let s := record 0
    (getG s 0 4).toNat % 128 = 0 ∧ BlockReadable s task1 (getG s 0 4) 8 0x1000 ∧ blockAt s 0x1000 8 / 2 ^ 32 ≠ 1 ∧
      capability? s 1 (BitVec.ofNat 64 (blockAt s 0x1000 8 % 2 ^ 32)) = some 0x31 ∧
      (checkPage (checkPage s (coreCaches 0) 1 (getG s 0 4) rR false).1 (coreCaches 0) 1 (getG s 0 4) rW true).2 = .page 0x1000 ∧
      plainMem (0x1000 + 7) = true ∧ blockAt (record 1) 0x1000 8 / 2 ^ 32 = 1 ∧ BlockReadable (record 1) task1 (getG (record 1) 0 4) 8 0x1000 := by
  unfold BlockReadable; decide +kernel

theorem witness_CsrReads :
    issuer? one = some (0, task1) ∧ csrListed one 0x016 = false ∧
      (∀ n ∈ [0x000, 0x001, 0x002, 0x003, 0x004, 0x005, 0x006, 0x007, 0x008, 0x010, 0x021, 0x030, 0x400, 0x401, 0x402, 0x403,
        0x404, 0x405, 0x406, 0x407, 0x410, 0x411, 0x412, 0x420, 0x421, 0x430, 0x020, 0x600, 0x601, 0x602, 0x603, 0x604, 0x605, 0x606,
        0x607, 0x608, 0x609, 0x610, 0x61C, 0x61D, 0x620, 0x62F, 0x630, 0x63F, 0x640, 0x64F, 0x800], csrListed one n = true ∧ Privileged one (n / 1024)) ∧
      ∃ k ∈ active user, (privOf user k).toNat < 0x410 / 1024 := by unfold Privileged; decide +kernel

theorem witness_CsrChanges :
    active one = [0] ∧ (∀ n ∈ [0x010, 0x020, 0x410, 0x411, 0x412, 0x420, 0x421, 0x430, 0x601, 0x602, 0x603, 0x604, 0x605, 0x800],
      csrListed one n = true ∧ Privileged one (n / 1024)) ∧ csrListed one 0x016 = false ∧ featureOn one 5 = true ∧
      featureOn { one with mgmt := { one.mgmt with actFeat := 0 } } 5 = false ∧ one.pl.owner ≠ some task1.ctx := by
  unfold Privileged; decide +kernel

theorem witness_CsrChanges_limits :
    let v := fun (x : Word) => (getS (setS one 0 5 x) 0 5).toNat
    (1 ≤ v 1 ∧ v 128 ≤ 128 ∧ (v 0 = 0 ∧ 128 < v 129)) ∧ (v 32 ≤ 32 ∧ 32 < v 33) ∧
      (1 ≤ v 512 % 1024 ∧ v 512 % 1024 ≤ 512) := by decide +kernel

/-- `one` with the Pleach table owned by context 1. -/
def pleached (f : Pleach → Pleach) : State := { one with pl := f { one.pl with owner := some 1 } }

theorem witness_CsrChanges_pleach :
    let s := pleached (fun p => { p with len := 4 })
    s.pl.owner = some task1.ctx ∧ s.pl.running = false ∧ 3 % 512 < s.pl.len.toNat := by decide +kernel

theorem witness_PleachInstructions :
    let s := pleached (fun p => p)
    issuer? s = some (0, task1) ∧ Privileged s 1 ∧ s.pl.owner = some task1.ctx ∧ one.pl.owner ≠ some task1.ctx ∧
      s.pl.status = 0 ∧ (getG s 0 4).toNat < 512 ∧ (AMap.getD s.pl.entries 0 PlEntry.init).issued = none ∧
      plPeer? s s.pl.up = none ∧ plPeer? s s.pl.down = none := by unfold Privileged; decide +kernel

theorem witness_PleachInstructions_ranges :
    let g := fun v => (getG (setG one 0 4 v) 0 4).toNat
    512 ≤ g 512 ∧ g 511 < 512 ∧ 16 ≤ g 16 ∧ g 15 < 16 ∧ 64 < g 65 ∧ g 64 ≤ 64 ∧ g 6 ≤ 6 ∧ g 7 = 7 ∧ g 8 = 8 ∧ 0x10 ≤ g 0x10 ∧
      g 0x1F ≤ 0x1F ∧ 0x200 ≤ g 0x200 ∧ g 0x3FF ≤ 0x3FF ∧ 0x400 ≤ g 0x400 ∧ g 0 = 0 ∧ 16 < g 17 ∧
      getG (setG one 0 4 0x10) 0 4 &&& ~~~0x30F#64 ≠ 0 ∧ getG (setG one 0 4 0x30F) 0 4 &&& ~~~0x30F#64 = 0 := by decide +kernel

theorem witness_PleachInstructions_states :
    let s := pleached (fun p => { p with status := 1, entries := AMap.put p.entries 0 { PlEntry.init with issued := some .running } })
    s.pl.status ≠ 0 ∧ (AMap.getD s.pl.entries 0 PlEntry.init).issued = some .running := by decide +kernel

/-! ### Events of messages and tasks -/

/-- `one` with no task on its cores. -/
def idle : State := { one with tasks := [], groups := [], strands := [] }

/-- `idle` with a binding of slot 0. -/
def bound0 : State := modCtx idle 1 (fun c => { c with binds := AMap.put c.binds 0 ⟨0x1000, 0, 2, 1⟩ })

/-- `one` with context 1 in partition 0, which has cluster 0. -/
def homed : State := { one with parts := AMap.put one.parts 0 ⟨false, 1, 0, 0, 1, 8, 0, []⟩ }

def mailOf (w : Work) : List Held := [⟨w, 0, none⟩]

/-- `message1` from the router of its receiver. -/
def nearby : Message := { message1 with agent := .core 0, landed := true }

theorem witness_MessageDelivery_arrival :
    let s := { homed with mesh := [nearby] }
    s.mesh[0]? = some nearby ∧ nearby.landed = true ∧ (∀ x ∈ s.mesh.take 0, x.landed = false) ∧
      nearby.kind = .task ∧ nearby.peer = none ∧ nearby.origin.window = none ∧ noSuchCtx s nearby = false ∧
      (ctxAt? s 1).isSome = true ∧ behindHeld s nearby = false ∧
      ¬(resident s 0 1 = false ∨ (∃ c ∈ s.ctxs, ∃ x ∈ c.2.ovf, x.2.core = 0) ∨ nearby.vnet = .reply ∧ 128 ≤ (mailbox s 0 1).length) ∧
      ¬AMap.getD (coreAt s 0).mboxLim 1 128 + 0 ≤ (mailbox s 0 1).length := by
  decide +kernel

/-- One for a context that is off the part, with room in its ring and without; a reply that finds its mailbox full and its ring
too, and one behind it; and a PAGEREQ that finds its 144 places full. -/
theorem witness_MessageDelivery_arrival_elsewhere :
    let ring := fun n => modCtx { homed with mesh := [nearby] } 1 (fun c => { c with clusters := [], ovfLog := 1, ovf := n })
    let full := modCore homed 0 (fun c => { c with mbox := AMap.put c.mbox 1 (List.replicate 144 ⟨.message message1, 0, none⟩) })
    let reply : Message := { nearby with vnet := .reply, id := 0x10000000 }
    let part : Message := { nearby with supv := true, id := 0x60000000 }
    resident (ring []) 0 1 = false ∧ ((ctxAt? (ring []) 1).map overflowRoom) = some true ∧
      ((ctxAt? (modCtx (ring [(0, nearby), (1, nearby)]) 1 (fun c => { c with ovfIndex := 2 })) 1).map overflowRoom) = some false ∧
      AMap.getD (coreAt full 0).mboxLim 1 128 + 16 ≤ (mailbox full 0 1).length ∧ noSuchCtx full part = false ∧
      behindHeld (modCtx full 1 (fun c => { c with routerHeld := [reply] })) reply = true ∧ part.id.toNat / 2 ^ 28 = 6 := by
  decide +kernel

/-- A message of core 0 for core 8, whose router is the next one east, waits at router 0; the output is free, or passes
another message, or has none to pass. -/
theorem witness_MessageDelivery_mesh :
    let m : Message := { message1 with agent := .core 0, core := 8, seat := some ⟨0, none⟩ }
    let s := { one with mesh := [m] }
    let busy := { s with routers := [(1, ⟨none, [], 9⟩)] }
    ¬s.now < (routerOut s (0 * 8 + 1)).freeAt ∧ waitingFor s 0 0 1 = [(0, m)] ∧ waitingFor one 0 0 1 = [] ∧
      busy.now < (routerOut busy (0 * 8 + 1)).freeAt ∧ nextRouter m.exit 0 = some 1 ∧
      waitingFor { s with mesh := [{ m with core := 0 }] } 0 0 4 ≠ [] := by decide +kernel

theorem witness_MessageDelivery_noctx :
    let m := { message1 with ctx := 9 }
    noSuchCtx one m = true ∧ m.id.toNat / 2 ^ 28 = 0 ∧ m.origin.peer = none ∧ noSuchCtx one { m with id := 0x20000000 } = true ∧
      ({ m with id := 0x20000000 } : Message).id.toNat / 2 ^ 28 ≠ 0 := by decide +kernel

theorem witness_MessageDelivery_full :
    let s := modCore one 0 (fun c => { c with mbox := AMap.put c.mbox 1 (List.replicate 128 ⟨.message message1, 0, none⟩) })
    AMap.getD (coreAt s 0).mboxLim 1 128 + 0 ≤ (mailbox s 0 1).length ∧ message1.vnet ≠ .reply ∧ message1.supv = false := by
  decide +kernel

theorem witness_MessageDelivery_injection :
    let s := modCore one 0 (fun c => { c with sendReq := [message1] })
    let e := (message1.local s.fab.self).entered
    (sendOrder (coreAt s 0).sendTurn).find? (fun e => !(sendQ (coreAt s 0) e.2).isEmpty) = some (2, .req) ∧
      sendQ (coreAt s 0) .req = message1 :: [] ∧ hasRoom s.mesh e = true ∧ hasRoom (List.replicate 8 e) e = false := by
  decide +kernel

theorem witness_MessageDelivery_timeout :
    let s := { (modCore one 0 (fun c => { c with sendReq := List.replicate 32 message1 })) with
      now := 4096, strands := AMap.put one.strands 0 { placedStrand with wait := .cond (.sendRoom 0 .req 7) 0 } }
    taskOfGroup? s 0 = some (0, task1) ∧ task1.work = .message message1 ∧
      (strandAt s (0 * 32 + 0)).wait = .cond (.sendRoom 0 .req 7) 0 ∧ 0 + 4096 ≤ s.now ∧
      (coreAt s 0).sqLim ≤ (sendQ (coreAt s 0) .req).length := by decide +kernel

theorem witness_MessageDelivery_unbound :
    let s := { (modCore one 0 (fun c => { c with mbox := AMap.put c.mbox 1 (mailOf (.message message1)) })) with now := 2 ^ 20 + 1 }
    bound s 1 0 = false ∧ (∃ h ∈ (mailbox s 0 1).filter (fun h => h.work.forSlot 0), h.since + 2 ^ 20 < s.now) ∧
      AMap.get? (coreAt s 0).unbound (1 * 64 + 0) = none := by decide +kernel

theorem witness_MessageDelivery_refill :
    let s := modCtx one 1 (fun c => { c with ovf := [(0, message1)] })
    ((ctxAt? s 1).bind (fun c => c.ovf.find? (fun x => x.2.core == 0))) = some (0, message1) ∧ resident s 0 1 = true ∧
      (mailbox s 0 1).length < AMap.getD (coreAt s 0).mboxLim 1 128 + (if ofPart message1 = true then 16 else 0) := by decide +kernel

theorem witness_MessageDelivery_monitor :
    let x := { placedStrand with wait := .monitor (.global 3) 0 }
    let s := { one with now := 65536, strands := AMap.put one.strands 0 x }
    AMap.get? s.strands 0 = some x ∧ 0 + 65536 ≤ s.now := by decide +kernel

theorem witness_TaskLife_dequeue :
    let s := modCore bound0 0 (fun c => { c with mbox := AMap.put c.mbox 1 (mailOf (.message message1)) })
    admitting? s 0 = some 1 ∧ nextFork? s 0 1 = none ∧ nextMail? s 0 1 = some ⟨.message message1, 0, none⟩ ∧
      bindingFor? s 1 (.message message1) = some ⟨0x1000, 0, 2, 1⟩ ∧
      fits? s 0 (issuingBank s 0) (2 ^ 0) 2 = some ⟨0, [0], 0⟩ := by decide +kernel

theorem witness_TaskLife_dequeue_not_fork : ∀ f, Work.message message1 ≠ .fork f := fun _ h => Work.noConfusion h

/-- Forked work of context 1 with two lanes. -/
def fork1 : ForkImage :=
  { ctx := 1, lanes := [(0, ⟨[], 0x80, 0, 0⟩), (5, ⟨[], 0x80, 0, 0⟩)], g := [], h := [], pc := 0x40, id := 0x90000000, domain := 1,
    home := 0, off := 0, core := 0 }

/-- `idle` with the forked work in the deque of core 0. -/
def forked : State := modCore idle 0 (fun c => { c with deque := AMap.put c.deque 1 (mailOf (.fork fork1)) })

theorem witness_TaskLife_fork :
    admitting? forked 0 = some 1 ∧ fork1.ctx = 1 ∧ fits? forked 0 (issuingBank forked 0) 1 0 = some ⟨0, [0], 0⟩ ∧
      nextFork? forked 0 1 = some ⟨.fork fork1, 0, none⟩ := by decide +kernel

theorem witness_TaskLife_steal :
    admitting? forked 1 = some 1 ∧ (fits? forked 1 (issuingBank forked 1) 1 0).isSome = true ∧ nextFork? forked 1 1 = none ∧
      nextMail? forked 1 1 = none ∧ (clusterShare? forked (1 / 8) 1).isSome = true ∧
      (choosePlace forked.determActive (weightOf forked) false ((coresOf forked 1).filter (fun v => (stealable? forked 1 v 1).isSome))
        (coreAt forked 1).stealPlace).map (·.1) = some 0 ∧ stealable? forked 1 0 1 = some (⟨.fork fork1, 0, none⟩, fork1) := by
  decide +kernel

theorem witness_TaskLife_ending :
    let s := modStrand one 0 (fun x => { x with wait := .exited })
    AMap.get? s.tasks 0 = some task1 ∧ (∀ k ∈ strandsOfTask task1, (strandAt s k).wait = .exited) ∧ taskBusy s task1 = false ∧
      task1.held = [] := by decide +kernel

theorem witness_TaskLife_placing :
    let i : LaunchItem := ⟨1, 1, 0, 0, 0, 0x80000000, 0⟩
    let s := modCluster idle 0 (fun c => { c with launchQ := [(1, [i], 1)] })
    (clusterAt s 0).launchQ = (1, i :: [], 1) :: [] ∧ (ctxAt? s i.ctx).isSome = true ∧
      ((ctxAt? s i.ctx).bind (fun x => choosePlace s.determActive (weightOf s) true (launchCores s i.ctx 1) x.launchPlace)).map
        (·.1) = some 0 ∧ launchRoom s i.ctx 1 = true ∧ mailFull s 0 i.ctx = false := by decide +kernel

/-! ### Page requests, replays, coppicing, invalidation and migration -/

theorem witness_PageRequestsAndReplays_message :
    let r : PageReq := ⟨2, .unmapped, .read, 1, 1, none⟩
    let s := modCtx one 1 (fun c => { c with pageQ := [r] })
    let coming := { s with mesh := [pageMessage s r] }
    let full := modCore s 0 (fun c => { c with mbox := AMap.put c.mbox 1 (List.replicate 144 ⟨.message message1, 0, none⟩) })
    ((ctxAt? s 1).map (·.pageQ)) = some (r :: []) ∧ ((ctxAt? s r.dest).map (fun d => (pagePlace s d (pageMessage s r), d.pageQNot))) =
      some (true, 0) ∧ partComing s (pageMessage s r) = false ∧ 0 ≤ s.now ∧ partComing coming (pageMessage coming r) = true ∧
      ((ctxAt? full r.dest).map (fun d => pagePlace full d (pageMessage full r))) = some false := by decide +kernel

theorem witness_PageRequestsAndReplays_ring :
    let r : PageReq := ⟨2, .unmapped, .read, 1, 1, none⟩
    let s := modWindow one 3 (fun w => { w with pageQ := [r], prqSize := 4 })
    (windowAt s ((3 : CtxId).setWidth 6)).pageQ = r :: [] ∧
      ringRoom (windowAt s 3).prqTail (windowAt s 3).prqHead (windowAt s 3).prqSize = true := by decide +kernel

/-- A parked load of a word at address 8 by the strand of `one`. -/
def parked1 : Entry :=
  { kind := .load, ea := 8, data := [], size := 2, aop := 0, fl := 0, d := 4, sign := false, strand := 0,
    order := 0, away := ⟨0, .unmapped, 1, none, none, false⟩, ctx := 1, uid := 1, taskId := 0, msgId := 0, discarded := false,
    sent := false }

theorem witness_PageRequestsAndReplays_replay :
    let s := { one with replays := [⟨1, [0], .nobody⟩] }
    (∃ r ∈ s.replays, r.ctx = 1 ∧ 0 ∈ r.cores) ∧ ∀ e ∈ (coreAt s 0).parked ++ (coreAt s 0).sidelog, e.ctx ≠ 1 := by decide +kernel

theorem witness_PageRequestsAndReplays_parked :
    let s0 := { one with replays := [⟨1, [0], .nobody⟩], strands := AMap.put one.strands 0 { placedStrand with wait := .fault } }
    let s := modCore s0 0 (fun c => { c with parked := [parked1] })
    (coreAt s 0).parked = [parked1] ∧ (coreAt s 0).sidelog = [] ∧ parked1.kind = .load ∧ entryStrand? s parked1 = some 0 ∧
      (AMap.get? s.strands 0).isSome = true ∧ sideOnLine s 0 (parked1.line s) = false ∧ s.badLines = [] ∧
      (checkPage s (coreCaches 0) 1 8 parked1.right parked1.writes).2 = .page 8 ∧ plainMem 8 = true ∧ 8 % 128 + 4 ≤ 128 := by
  decide +kernel

/-- `one` with its strand parked for 50,000 cycles, a message that wants window space and a free frame at 1 MiB in the
coppice list. -/
def crowded : State :=
  let s := modCtx one 1 (fun c => { c with binds := AMap.put c.binds 0 ⟨0x1000, 0, 2, 1⟩, coppiceList := 0x3000 })
  let s := modCore s 0 (fun c => { c with mbox := AMap.put c.mbox 1 (mailOf (.message message1)), parked := [parked1] })
  { s with
    now := 50000, groups := AMap.put one.groups 0 ⟨0, 0, 0, some 0, none, none⟩, strands := AMap.put one.strands 0 { placedStrand with wait := .fault }
    mem := Mem.setBytes one.mem 0x3000 [1, 0, 0x10]
    map := { one.map with
      leaf3 := AMap.put (AMap.put one.map.leaf3 (2 ^ 33 + 2) { placedLeaf with frame := 2 }) (2 ^ 33 + 3) { placedLeaf with frame := 3 } } }

theorem witness_PageRequestsAndReplays_coppice :
    wantsRoom crowded 0 = true ∧ stoppingOn? crowded 0 = none ∧ chooseCoppice crowded 0 = some (0, task1, false) ∧
      AMap.get? crowded.tasks 0 = some task1 := by decide +kernel

/-- `crowded` with its task chosen. -/
def chosen : Task := { task1 with stopping := true }
def stopped : State := { crowded with tasks := AMap.put crowded.tasks 0 chosen }

theorem witness_PageRequestsAndReplays_saved :
    let out := takeFrame 1 0x3000 256 0 (publish stopped 0)
    wantsRoom stopped 0 = true ∧ stoppingOn? stopped 0 = some (0, chosen) ∧ (eligible stopped chosen).isSome = true ∧
      settled stopped chosen = true ∧ ((ctxAt? stopped 1).map (·.coppiceList)) = some 0x3000 ∧ out.2 = some (0, 0x100000) ∧
      (takeFrame 1 0x4000 256 0 (publish stopped 0)).2 = none ∧
      settled { stopped with queues := AMap.put stopped.queues 0 ⟨[copy1], none⟩ } chosen = false := by decide +kernel

/-- `idle` with the task of `one` saved and at the head of the re-admission queue. -/
def away : State :=
  let c : Coppiced :=
    { task := task1, frame := 0x100000, entry := 0, cluster := 0, core := 0, parked := [], sidelog := [],
      strands := [(0, placedStrand)], groups := [⟨0, 0, 0, none, none, none⟩], fork := none, saved := true, bytes := [(6, 1)],
      hold := [], frameAbsent := false }
  modCluster (modCtx idle 1 (fun x => { x with coppiced := [(1, c)] })) 0 (fun c => { c with readmit := [1] })

def awayTask : Option Coppiced := (coppicedBy? away 1).map (·.2)

/-- The bytes of its frame: one group, no window, no entries. -/
def awayBytes (off n : Nat) : Nat := Mem.nat [(6, 1)] off n

theorem witness_PageRequestsAndReplays_readmission :
    let fit := fitsAway? away 1 (frameGroups awayBytes) (frameUnits awayBytes)
    (clusterAt away 0).readmit = 1 :: [] ∧ (coppicedBy? away 1).map (·.1) = some 1 ∧ preempted away 0 1 = false ∧
      awayTask.map (fun c => (c.saved, c.bytes)) = some (true, [(6, 1)]) ∧
      (choosePlace away.determActive (weightOf away) true
        (((List.range 8).map (fun i => 0 * 8 + i)).filter (fun j => (fit j).isSome && hasPlaces away awayBytes j))
        (clusterAt away 0).readmitPlace).map (·.1) = some 0 ∧
      (fit 0).isSome = true ∧ awayBytes 0x18 2 = 0 ∧ awayBytes 0x1A 2 = 0 ∧
      ∀ e ∈ (coreAt away 0).parked ++ (coreAt away 0).sidelog, e.uid ≠ 1 := by decide +kernel

/-- A state whose UNMAP of node 1 waits for its invalidation. -/
def unmapping : State := after (exec (.unmap 6 4) (setG (rooted node1 one) 0 4 1))

def inval1 : Option Inval := unmapping.map.invals.head?

theorem witness_MappingEvents_invalidation :
    unmapping.badLines = [] ∧ unmapping.map.migrations = [] ∧ unmapping.map.stopped = false ∧ (∀ x ∈ unmapping.map.invals, x.sent = true → x.kind ≠ .unmap ∧ x.kind ≠ .grant) ∧
      unmapping.map.invals.find? (fun x => !x.sent) = inval1 ∧ inval1.map (·.kind) = some .unmap ∧
      (AMap.get? unmapping.map.leaf3 (2 ^ 33)).isSome = true ∧ (nodeAt? unmapping.map 1).isSome = true := by decide +kernel

/-- As `unmapping`, with one acknowledgement to come. -/
def lastAck : State :=
  let s := after (exec .invalidation unmapping)
  { s with map := { s.map with invals := s.map.invals.map (fun v => { v with acks := [256] }) } }

theorem witness_MappingEvents_acknowledgement :
    (lastAck.map.invals.find? (fun x => x.sent && x.acks.contains 256 &&
        !((fillsFrom? 256).map x.acks.contains).getD false)).isSome = true ∧
      lastAck.map.invals.map (fun v => (v.acks, v.peers, v.kind, v.reply)) =
        [([256], [], .unmap, .group 0 unmapping.map.nextRequest.pred 6)] ∧ lastAck.map.invals.map (·.after) = [[]] ∧
      lastAck.map.heldUnmaps = [] ∧ (strandAt lastAck 0).wait = .reply unmapping.map.nextRequest.pred := by decide +kernel

theorem witness_MappingEvents_reclaim :
    let s := after (exec (.shootdownAck 256) lastAck)
    s.map.reclaims = 1 :: [] ∧ s.map.stopped = false ∧ s.badLines = [] ∧ s.map.heldMaps = [] ∧ withdrawn s.map 1 = [1] ∧ (nodeAt? s.map 1).isSome = true := by
  decide +kernel

/-- A migration of the page of node 1 from frame 0 to frame 8, at a stage. -/
def migration1 (st : MigStage) : Migration := ⟨1, 1, 0, 0, 8, st, .host 0 0, none⟩

def migrating (st : MigStage) : State :=
  let s := rooted node1 one
  { s with map := { s.map with migrations := [migration1 st] } }

theorem witness_MappingEvents_migration_protect :
    let s := migrating .queued
    s.badLines = [] ∧ s.map.stopped = false ∧ s.map.migrations.find? (startable s) = some (migration1 .queued) ∧
      newFrame? s (migration1 .queued) = some 8 ∧ (nodeAt? s.map 1).isSome = true := by decide +kernel

theorem witness_MappingEvents_migration_switch :
    let s := migrating .copying
    MemoriesCanonical s ∧ (∀ e ∈ s.ctxs, e.2.coppiced = []) ∧ s.images = [] ∧ s.map.stopped = false ∧ s.badLines = [] ∧
      s.map.migrations.find? (fun g => g.stage == .copying && movable s g && !frameHeld s g &&
        (frameAddr? s g.space g.oldFrame).isSome && (frameAddr? s g.space g.newFrame).isSome) = some (migration1 .copying) ∧
      frameAddr? s 1 0 = some 0 ∧ frameAddr? s 1 8 = some (8 * 2 ^ 19) ∧ plainMem 0 = true ∧ plainMem (8 * 2 ^ 19) = true := by
  unfold MemoriesCanonical; decide +kernel

theorem witness_MappingEvents_migration_release :
    let s := migrating .switched
    s.map.migrations.find? (fun g => g.stage == .switched && g.ended.isNone &&
      !s.map.invals.any (fun v => v.kind == .release && v.node == g.node)) = some (migration1 .switched) := by decide +kernel

/-! ### Copy engines and matrix engines -/

/-- `one` with a copy at the head of queue 0 of cluster 0. -/
def copying (c : Copy) : State := { one with queues := AMap.put one.queues 0 ⟨[c], none⟩ }

theorem witness_CopyRuns_empty :
    let c := { copy1 with shape := 9 }
    queueAt (copying c) 0 = ⟨c :: [], none⟩ ∧ copyReady c = true ∧ shLen c.shape = 0 := by decide +kernel

theorem witness_CopyRuns_window :
    queueAt (copying copy1) 0 = ⟨copy1 :: [], none⟩ ∧ copyReady copy1 = true ∧ savedOff (copying copy1) copy1.tok.uid = false ∧
      savedOff { copying copy1 with ctxs := away.ctxs } copy1.tok.uid = true ∧ shLen copy1.shape ≠ 0 ∧ shXform copy1.shape = 0 ∧
      copyPeer? (copying copy1) copy1.shape = none ∧ shSrc copy1.shape = 1 ∧ shDst copy1.shape = 1 ∧
      sideBase? (copying copy1) copy1 0 1 = some (false, 0) := by decide +kernel

theorem witness_CopyRuns_global :
    let c := { copy1 with shape := 0x400000000000000008 }
    let a := (runAddr c.shape false c.src 0 0).toNat
    shSrc c.shape = 0 ∧ (checkPage (copying c) [288] c.ctx (BitVec.ofNat 64 a) rR false).2 = .page 0 ∧ a < 2 ^ 64 ∧
      a % 2 ^ 19 + 64 ≤ 2 ^ 19 ∧ plainMem 0 = true ∧ plainMem (0 + (64 - 1)) = true ∧ (copying c).badLines = [] := by
  decide +kernel

theorem witness_CopyRuns_end :
    let c := { copy1 with done := true }
    queueAt (copying c) 0 = ⟨c :: [], none⟩ ∧ c.done = true ∧ c.peerOut = 0 ∧ c.tok.uid ≠ 0 ∧ tokGroup? (copying c) c.tok = some 0 := by
  decide +kernel

/-- A record of context 1 with some words. -/
def recordOf (w : BitVec 512) : Record := ⟨w, none, ⟨1, 0, 3⟩, 1, 0, 0, 0⟩

theorem witness_EngineRecords_handed :
    let s := { one with posts := AMap.put one.posts 0 [recordOf 2] }
    AMap.getD s.posts 0 [] = recordOf 2 :: [] ∧ engineFor? s 0 [] (recordOf 2) = some 0 := by decide +kernel

/-- A record as an engine begins it. -/
def running (w : BitVec 512) : Running := Running.start (recordOf w)

/-- `one` with a record executing on engine 0. -/
def executing (q : Running) : State := { one with engines := AMap.put one.engines 0 { engineAt one 0 with executing := some q } }

/-- KIND, and A format E4M3 or W format E4M3 in the first word. -/
theorem witness_EngineRecords_planes :
    (engineAt (executing (running 0x30000001)) 0).executing = some (running 0x30000001) ∧ (running 1).done = false ∧
      rcKind 0x30000001 = 1 ∧ rcKind 2 = 2 ∧ one.badOps = [] ∧
      rcBsrc 0x30000001 + 256 * 64 ≤ (operandsOf (executing (running 0x30000001)) 0 1).size := by decide +kernel

/-- `one` with a plane of E4M3 active and the record executing. -/
def streaming (w : BitVec 512) : State :=
  { one with engines := AMap.put one.engines 0 { engineAt one 0 with
      executing := some (running w), active := { (engineAt one 0).active with wfmt := 3, bad := false } } }

theorem witness_EngineRecords_stream :
    let x := engineAt (streaming 0x3000003) 0
    rcKind 0x3000003 = 3 ∧ x.active.bad = false ∧ pairs (rcAfmt 0x3000003) x.active.wfmt.toNat = true ∧ x.badCells = [] ∧
      (streaming 0x3000003).badOps = [] ∧
      (let y := engineAt (executing (running 0x3000003)) 0
       y.active.bad = true ∨ pairs (rcAfmt 0x3000003) y.active.wfmt.toNat = false) := by decide +kernel

/-- A GEMM of one chunk of one row that accumulates, with E4M3 operands. -/
def gemm1 : BitVec 512 := 4 ||| (1 <<< 14) ||| (3 <<< 24) ||| (3 <<< 28) ||| (1 <<< 296) ||| (1 <<< 304)

theorem witness_EngineRecords_gemm :
    let s := executing (running gemm1)
    let l := loadPlane s (operandsOf s 0 1) gemm1 0 (engineAt s 0).shadow
    (engineAt s 0).draining = none ∧ (running gemm1).streamed = false ∧ rcKind gemm1 = 4 ∧ rcNk gemm1 = 1 ∧ rcAcc gemm1 = true ∧ rcDrn gemm1 = false ∧ rcRows gemm1 = 1 ∧ l.2 = false ∧
      pairs (rcAfmt gemm1) l.1.wfmt.toNat = true := by decide +kernel

/-- A DRAIN of one row of FP32 to CLUWIN. -/
def drain1 : BitVec 512 := 5 ||| (1 <<< 296) ||| (1 <<< 448)

theorem witness_EngineRecords_drain :
    let s := executing (running drain1)
    (engineAt s 0).executing = some (running drain1) ∧ (running drain1).done = false ∧ (running drain1).drained = 0 ∧
      (running drain1).rowOut = [] ∧ (engineAt s 0).draining = none ∧ (running drain1).stopped = none ∧ rcKind drain1 = 5 ∧ rcDsp drain1 = 1 ∧ isKX (rcDfmt drain1) = false ∧ rcRows drain1 = 1 ∧
      (engineAt s 0).badCells = [] ∧ clusterShare? s (0 / 16) 1 = some (0, 0x800000, false) := by decide +kernel

theorem witness_EngineRecords_end :
    let q := { running 2 with done := true }
    let s := executing q
    (engineAt s 0).executing = some q ∧ q.done = true ∧ tokGroup? s q.record.tok = some 0 ∧
      counterShare? s (0 / 16) 1 = some (0, 4096) := by decide +kernel

/-! ### Scheduling, contexts and the Pleach table -/

theorem witness_SchedulingEvents_resident :
    (clusterAt (modCluster one 0 (fun c => { c with resident := true })) 0).resident = true := by decide +kernel

theorem witness_SchedulingEvents_determinism :
    let s := { idle with determEn := true }
    s.determEn ≠ s.determActive ∧ s.tasks = [] ∧ s.mesh = [] := by decide +kernel

theorem witness_SchedulingEvents_preemption :
    (ctxAt? homed 1).map (·.clusters) = some [0] ∧ (1 : BitVec 32).getLsbD (0 : ClusterId).toNat = true := by decide +kernel

/-- `homed` with a slice of 1 µs for context 1, used up. -/
def sliced (resident : Bool) : State :=
  let s := modCtx homed 1 (fun c => { c with sliceCycles := 800 })
  { s with parts := AMap.put s.parts 0 ⟨resident, 1, 0x4000, 0, 1, 8, 0, List.replicate 0x100 0 ++ [1]⟩ }

theorem witness_SchedulingEvents_slice :
    ∀ r, ((ctxAt? (sliced r) 1).map (fun c => sliceUsed (sliced r) c 1)) = some true ∧ residentPart (sliced r) 1 = r := by
  decide +kernel

/-- `one` with a task that has a budget and none of it left. -/
def spent (trap : Bool) : Task := { task1 with budgetOn := true, budgetLeft := 0, expired := false, budgetTrap := trap }

def late (trap : Bool) : State := { one with tasks := AMap.put one.tasks 0 (spent trap) }

theorem witness_SchedulingEvents_budget :
    ∀ b, AMap.get? (late b).tasks 0 = some (spent b) ∧ (spent b).budgetOn = true ∧ (spent b).budgetLeft = 0 ∧
      (spent b).expired = false ∧ (spent b).budgetTrap = b ∧ preempted (late b) (0 / 32 / 8) 1 = false ∧
      (strandsOfTask (spent b)).find? (fun k => (strandAt (late b) k).wait != .exited) = some 0 ∧
      preempted (modCluster (late b) 0 (fun c => { c with preempt := [1] })) 0 1 = true := by decide +kernel

theorem witness_SchedulingEvents_save :
    let t := { task1 with saving := true }
    let s := { one with tasks := AMap.put one.tasks 0 t }
    AMap.get? s.tasks 0 = some t ∧ t.saving = true ∧ (∀ k ∈ strandsOfTask t, (strandAt s k).locks = []) ∧ awaits s t = false ∧
      copiesRun s t.uid = false ∧ tilesRun s t = false ∧ (ctxAt? s t.ctx).isSome = true := by decide +kernel

/-- `idle` with context 1 about to be saved to an image of a kind and of n bytes at 0x100000. -/
def savable (k n : Nat) : State :=
  modCluster (modCtx idle 1 (fun c => { c with plan := some ⟨k, false, .nobody⟩, imageBase := 0x100000, imageSize := n })) 0
    (fun c => { c with preempt := [1] })

/-- The state and the context whose image is taken, and the image's bytes. -/
def saving (k n : Nat) : State :=
  (coresIn [0]).foldl (fun s k => acquire (publish s k) k) (modCtx (savable k n) 1 (fun c => { c with vtFrozen := true }))

def savedCtx (k n : Nat) : Ctx := { (((ctxAt? (savable k n) 1)).getD (Ctx.fresh 0)) with vtFrozen := true }

def imageBytes (k n : Nat) : Nat := 0x80 + (imageBody (imageOf (saving k n) 1 (savedCtx k n) k)).length

/-- The image of a context of one cluster with nothing in flight fits into 1 GiB. -/
theorem witness_SchedulingEvents_image_fits : imageBytes 2 0x40000000 ≤ (savedCtx 2 0x40000000).imageSize := by
  let i := imageOf (saving 2 0x40000000) 1 (savedCtx 2 0x40000000) 2
  have m := getD_nil i.mail (by decide +kernel)
  have d := getD_nil i.deques (by decide +kernel)
  have h := imageBody_small i (by decide +kernel) (by decide +kernel) (by decide +kernel) (by decide +kernel) m d
    (by decide +kernel) (by decide +kernel) (by decide +kernel)
  have e : (savedCtx 2 0x40000000).imageSize = 0x40000000 := by decide +kernel
  rw [e]; show 0x80 + (imageBody i).length ≤ _; omega

/-- A SLICE image too. -/
theorem witness_SchedulingEvents_slice_fits : imageBytes 1 0x40000000 ≤ (savedCtx 1 0x40000000).imageSize := by
  let i := imageOf (saving 1 0x40000000) 1 (savedCtx 1 0x40000000) 1
  have m := getD_nil i.mail (by decide +kernel)
  have d := getD_nil i.deques (by decide +kernel)
  have h := imageBody_small i (by decide +kernel) (by decide +kernel) (by decide +kernel) (by decide +kernel) m d
    (by decide +kernel) (by decide +kernel) (by decide +kernel)
  have e : (savedCtx 1 0x40000000).imageSize = 0x40000000 := by decide +kernel
  rw [e]; show 0x80 + (imageBody i).length ≤ _; omega

theorem witness_SchedulingEvents_image :
    ∀ k ∈ [1, 2], let s := savable k 0x40000000
    ((ctxAt? s 1).map (fun c => (c.plan.isSome, c.stuck, c.clusters))) = some (true, false, [0]) ∧ tasksOf s 1 = [] ∧
      allLanded s 1 = true ∧ ((ctxAt? s 1).bind (·.plan)).map (fun p => (p.kind, p.resume, p.reply)) = some (k, false, .nobody) ∧
      preempted s 0 1 = true ∧ plainMem 0x100000 = true ∧ s.badLines = [] := by decide +kernel

/-- An image of context 1 for one cluster, without sections. -/
def image1 : Image :=
  { kind := 2, ctxid := 1, ctx := Ctx.fresh 0, resident := false, ncl := 1, tasks := [], copies := [], halts := [], mail := [],
    deques := [], limits := [], claims := [], engines := [], bars := [], cluwin := [], opmem := [], pcs := [], pl := none, readmit := [],
    digest := shake256 [] }

/-- `homed` with context 1 off its cluster and that image at 0x100000. -/
def restorable : State :=
  let s := modCluster (modCtx { homed with tasks := [], groups := [], strands := [] } 1 (fun c => { c with clusters := [] })) 0
    (fun c => { c with lower := none })
  let header := bytesOf 4 0x4D494856 ++ bytesOf 4 1 ++ bytesOf 8 2 ++ bytesOf 16 0 ++ bytesOf 8 0x80 ++ bytesOf 24 0x80 ++
    bytesOf 64 (shake256 []).toNat
  { s with images := [(0x100000, image1)], mem := Mem.setBytes s.mem 0x100000 header }

theorem witness_SchedulingEvents_restore :
    loadable? restorable (0x100000 : BitVec 44).toNat = some image1 ∧ (ctxAt? restorable 1).map (·.clusters) = some [] ∧
      (clustersOf 1).length = image1.ncl ∧ residentPart restorable 1 = image1.resident ∧
      ∀ x ∈ clustersOf 1, canOwn restorable 1 x = true := by decide +kernel

/-- `idle` with context 1 as the owner of a running table whose first entry has some bits. -/
def walking (b : BitVec 128) : State :=
  let s := modCtx idle 1 (fun c => { c with binds := AMap.put c.binds 0 ⟨0x1000, 0, 2, 1⟩ })
  { s with pl := { s.pl with owner := some 1, running := true, entries := [(0, { PlEntry.init with bits := b })] } }

theorem witness_PleachAtWork_walk :
    let s := walking (1 <<< 96)
    s.pl.owner = some 1 ∧ placedMask s 1 ≠ 0 ∧ s.pl.stalled = [] ∧ (∀ x ∈ s.pl.entries, x.2.issued ≠ some .restart) ∧
      s.pl.status = 0 ∧ s.pl.running = true ∧ (plEntry s ((0 + 1) % s.pl.len.toNat)).overtaken = false := by decide +kernel

theorem witness_PleachAtWork_issue :
    let s := walking (1 <<< 96)
    let e := plEntry s 0
    invalidEntry s 1 e.bits = false ∧ enKind e.bits ≠ 4 ∧ stallOf? s 1 e = none ∧
      entryBinding? s 1 e.bits = some ⟨0x1000, 0, 2, 1⟩ ∧
      (choosePlace s.determActive (weightOf s) true (entryCores s 1 e.bits ⟨0x1000, 0, 2, 1⟩) s.pl.place).map (·.1) = some 0 ∧
      (fits? s 0 (issuingBank s 0) (2 ^ 0) 2).isSome = true := by decide +kernel

theorem witness_PleachAtWork_invalid : invalidEntry (walking 0) 1 (plEntry (walking 0) 0).bits = true := by decide +kernel

theorem witness_PleachAtWork_no_task :
    let s := walking (4 <<< 71)
    let e := plEntry s 0
    invalidEntry s 1 e.bits = false ∧ e.issued = none ∧ enKind e.bits = 4 ∧ enHlt e.bits = false := by decide +kernel

theorem witness_PleachAtWork_input :
    let s := walking ((1 <<< 96) ||| (1 <<< 62))
    let e := plEntry s 0
    invalidEntry s 1 e.bits = false ∧ stallOf? s 1 e = some .input ∧ canOvertake s 1 1 = false ∧
      stallPreempt s 1 e.bits = false ∧ stallFault s 1 = false := by decide +kernel

theorem witness_PleachAtWork_halted :
    let s := walking (1 <<< 96)
    ({ s.pl with status := 1 } : Pleach).status ≠ 0 ∧ ({ s.pl with running := false } : Pleach).running = false := by decide +kernel

/-- An entry with an output, whose task has ended. -/
def ended (out : Nat) : State :=
  let s := walking ((1 <<< 96) ||| (BitVec.ofNat 128 out <<< 60))
  { s with pl := { s.pl with entries := AMap.modify s.pl.entries 0 (fun e => { e with issued := some (.ended 0 0 0 0) }) } }

theorem witness_PleachAtWork_end :
    ∀ o ∈ ([0, 1, 2, 3] : List Nat), let s := ended o
      (plEntry s 0).issued = some (.ended 0 0 0 0) ∧ s.pl.owner.isSome = true ∧ enAsend (plEntry s 0).bits = false ∧
      enIn (plEntry s 0).bits = 0 ∧ enStop (plEntry s 0).bits ≠ 2 ∧ s.fab.releases = [] ∧ (coreAt s 0).peersWritten = [] ∧
      (enOut (plEntry s 0).bits).toNat = o ∧ plPeer? s s.pl.down = none ∧ plPeer? s s.pl.up = none ∧
      (s.pl.arrG.getD (enTstage (plEntry s 0).bits).toNat []).length < 16 := by decide +kernel

theorem witness_PleachAtWork_messages :
    let m := { message1 with kind := .slotgive 3 true false 9, landed := true }
    let a := { m with kind := .arrive 3 true 0 }
    let s := fun (x : Message) => { pleached (fun p => p) with mesh := [{ x with landed := false }, x] }
    ∀ x ∈ [m, a], (s x).mesh[1]? = some x ∧ x.landed = true ∧ x.peer = none ∧ (∀ y ∈ (s x).mesh.take 1, y.landed = false) ∧
      (s x).pl.owner.isSome = true ∧ featureOn (s x) 1 = true ∧ one.pl.owner = none ∧
      ((s x).pl.arrG.getD (3 : BitVec 4).toNat []).length < 16 := by decide +kernel

theorem witness_PleachAtWork_overrun :
    let s := pleached (fun p => { p with credG := List.replicate 16 16, arrG := List.replicate 16 (List.replicate 16 .turn) })
    16 < s.pl.credG.getD (3 : BitVec 4).toNat 0 + (9 : BitVec 5).toNat ∧
      16 ≤ (s.pl.arrG.getD (3 : BitVec 4).toNat []).length := by decide +kernel

theorem witness_PleachAtWork_clear :
    let s := pleached (fun p => p)
    s.pl.running = false ∧ (∀ x ∈ s.pl.entries, x.2.issued = none) ∧ (walking 0).pl.running = true := by decide +kernel


/-! ### The fabric -/

/-- A packet of peer 5 to this part. -/
def packet (q : BitVec 32) (kind : BitVec 8) (oseq : BitVec 32) (body : List Byte) : List Byte := mkPacket q 5 0 kind oseq body

/-- A state to which a packet has come on port 0. -/
def arrived (s : State) (b : List Byte) : State := { s with fab := { s.fab with rx := [(0, 2, b)] } }

theorem arrived_fresh (s : State) (b : List Byte) (h : received (peerAt s (pkSrc b)) (pkSeq b) = false) :
    Parts.Fresh (arrived s b) 0 (pkKind b) 0 b := ⟨⟨2, rfl⟩, rfl, h⟩

theorem witness_FabricPackets_duplicate :
    ∀ k ∈ ([1, 2, 3, 4, 5, 6, 7, 8, 9, 10, 11, 12] : List Nat), let b := packet 7 (BitVec.ofNat 8 k) 0 []
      let s := modPeer (arrived one b) 5 (fun x => markSeq x 7)
      s.fab.rx[0]? = some (0, 2, b) ∧ received (peerAt s (pkSrc b)) (pkSeq b) = true ∧ pkKind b = k := by decide +kernel

/-- A WRITE of four bytes and a READ of four bytes at an address of context 1, and a ROP there. -/
def writeTo (va : Nat) : List Byte := packet 7 2 0 (bytesOf 2 1 ++ bytesOf 8 va ++ bytesOf 4 0xFFFFFFFF ++ [1, 2, 3, 4])
def readFrom (va : Nat) : List Byte :=
  packet 7 3 0 (bytesOf 2 1 ++ bytesOf 8 va ++ bytesOf 4 0xFFFFFFFF ++ bytesOf 2 4 ++ bytesOf 4 0)
def ropTo (va : Nat) : List Byte :=
  packet 7 5 0 (bytesOf 8 (2 ^ 52 + va) ++ [2, 1] ++ bytesOf 16 1 ++ bytesOf 4 0xFFFFFFFF)

theorem witness_FabricPackets_fresh :
    ∀ b ∈ [writeTo 0x1000, writeTo 0x80000, readFrom 0x1000, readFrom 0x80000, ropTo 0x1000],
      received (peerAt one (pkSrc b)) (pkSeq b) = false := by decide +kernel

theorem witness_FabricPackets_write :
    let b := writeTo 0x1000
    let s1 := Parts.taken (arrived one b) 0 b
    let w := portPlaces 0 1 0xFFFFFFFF rW s1 (unitPieces 0x1000 4 3)
    pkKind b = 2 ∧ ((pkBody b).drop 14).length = 4 ∧ w.2 = .inl [(0x1000, 4)] ∧ plainMem 0x1000 = true ∧
      plainMem (0x1000 + (4 - 1)) = true ∧ w.1.badLines = [] := by decide +kernel

theorem witness_FabricPackets_write_absent :
    let b := writeTo 0x80000
    let w := portPlaces 0 1 0xFFFFFFFF rW (Parts.taken (arrived one b) 0 b) (unitPieces 0x80000 4 3)
    w.2 = .inr (0x80, 0x80000) ∧ (peerAt w.1 5).unacked.length < 4096 := by decide +kernel

theorem witness_FabricPackets_read :
    let b := readFrom 0x1000
    let r := portPlaces 0 1 0xFFFFFFFF rR (Parts.taken (arrived one b) 0 b) (unitPieces 0x1000 (numAt (pkBody b) 14 2) 3)
    pkKind b = 3 ∧ r.2 = .inl [(0x1000, 4)] ∧ plainMem (0x1000 + (4 - 1)) = true ∧ r.1.badLines = [] ∧
      (peerAt r.1 5).unacked.length < 4096 := by decide +kernel

theorem witness_FabricPackets_read_absent :
    let b := readFrom 0x80000
    let r := portPlaces 0 1 0xFFFFFFFF rR (Parts.taken (arrived one b) 0 b) (unitPieces 0x80000 (numAt (pkBody b) 14 2) 3)
    r.2 = .inr (0x80, 0x80000) ∧ (peerAt r.1 5).unacked.length < 4096 := by decide +kernel

theorem witness_FabricPackets_rop :
    let b := ropTo 0x1000
    let gate := portAccess (dropRx (arrived one b) 0) 0 1 0x1000 0xFFFFFFFF (ropRight 2)
    let away := portAccess (dropRx (arrived one (ropTo 0x80000)) 0) 0 1 0x80000 0xFFFFFFFF (ropRight 2)
    pkKind b = 5 ∧ numAt (pkBody b) 0 8 % 2 ^ 52 = 0x1000 ∧ numAt (pkBody b) 8 1 = 2 ∧ ropTaken (arrived one b) 5 7 = false ∧
      gate.2 = .inl 0x1000 ∧ away.2 = .inr 0x80 ∧ (peerAt away.1 5).unacked.length < 4096 := by decide +kernel

/-- A translation request, an invalidation and a marker of peer 5. -/
def asking : List Byte := packet 7 7 0 (bytesOf 2 1 ++ bytesOf 8 0x1000 ++ [0])
def invalidating : List Byte := packet 7 9 0 (bytesOf 64 2 ++ bytesOf 4 9 ++ bytesOf 8 0 ++ bytesOf 8 0x80000)
def marking (q m : BitVec 32) : List Byte := packet q 11 0 (bytesOf 4 3 ++ bytesOf 4 m.toNat)

theorem witness_FabricPackets_request :
    let s := arrived (rooted node1 one) asking
    let r := portWalk (Parts.taken s 0 asking) 0 1 0x1000 0xFFFFFFFF (0 != rR)
    received (peerAt s 5) (pkSeq asking) = false ∧ numAt (pkBody asking) 2 8 < 2 ^ 52 ∧
      (match r.2 with | .page e => e.rights.getLsbD 0 && (AMap.get? r.1.map.nodes e.node).isSome | _ => false) = true ∧
      (peerAt r.1 5).unacked.length < 4096 := by decide +kernel

theorem witness_FabricPackets_invalidation :
    let k : SentPkt := ⟨2, 2, mkPacket 2 3 5 2 0 (bytesOf 2 1 ++ bytesOf 8 0x1000 ++ bytesOf 4 9 ++ [1, 2, 3, 4]), .copyWrite 0 copy1.tok, 0, 0⟩
    let t := { one with fab := { one.fab with remote := [⟨0, 5, 1, 0x1000, 0, 3, 9⟩] } }
    let s := arrived (modPeer t 5 (fun x => { x with unacked := [k] })) invalidating
    let filter : BitVec 512 := BitVec.ofNat 512 (numAt (pkBody invalidating) 0 64)
    received (peerAt s 5) (pkSeq invalidating) = false ∧ s.fab.remoteInvals = [] ∧ (peerAt s 5).unacked.length < 4096 ∧
      (peerAt s 5).unacked.filter (fun x => packetIn x filter 0 0x80000) = [k] ∧ (peerAt t 5).unacked = [] ∧
      numAt (pkBody invalidating) 68 8 = 0 ∧ numAt (pkBody invalidating) 76 8 = 0x80000 ∧
      ∃ r ∈ s.fab.remote, r.peer = 5 ∧ filter.getLsbD (r.ctx.toNat % 512) = true ∧ meets r.va (pageBytes r.psize) 0 0x80000 = true := by
  decide +kernel

theorem witness_FabricPackets_markers :
    let s := fun b => arrived one b
    (peerAt one 5).markersIn = [] ∧ (peerAt one 5).unacked = [] ∧
      performedTo (peerAt (Parts.taken (s (marking 0xFFFFFFFF 0xFFFFFFFE)) 0 (marking 0xFFFFFFFF 0xFFFFFFFE)) 5) 0xFFFFFFFE = true ∧
      performedTo (peerAt (Parts.taken (s (marking 7 6)) 0 (marking 7 6)) 5) 6 = false := by decide +kernel

/-- A state in which packet 9 to peer 5 is not acknowledged. -/
def kept (s : State) (u : PktUse) : State := modPeer s 5 (fun x => { x with unacked := [⟨9, 3, [], u, 0, 0⟩] })

/-- An answer to that packet. -/
def answering (kind : BitVec 8) (body : List Byte) : List Byte := packet 7 kind 0 (bytesOf 4 9 ++ body)

theorem witness_FabricPackets_answer (s : State) (u : PktUse) (b : List Byte) :
    (peerAt (arrived (kept s u) b) 5).unacked.find? (fun y => y.seq == 9) = some ⟨9, 3, [], u, 0, 0⟩ ∧
      received (peerAt (kept s u) 5) 7 = received (peerAt s 5) 7 := by
  simp [peerAt, arrived, kept, modPeer, received, AMap.getD, AMap.get?_put]

theorem witness_FabricPackets_copy_answer :
    let c := { copy1 with peerOut := 1, peerData := some [0, 0, 0, 0] }
    let b := answering 4 (bytesOf 4 0 ++ [0] ++ [1, 2, 3, 4])
    let s := arrived (kept (copying c) (.copyRead 0 c.tok)) b
    (queueAt s 0).copies = c :: [] ∧ c.peerData = some [0, 0, 0, 0] ∧ pkKind b = 4 ∧ numAt (pkBody b) 8 1 = 0 ∧
      received (peerAt s 5) (pkSeq b) = false := by decide +kernel

theorem witness_FabricPackets_rop_answer :
    let e := { parked1 with kind := .ropR, aop := 2, uid := task1.uid }
    let b := answering 6 ([0] ++ bytesOf 8 8 ++ bytesOf 16 1)
    let s := arrived (kept { one with strands := AMap.put one.strands 0 { placedStrand with wait := .rop } } (.rop e 0 0)) b
    s.fab.ropsHeld = [] ∧ ropWaits s e 0 0 = true ∧ numAt (pkBody b) 4 1 = 0 ∧ pkKind b = 6 := by decide +kernel

theorem witness_FabricPackets_translation_answer :
    let b := answering 8 ([0] ++ bytesOf 8 0x1000 ++ [0, 3] ++ bytesOf 4 9)
    let s := arrived (kept (copying { copy1 with peerOut := 1 }) (.xreqCopy 0 copy1.tok)) b
    (queueAt s 0).copies = { copy1 with peerOut := 1 } :: [] ∧ numAt (pkBody b) 4 1 = 0 ∧ pkKind b = 8 := by decide +kernel

theorem witness_FabricPackets_last_answers :
    let rel : FabRelease := ⟨3, 0, [5], .phase 0 true⟩
    let s := arrived (kept { one with fab := { one.fab with releases := [rel] } } (.marker 0 3)) (answering 12 (bytesOf 4 3))
    pkKind (answering 10 []) = 10 ∧ pkKind (answering 12 (bytesOf 4 3)) = 12 ∧
      s.fab.releases.find? (fun y => y.id == 3) = some rel ∧ (∀ y ∈ rel.peers, y = 5) ∧ rel.done = .phase 0 true := by
  decide +kernel

theorem witness_FabricPackets_acknowledgement :
    let b := packet 0 13 0 (bytesOf 4 9 ++ bytesOf 8 1)
    let s := arrived (kept one .answer) b
    s.fab.rx[0]? = some (0, 2, b) ∧ pkKind b = 13 ∧ s.fab.ropsHeld = [] ∧
      (peerAt s (pkSrc b)).unacked = [⟨9, 3, [], .answer, 0, 0⟩] ∧ (peerAt s (pkSrc b)).waiting = [] ∧ s.fab.remoteInvals = [] ∧
      (∀ c ∈ s.cores, ∀ e ∈ c.2.parked, e.due = false) := by decide +kernel

/-- A MSG packet that starts a task of context 1 on core 0. -/
def greeting (oseq : BitVec 32) : List Byte := packet 7 1 oseq (bytesOf 8 (2 ^ 32) ++ bytesOf 4 (2 ^ 18) ++ bytesOf 4 0x10000000 ++ bytesOf 16 0)

theorem witness_FabricPackets_message :
    let b := greeting 0
    let s := { homed with fab := { homed.fab with rx := [(0, 0, b)] } }
    pkKind b = 1 ∧ received (peerAt s (pkSrc b)) (pkSeq b) = false ∧ (pkOseq b - (peerAt s (pkSrc b)).oseqIn.getD 0 0).toNat = 0 ∧
      0 < (peerAt s (pkSrc b)).oseqIn.length ∧ 2 ^ 31 ≤ (pkOseq (greeting 0xFFFFFFFF) - (peerAt s 5).oseqIn.getD 0 0).toNat := by
  decide +kernel

/-- An early one is kept; the second copy of it is not, nor is one behind 64 others. -/
theorem witness_FabricPackets_early_message :
    let b := greeting 1
    let s := { homed with fab := { homed.fab with rx := List.replicate 65 (0, 0, b) } }
    let ahead := (pkOseq b - (peerAt s (pkSrc b)).oseqIn.getD 0 0).toNat
    let before := fun n => (s.fab.rx.take n).filter (fun y => pkKind y.2.2 == 1 && pkSrc y.2.2 == pkSrc b && y.2.1 == 0)
    0 < ahead ∧ ahead < 2 ^ 31 ∧ s.fab.rx[0]? = some (0, 0, b) ∧ s.fab.rx[64]? = some (0, 0, b) ∧ (before 0).length < 64 ∧
      before 0 = [] ∧ 64 ≤ (before 64).length ∧ ∃ y ∈ before 1, pkSeq y.2.2 = pkSeq b := by
  decide +kernel

theorem witness_FabricPackets_late :
    let s := { kept one .answer with now := 160000 }
    let x : SentPkt := ⟨9, 3, [], .answer, 0, 0⟩
    let t := { s with fab := { s.fab with table := [(5, 2 ^ 63)] } }
    (peerAt s 5).unacked = [x] ∧ x.sentAt + 160000 ≤ s.now ∧ x.expiries ≠ 7 ∧ one.now < x.sentAt + 160000 ∧
      connected s 5 = false ∧ connected t 5 = true ∧ (peerAt t 5).unacked = [x] ∧
      (peerAt (modPeer t 5 (fun y => { y with unacked := [{ x with expiries := 7 }] })) 5).unacked = [{ x with expiries := 7 }] := by
  decide +kernel

theorem witness_FabricPackets_lost :
    let s := kept (copying copy1) (.copyRead 0 copy1.tok)
    connected s 5 = false ∧ (peerAt s 5).unacked = [⟨9, 3, [], .copyRead 0 copy1.tok, 0, 0⟩] ∧ (peerAt s 5).waiting = [] ∧
      s.fab.ropsHeld = [] ∧ s.map.invals = [] ∧ (queueAt s 0).copies = copy1 :: [] ∧
      ∀ k ∈ s.cores, ∀ e ∈ k.2.parked ++ k.2.sidelog, entryPeer? s e ≠ some 5 := by decide +kernel

/-- 140 bytes with their CRC. -/
def withCrc (b : List Byte) : List Byte := b ++ bytesOf 4 (crc32 b).toNat

/-- A flit with a payload and its two header words. -/
def flitOf (p : List Byte) (h : Nat) : List Byte := withCrc (p ++ List.replicate (128 - p.length) 0 ++ bytesOf 4 h ++ bytesOf 8 0)

/-- A flit of zeros with its header words. -/
def flit (h : Nat) : List Byte := flitOf [] h

/-- Bytes with their CRC are no corrupt flit, where the type is none of those reserved and the reserved bits are zero. -/
theorem withCrc_sound (b : List Byte) (hl : b.length = 140)
    (ok : (decide (3 < flType (withCrc b)) || numAt (withCrc b) 0x82 2 / 2 ^ 15 != 0 || numAt (withCrc b) 0x84 8 != 0 ||
      (flType (withCrc b) != 1 && flLseq (withCrc b) != 0)) = false) : corruptFlit (withCrc b) = false := by
  have c := (crc32 b).isLt
  have e : natOfBytes (bytesOf 4 (crc32 b).toNat) = (crc32 b).toNat := by simp [bytesOf, natOfBytes]; omega
  have d : numAt (withCrc b) 0x8C 4 = (crc32 b).toNat := by
    rw [numAt, withCrc, List.drop_left' hl, List.take_of_length_le (by simp [bytesOf]), e]
  have k : (withCrc b).take 0x8C = b := by rw [withCrc, List.take_left' hl]
  have n : (withCrc b).length = 144 := by rw [withCrc, List.length_append, hl]; rfl
  unfold corruptFlit
  rw [d, k, n]
  simpa [Bool.or_assoc] using ok

theorem witness_LinksAndRestripes_valid : corruptFlit (flit 0x1005) = false ∧ corruptFlit (flit 0x1007) = false ∧
    corruptFlit (flit 0x10041005) = false :=
  ⟨withCrc_sound _ (by decide +kernel) (by decide +kernel), withCrc_sound _ (by decide +kernel) (by decide +kernel),
    withCrc_sound _ (by decide +kernel) (by decide +kernel)⟩

/-- A flit with the expected number, one ahead, one that has been received, and one that acknowledges. -/
theorem witness_LinksAndRestripes_flits :
    let s := modPort one 0 (fun x => { x with rx := { x.rx with width := 16, expect := 5 }, tx := { x.tx with replay := [(4, [])] } })
    let x := portAt s 0
    let f := flit 0x1005
    let g := flit 0x10041005
    let miss := modPort s 0 (fun x => { x with rx := { x.rx with since := [(true, 1)], last := 4 } })
    x.rx.width ≠ 0 ∧ featureOn s 4 = true ∧ corruptFlit [] = true ∧ x.rx.rreqAt = none ∧ x.rx.restripe = none ∧ x.rx.awaits = none ∧
      x.rx.corrupt = [] ∧ x.rx.since = [] ∧ flType f = 1 ∧ flLseq f = x.rx.expect ∧ flType (flit 0x1007) = 1 ∧
      flLseq (flit 0x1007) ≠ x.rx.expect ∧ seenBefore x.rx.expect (flLseq (flit 0x1007)) = false ∧
      seenBefore 8 (flLseq (flit 0x1007)) = true ∧
      flAckv g = true ∧ x.tx.replay = [] ++ (4, []) :: [] ∧ (4, ([] : List Byte)).1 = flLack g ∧
      (portAt miss 0).rx.since = [(true, 1)] ∧ (portAt miss 0).rx.last < 4096 ∧
      (portAt miss 0).rx.expect = ((portAt miss 0).rx.last + 1) % 4096 := by decide +kernel

theorem witness_LinksAndRestripes_asked :
    let s := modPort one 0 (fun x => { x with rx := { x.rx with rreqAt := some 0, dark := 1, lasting := some 2 } })
    let t := { s with fab := { s.fab with time := 8000 } }
    (portAt s 0).rx.rreqAt = some 0 ∧ (portAt s 0).rx.restripe = none ∧ s.fab.time < 0 + 8000 ∧ 0 + 8000 ≤ t.fab.time ∧
      (portAt s 0).rx.dark &&& 1 ≠ 0 ∧ (portAt s 0).rx.dark ||| 1 = (portAt s 0).rx.dark ∧
      (portAt s 0).rx.dark ||| 2 ≠ (portAt s 0).rx.dark ∧ (portAt s 0).rx.lasting = some 2 := by decide +kernel


/-! ### The host -/

/-- A post: its destination, operation, arguments and payload. -/
def posting (dw op a0 a1 : Nat) (payload : List Nat) : Post :=
  ⟨bytesOf 8 dw ++ bytesOf 2 op ++ [BitVec.ofNat 8 payload.length, 0] ++ bytesOf 4 7 ++ bytesOf 8 a0 ++ bytesOf 8 a1 ++
    payload.flatMap (bytesOf 8)⟩

/-- A state of the owner's part with a post at the head of the PF's window. -/
def posted (s : State) (p : Post) : State :=
  modWindow { s with mgmt := { s.mgmt with owner := 1, negotiated := true, ready := true } } 0 (fun w => { w with posts := [p] })

theorem posted_head (s : State) (p : Post) (op : Nat) (h1 : (windowAt (posted s p) 0).posts = p :: [])
    (h2 : (slotOf p).op = op ∧ (slotOf p).rsv = 0 ∧ (slotOf p).words ≤ 12 ∧ postDenied (posted s p) 0 op = false) :
    Parts.Head (posted s p) 0 op (slotOf p) := ⟨⟨p, [], h1, rfl⟩, h2⟩

theorem witness_WindowPosts_denied :
    let p := posting 0 0x10 0 0 []
    let s := modWindow one 0 (fun w => { w with posts := [p] })
    (windowAt s 0).posts = p :: [] ∧ Parts.WindowEvent 0 0x10 (.partcreate 0) ∧ (slotOf p).op = 0x10 ∧ (slotOf p).rsv = 0 ∧
      (slotOf p).words ≤ 12 ∧ postDenied s 0 (slotOf p).op = true ∧ allocatedOp (slotOf p).op = true ∧
      allocatedOp (slotOf (posting 0 9 0 0 [])).op = false := by
  refine ⟨by decide +kernel, by simp [Parts.WindowEvent], ?_⟩
  decide +kernel

theorem witness_WindowPosts_send :
    let p := posting 0x100000000 0 5 6 [9]
    let s := posted one p
    let x := slotOf p
    Parts.Head s 0 0x00 x ∧ issuerOf? s 0 = some 0 ∧ badDest x.dw x.words = false ∧ x.dw.getLsbD 52 = false ∧
      x.dw.getLsbD 63 = false ∧ otherPart s 0 (x.dw.extractLsb' 32 12) = false :=
  ⟨posted_head _ _ _ (by decide +kernel) (by decide +kernel), by decide +kernel⟩

theorem witness_WindowPosts_replay :
    let p := posting 0 7 1 0 []
    let s := posted one p
    Parts.Head s 0 7 (slotOf p) ∧ (slotOf p).a0 = (1 : CtxId).setWidth 64 ∧ (1 : CtxId) ≠ 0 ∧ (ctxAt? s 1).isSome = true ∧
      otherPart s 0 1 = false :=
  ⟨posted_head _ _ _ (by decide +kernel) (by decide +kernel), by decide +kernel⟩

theorem witness_WindowPosts_table :
    ∀ a ∈ [0, 0x80000001], let p := posting 0 0x17 a 0 []
      let s := posted one p
      Parts.Head s 0 0x17 (slotOf p) ∧ featureOn s 1 = true ∧ (ctxAt? s 1).isSome = true ∧
        ((slotOf p).a0 = 0 ∨ (slotOf p).a0 = 0x80000000 ||| (1 : CtxId).setWidth 64) := by
  intro a ha
  simp only [List.mem_cons, List.mem_nil_iff, or_false] at ha
  rcases ha with rfl | rfl <;>
    exact ⟨posted_head _ _ _ (by decide +kernel) (by decide +kernel), by decide +kernel⟩

/-- The four words of a mapping request of one page from SRC to DST, with rights. -/
def requesting (src dst rights : Nat) : List Nat := [src, dst, 2 ^ 32 * rights + 1, 0]

theorem witness_WindowMappings :
    ∀ op ∈ ([1, 2, 3, 4] : List Nat), let p := posting 0 op 1 0 (requesting 0 0x800000 3)
      let s := posted homed p
      Parts.Head s 0 op (slotOf p) ∧ issuerOf? s 0 = some 0 ∧ s.map.stopped = false ∧ s.badLines = [] ∧
        (slotOf p).a0.getLsbD 63 = false ∧ otherPart s 0 1 = false := by
  intro op ho
  simp only [List.mem_cons, List.mem_nil_iff, or_false] at ho
  rcases ho with rfl | rfl | rfl | rfl <;>
    exact ⟨posted_head _ _ _ (by decide +kernel) (by decide +kernel), by decide +kernel⟩

theorem witness_WindowMappings_reserve :
    let p := posting 0 5 1 1 (requesting 0 0x800000 3)
    let s := posted homed p
    let r : MapReq := { slotRequest (slotOf p) with src := 0 }
    Parts.Head s 0 5 (slotOf p) ∧ (slotOf p).a1 = (1 : CtxId).setWidth 64 ∧ (partOf? s 1).isSome = true ∧
      (slotOf p).a0.extractLsb' 12 52 = 0 ∧ noTarget s 0 1 = false ∧ r.bad = false ∧ badForm r 1 = false ∧
      mapped s.map 1 r.dst r.bytes = false ∧ s.map.nodes.length < 2 ^ 22 - 1 ∧
      s.map.tables.length + (newTables s.map 1 r.dst r.bytes (r.psize == 2)).length + (owedTables s.map).length ≤ tableLimit ∧
      r.psize = 0 :=
  ⟨posted_head _ _ _ (by decide +kernel) (by decide +kernel), by decide +kernel⟩

theorem witness_WindowMappings_migrate :
    let p := posting 0 6 1 0 [9]
    let s := posted homed p
    Parts.Head s 0 6 (slotOf p) ∧ featureOn s 7 = true ∧ (slotOf p).a0.extractLsb' 12 52 = 0 ∧
      ((slotOf p).word 0).extractLsb' 25 39 = 0 ∧ plainMem (((slotOf p).word 0).setWidth 25 : BitVec 25).toNat = true ∧
      plainMem ((((slotOf p).word 0).setWidth 25 : BitVec 25).toNat * 2 ^ 19) = true ∧
      (match hostMigration s 1 0 9 .nobody with | .inr _ => true | _ => false) = true :=
  ⟨posted_head _ _ _ (by decide +kernel) (by decide +kernel), by decide +kernel⟩

/-- A PARTCREATE of partition 1 with cluster 1, one virtual function and contexts 16 to 23. -/
def creating : Post := posting 0 0x10 1 2 [0x200000, 2, 0x80010, 16]

theorem witness_WindowPlacements_create :
    Parts.Head (posted homed creating) 0 0x10 (slotOf creating) ∧ badPart (posted homed creating) (slotOf creating) = false ∧
      (slotOf creating).word 1 ≠ 0 :=
  ⟨posted_head _ _ _ (by decide +kernel) (by decide +kernel), by decide +kernel⟩

/-- `homed` with its context on no cluster. -/
def resting : State := modCtx homed 1 (fun c => { c with clusters := [] })

theorem witness_WindowPlacements_destroy :
    let p := posting 0 0x11 0 0 []
    Parts.Head (posted resting p) 0 0x11 (slotOf p) ∧ (AMap.get? (posted resting p).parts 0).isSome = true ∧
      (slotOf p).a0.extractLsb' 3 61 = 0 ∧ (∀ e ∈ (posted resting p).ctxs, e.2.part = 0 → e.2.clusters = [] ∧ e.2.routerHeld = []) :=
  ⟨posted_head _ _ _ (by decide +kernel) (by decide +kernel), by decide +kernel⟩

theorem witness_WindowPlacements_destroy_busy :
    let p := posting 0 0x11 0 0 []
    Parts.Head (posted homed p) 0 0x11 (slotOf p) ∧ ∃ e ∈ (posted homed p).ctxs, e.2.part = 0 ∧ e.2.clusters ≠ [] :=
  ⟨posted_head _ _ _ (by decide +kernel) (by decide +kernel), by decide +kernel⟩

/-- A CTXCREATE of context 2. -/
def making : Post := posting 0 0x12 2 0x300000 [0, 0x400000, 10, 0x500000, 0x10000, 0x1000000, 0x1000]

theorem witness_WindowPlacements_context :
    let s := posted homed making
    Parts.Head s 0 0x12 (slotOf making) ∧ (slotOf making).a0 = (2 : CtxId).setWidth 64 ∧
      ((partOfNumber? s 2).map (fun p => badCtxArgs s p.2 2 (slotOf making))) = some false ∧ s.map.tables.length < tableLimit :=
  ⟨posted_head _ _ _ (by decide +kernel) (by decide +kernel), by decide +kernel⟩

theorem witness_WindowPlacements_end :
    let p := posting 0 0x13 1 0 []
    Parts.Head (posted resting p) 0 0x13 (slotOf p) ∧ Parts.Head (posted homed p) 0 0x13 (slotOf p) ∧
      ((ctxAt? (posted resting p) 1).map (fun c => (c.clusters, c.routerHeld))) = some ([], []) ∧ ((ctxAt? (posted homed p) 1).map (·.clusters)) = some [0] :=
  ⟨posted_head _ _ _ (by decide +kernel) (by decide +kernel), posted_head _ _ _ (by decide +kernel) (by decide +kernel),
    by decide +kernel⟩

theorem witness_WindowPlacements_place :
    let p := posting 0 0x14 1 1 []
    let s := posted (modCluster resting 0 (fun c => { c with lower := none })) p
    Parts.Head s 0 0x14 (slotOf p) ∧ (slotOf p).a1 = (1 : BitVec 32).setWidth 64 ∧
      ((ctxAt? s 1).map (fun c => (c.clusters, (1 : BitVec 32) &&& ~~~(((AMap.get? s.parts c.part).map (·.clusters)).getD 0),
        AMap.get? s.images c.imageBase))) = some ([], 0, none) ∧ (∀ y ∈ clustersOf 1, canOwn s 1 y = true) ∧
      residentPart s 1 = false :=
  ⟨posted_head _ _ _ (by decide +kernel) (by decide +kernel), by decide +kernel⟩

theorem witness_WindowPlacements_save :
    ∀ k ∈ [2, 3], let p := posting 0 0x15 1 k [1]
      let s := posted homed p
      Parts.Head s 0 0x15 (slotOf p) ∧ ((slotOf p).a1 = 2 ∨ (slotOf p).a1 = 3) ∧ ((slotOf p).word 0).toNat ≤ 1 ∧
        ((ctxAt? s 1).map (fun c => (c.clusters, c.plan.isSome))) = some ([0], false) := by
  intro a ha
  simp only [List.mem_cons, List.mem_nil_iff, or_false] at ha
  rcases ha with rfl | rfl <;>
    exact ⟨posted_head _ _ _ (by decide +kernel) (by decide +kernel), by decide +kernel⟩

theorem witness_WindowPlacements_capability :
    let p := posting 0 0x16 1 255 [0x0000010000000001]
    let s := posted homed p
    Parts.Head s 0 0x16 (slotOf p) ∧ (slotOf p).a1.toNat < 256 ∧ ((slotOf p).word 0).extractLsb' 52 12 = 0 ∧
      ((slotOf p).word 0).extractLsb' 13 27 = 0 ∧ ((slotOf p).word 0).extractLsb' 1 3 = 0 ∧ s.badLines = [] ∧
      (windowAt s 0).replies = [] ∧ (ctxAt? s 1).isSome = true :=
  ⟨posted_head _ _ _ (by decide +kernel) (by decide +kernel), by decide +kernel⟩

/-! ### Privet services and management -/

/-- A CINV of group 0 for a service, whose block is at 0x1000. -/
def call1 (k : BitVec 4) (args : List DWord) : Call :=
  { ctx := 1, service := k, cap := 0x1F01, block := 0x1000, args := args, slot := false, gkey := some 0, request := 7, d := 4,
    absent := none, retry := false, unmapping := false }

/-- A state whose first strand waits for the call. -/
def calling (s : State) (c : Call) : State :=
  { s with calls := [(0, c)], strands := AMap.put s.strands 0 { placedStrand with wait := .reply 7 } }

theorem called (s : State) (k : BitVec 4) (args : List DWord) (h : blockAway? (calling s (call1 k args)) (call1 k args) = none) :
    Parts.Calling (calling s (call1 k args)) 0 k.toNat (call1 k args) 0 := ⟨rfl, rfl, rfl, rfl, rfl, rfl, h⟩

/-- Each word of the block stands in a present and writable page, which a walk finds at the same physical address. -/
theorem blocked (t : State) (c : Call) (h1 : t.badLines = [])
    (h2 : ∀ i, i < 8 → plainMem (0x1000 + 8 * i) = true ∧
      (match walk t c.ctx (c.block.toNat + 8 * i) true with
       | .page e => e.rights.getLsbD rW && e.pa + (c.block.toNat + 8 * i - e.va) == 0x1000 + 8 * i
       | _ => false) = true) : Parts.Block t c 0x1000 := by
  refine ⟨h1, fun i hi => ⟨(h2 i hi).1, ?_⟩⟩
  have h := (h2 i hi).2
  split at h
  · rename_i e he
    rw [Bool.and_eq_true, beq_iff_eq] at h
    exact ⟨e, he, h⟩
  · cases h

theorem witness_PrivetServices_values :
    ∀ k ∈ ([0, 8] : List (BitVec 4)), let c := call1 k []
      Parts.Block (calling one c) c 0x1000 ∧ Parts.Calling (calling one c) 0 k.toNat c 0 ∧ (ctxAt? (calling one c) 1).isSome = true ∧
        strandsOfGroup 0 ≠ [] ∧ (strandAt (calling one c) 0).wait = .reply c.request ∧ c.d ≠ 0 := by
  intro k hk
  simp only [List.mem_cons, List.mem_nil_iff, or_false] at hk
  rcases hk with rfl | rfl <;>
    exact ⟨blocked _ _ (by decide +kernel) (by decide +kernel), called one _ _ (by decide +kernel), by decide +kernel⟩

theorem witness_PrivetServices_alloc_refused :
    let c := call1 1 [5, 3]
    Parts.Block (calling one c) c 0x1000 ∧ Parts.Calling (calling one c) 0 1 c 0 ∧
      ((c.arg 0).toNat = 0 ∨ (c.arg 0).toNat % 2 ^ 19 ≠ 0) :=
  ⟨blocked _ _ (by decide +kernel) (by decide +kernel), called one 1 _ (by decide +kernel), by decide +kernel⟩

/-- `one` with one page free in the space of context 1 and one frame free in HBM, the second of each. -/
def scarce : State :=
  let n : Node := { node1 with space := 1 }
  let low : Node := { n with space := 1, va := 0, pva := 0, pages := 1 }
  let high : Node := { n with space := 1, va := 0x100000, pva := 0x100000, pages := 2 ^ 33 - 2 }
  { one with map := { one.map with nodes := AMap.put (AMap.put one.map.nodes 8 low) 9 high } }

theorem freePlace_only (first lo hi n a : Nat) (used : List (Nat × Nat)) (hn : 0 < n)
    (h1 : ∀ b, lo ≤ b → b + n ≤ hi → (∀ u ∈ used, meets u.1 u.2 b n = false) → b = a)
    (h2 : freePlace hi lo hi n used = some a) : freePlace first lo hi n used = some a := by
  unfold freePlace at *
  rw [List.find?_cons_of_neg (by simp; omega)] at h2
  rw [List.find?_cons]
  split
  · rename_i h
    simp only [Bool.and_eq_true, decide_eq_true_eq, List.all_eq_true, Bool.not_eq_true'] at h
    rw [h1 first h.1.1 h.1.2 h.2]
  · exact h2

theorem allocPlace_only (s : State) (ctx : CtxId) (n va pa : Nat) (space frames : List (Nat × Nat)) (hn : 0 < n)
    (hs : (s.map.nodes.filter (fun e => e.2.space == ctx.toNat)).map (fun e => (e.2.va, e.2.bytes)) = space)
    (hf : usedExtents s (allocRoot s ctx).1 (allocRoot s ctx).2 = frames)
    (h1 : ∀ b, b + n ≤ 2 ^ 52 → (∀ u ∈ space, meets u.1 u.2 b n = false) → b = va)
    (h2 : freePlace (2 ^ 52) 0 (2 ^ 52) n space = some va)
    (h3 : ∀ b, b + n ≤ 0x5F00000000 → (∀ u ∈ frames, meets u.1 u.2 b n = false) → b = pa)
    (h4 : freePlace 0x5F00000000 0 0x5F00000000 n frames = some pa) : allocPlace s ctx n = some (va, pa) := by
  unfold allocPlace
  simp only [hs, hf]
  rw [freePlace_only _ 0 (2 ^ 52) n va space hn (fun b _ => h1 b) h2,
    freePlace_only _ 0 0x5F00000000 n pa frames hn (fun b _ => h3 b) h4]

/-- The places of an argument that is reachable. -/
def reached (m : ArgMet) : Option (List (Nat × Nat)) := match m with | .ok l => some l | _ => none

theorem reached_ok (m : ArgMet) (l : List (Nat × Nat)) (h : reached m = some l) : m = .ok l := by
  unfold reached at h; split at h <;> simp_all

/-- What an ALLOC of the free page asks of the mapping engine. -/
def allocated : State × MapDone :=
  let s := calling scarce (call1 1 [0x80000, 3])
  mapOrGrant { s with draws := s.draws + 1 } false 0 1 false false ⟨0x80000, 0x80000, 1, 0, 3, false⟩ .nobody

theorem witness_PrivetServices_alloc_place :
    let s := calling scarce (call1 1 [0x80000, 3])
    allocPlace { s with draws := s.draws + 1 } 1 0x80000 = some (0x80000, 0x80000) ∧ allocRoot s 1 = (0, 0) := by
  refine ⟨?_, by decide +kernel⟩
  refine allocPlace_only _ _ _ _ _ [(0, 0x80000), (0x100000, 2 ^ 52 - 0x100000)]
    [(0, 0x80000), (0x100000, 2 ^ 52 - 0x100000), (0, 0x80000), (0, 2048), (0, 128 * 2 ^ 10), (0, 0)] (by omega) (by decide +kernel)
    (by decide +kernel) ?_ (by decide +kernel) ?_ (by decide +kernel)
  · intro b hb h
    have h5 := h (0, 0x80000) (by simp)
    have h6 := h (0x100000, 2 ^ 52 - 0x100000) (by simp)
    simp [meets] at h5 h6; omega
  · intro b hb h
    have h5 := h (0, 0x80000) (by simp)
    have h6 := h (0x100000, 2 ^ 52 - 0x100000) (by simp)
    simp [meets] at h5 h6; omega

theorem witness_PrivetServices_alloc :
    let c := call1 1 [0x80000, 3]
    Parts.Calling (calling scarce c) 0 1 c 0 ∧ (c.arg 0).toNat = 0x80000 ∧ (c.arg 1).extractLsb' 5 59 = 0 ∧
      (c.arg 1).setWidth 5 &&& ~~~(c.cap.extractLsb' 8 5) = 0 ∧
      ∃ v, allocated = (allocated.1, .reply v) ∧ v.setWidth 8 = 0#8 ∧
        Parts.Block (modCtx allocated.1 c.ctx (fun x => { x with allocs := x.allocs ++ [v >>> 32] })) c 0x1000 := by
  refine ⟨called scarce 1 _ (by decide +kernel), by decide +kernel, by decide +kernel, by decide +kernel, ?_⟩
  refine ⟨_, Prod.ext rfl rfl, ?_, blocked _ _ rfl ?_⟩
  · have low : ∀ h : Nat, (BitVec.ofNat 64 (h * 2 ^ 32)).setWidth 8 = 0#8 := by
      intro h; apply BitVec.eq_of_toNat_eq; simp; omega
    exact low _
  · decide +kernel

theorem witness_PrivetServices_free_refused :
    let c := call1 2 [5]
    Parts.Calling (calling one c) 0 2 c 0 ∧ ((ctxAt? (calling one c) 1).map (fun x => x.allocs.contains (c.arg 0))) = some false ∧
      Parts.Block (calling one c) c 0x1000 :=
  ⟨called one 2 _ (by decide +kernel), by decide +kernel, blocked _ _ (by decide +kernel) (by decide +kernel)⟩

/-- `one` with a node of context 1 that an ALLOC made. -/
def holder : State := modCtx (rooted node1 one) 1 (fun x => { x with allocs := [1] })

theorem witness_PrivetServices_free :
    let c := call1 2 [1]
    let s := calling holder c
    Parts.Calling s 0 2 c 0 ∧ ((ctxAt? s 1).map (fun x => x.allocs.contains (c.arg 0))) = some true ∧
      ((byHandle? s.map (c.arg 0)).map (·.1)) = some 1 ∧ isCut s.map 1 = false ∧ owns s.map 1 1 = true :=
  ⟨called holder 2 _ (by decide +kernel), by decide +kernel⟩

/-- A request, in memory, of one page for 8 MiB of context 1. -/
def proxy : State :=
  rooted node1 (block ([0, 0, 0, 0, 0, 0, 0, 0] ++ [0, 0, 0x80, 0, 0, 0, 0, 0] ++ [1, 0, 0, 0, 3]))

theorem witness_PrivetServices_mapproxy :
    let c := { call1 6 [0x1000, 1] with cap := 0x10000001F61 }
    let s := calling proxy c
    let r := mapReq (memBytes s 0x1000 32)
    Parts.Calling s 0 6 c 0 ∧ (c.arg 0).toNat % 32 = 0 ∧ argument s c (c.arg 0) 32 rR = .ok [(0x1000, 32)] ∧
      r.rights &&& ~~~(c.cap.extractLsb' 8 5) = 0 ∧ s.map.stopped = false ∧ s.badLines = [] ∧ r.psize = 0 ∧
      (c.cap.extractLsb' 40 12 : CtxId) = 1 ∧
      let d := mapOrGrant s false 1 1 (foreign s 1 1) false r .nobody
      ∃ v, d = (d.1, .reply v) ∧ Parts.Block d.1 c 0x1000 := by
  refine ⟨⟨rfl, rfl, rfl, rfl, rfl, rfl, by decide +kernel⟩, by decide +kernel, reached_ok _ _ (by decide +kernel), by decide +kernel,
    by decide +kernel, by decide +kernel, by decide +kernel, by decide +kernel, ?_⟩
  exact ⟨_, Prod.ext rfl rfl, blocked _ _ rfl (by decide +kernel)⟩

theorem witness_PrivetServices_log :
    let c := call1 3 [0x1000, 4096]
    let s := calling one c
    Parts.Calling s 0 3 c 0 ∧ (c.arg 1).toNat = 4096 ∧ argument s c (c.arg 0) 4096 rR = .ok [(0x1000, 4096)] ∧
      ((ctxAt? s 1).map (fun x => (decide (x.logIndex + 4096 ≤ 0x10000),
        plainMem (s.mgmt.logBase.toNat + 0x10000 + x.logIndex) && plainMem (s.mgmt.logBase.toNat + 0x10000 + x.logIndex + 4096 - 1)))) =
        some (true, true) ∧ s.badLines = [] :=
  ⟨called one 3 _ (by decide +kernel), by decide +kernel, reached_ok _ _ (by decide +kernel), by decide +kernel⟩

theorem witness_PrivetServices_signal :
    let c := call1 4 [63]
    Parts.Calling (calling homed c) 0 4 c 0 ∧ (c.arg 0).toNat < 64 ∧ signalFns (calling homed c) 1 ≠ [] ∧
      residentPart (calling homed c) 1 = false :=
  ⟨called homed 4 _ (by decide +kernel), by decide +kernel⟩

theorem witness_PrivetServices_wake :
    let c := call1 5 [0x107C, 9]
    let s := calling one c
    Parts.Calling s 0 5 c 0 ∧ (c.arg 0).toNat % 4 = 0 ∧ argument s c (c.arg 0) 4 rW = .ok [(0x107C, 4)] ∧ plainMem 0x107C = true ∧
      plainMem (0x107C + 3) = true ∧ 0x107C % 128 ≤ 124 ∧
      (strandAt { s with strands := AMap.put s.strands 1 { placedStrand with wait := .monitor (.global 0x20) 3 } } 1).wait =
        .monitor (.global (0x107C / 128)) 3 :=
  ⟨called one 5 _ (by decide +kernel), by decide +kernel, reached_ok _ _ (by decide +kernel), by decide +kernel⟩

theorem witness_PrivetServices_yield :
    let c := call1 7 []
    Parts.Calling (calling homed c) 0 7 c 0 ∧ residentPart (calling homed c) 1 = false :=
  ⟨called homed 7 _ (by decide +kernel), by decide +kernel⟩

theorem witness_ManagementOfThePart_handover :
    let g := { State.reset.mgmt with owner := 1, pending := true, successor := 2, pendingAt := 0 }
    let s := { State.reset with mgmt := g }
    s.mgmt.pending = true ∧ s.mgmt.successor = 2 ∧ s.now ≤ s.mgmt.pendingAt + 800000000 ∧ s.mgmt.owner = 1 ∧
      ({ s with now := 800000001 } : State).mgmt.pendingAt + 800000000 < ({ s with now := 800000001 } : State).now ∧
      State.reset.mgmt.owner = 0 ∧ State.reset.mgmt.pending = false := by decide +kernel

theorem witness_ManagementOfThePart_negotiate :
    let s := { State.reset with mgmt := { State.reset.mgmt with owner := 4, ready := true } }
    s.mgmt.owner = 4 ∧ 1 ≤ (4 : BitVec 3).toNat ∧ (4 : BitVec 3).toNat ≤ 4 ∧ s.mgmt.negotiated = false ∧ s.mgmt.ready = true ∧
      s.mgmt.owner ≠ 3 ∧ featureOn s 4 = false ∧ (portAt s 31).tx.dark = 0 ∧ (portAt s 31).rx.dark = 0 ∧
      featureOn one 4 = true := by decide +kernel

/-- Masters 3 and 2 claim in one cycle; a master's number is 1 to 4. -/
theorem witness_ManagementOfThePart_claims :
    let s := { State.reset with mgmt := { State.reset.mgmt with ready := true }, agenda := [.event (.claim 2), .event (.claim 7)] }
    s.mgmt.owner = 0 ∧ (3 : BitVec 3) :: claimsNow s.agenda = [3, 2, 7] ∧ 1 ≤ (3 : BitVec 3).toNat ∧ (3 : BitVec 3).toNat ≤ 4 ∧
      ¬(1 ≤ (7 : BitVec 3).toNat ∧ (7 : BitVec 3).toNat ≤ 4) ∧ State.reset.mgmt.ready = false ∧ State.reset.mgmt.bootFail = false := by
  decide +kernel

theorem witness_ManagementOfThePart_registers :
    let s := { one with mgmt := { one.mgmt with ready := true, owner := 1 } }
    s.mgmt.bootFail = false ∧ s.mgmt.ready = true ∧ (windowAt s 5).replies = [] ∧ outstanding (windowAt s 5) < 256 ∧
      256 ≤ outstanding { windowAt s 5 with laters := List.replicate 256 0 } ∧ State.reset.mgmt.ready = false ∧ s.mgmt.owner ≠ 2 ∧
      0x7FF8 + 8 ≤ 0x8000 ∧ featureOn s 4 = true ∧ s.badLines = [] := by decide +kernel

/-- With nothing written the slot that ran boots again; with neither image valid none does; with one written by the owner the
other slot boots, and where its version lies below the count, the first. -/
theorem witness_ManagementOfThePart_boot :
    let g := State.reset.mgmt
    let accepted := fun (h : Mgmt) (f : Firmware) => f.keyOk && f.signed && decide (h.rollback ≤ f.version)
    let old := { g with slotA := ⟨true, true, 5⟩, slotB := ⟨true, true, 4⟩, rollback := 5, staged := true }
    g.booted = false ∧ accepted g g.slotA = true ∧ g.staged = false ∧ g.runsB = false ∧
      accepted g ⟨false, true, 9⟩ = false ∧ accepted g ⟨true, false, 9⟩ = false ∧
      accepted old old.slotA = true ∧ accepted old old.slotB = false ∧ (!old.runsB) = true := by decide +kernel

theorem witness_ManagementOfThePart_measured :
    let s := { one with mgmt := { one.mgmt with ready := true, measures := [(2, 7)] } }
    s.mgmt.ready = true ∧ AMap.get? s.mgmt.measures (2 : BitVec 8).toNat = some 7 ∧ State.reset.mgmt.ready = false := by
  decide +kernel

/-! ### The whole part -/

theorem witness_StepRunsTheDecodedInstruction :
    let s := State.reset.withFetchWord 32 0x04414601
    let s1 := tick { s with favor := true } 1
    let b := beginIssue { s1 with nextQuarter := 1 } 0 0 0
    s.agenda = [] ∧ s.favor = false ∧ s.mgmt.stopped = false ∧ s.mgmt.gated = false ∧ pickQuarter? s1 = some 0 ∧
      chooseSlot s1 0 0 0 = some 0 ∧ featureOn b 1 = true ∧ featureOn b 6 = true ∧
      (match fetch b with | .word _ w => w == 0x04414601 | _ => false) = true ∧ decodeTableWord 32 0 = none := by decide +kernel

theorem witness_StepRunsTheDecodedInstruction_bytes :
    let s1 := tick { State.reset.withFetchWord 32 0x04414601 with favor := true } 1
    let b := beginIssue { s1 with nextQuarter := 1 } 0 0 0
    (issuer? b).map (·.1) = some 0 ∧ b.issue.pc.toNat % 4 = 0 ∧
      (let r := translate b (coreCaches b.issue.core) 1 b.issue.pc.toNat false
       (match r.2 with
        | .page e => e.rights.getLsbD 2 && (e.pa + (b.issue.pc.toNat - e.va)) % 128 == b.issue.pc.toNat % 128
        | _ => false) && decide (r.1.badLines = []) &&
       (AMap.get? (coreAt r.1 0).icache (2 ^ 45 + b.issue.pc.toNat / 128)).isNone) = true := by decide +kernel

theorem witness_StepRunsTheDecodedInstruction_stop :
    let b := { one with issue := { one.issue with pc := 0x80000 } }
    (match fetch b with | .stop _ => true | _ => false) = true := by decide +kernel

theorem witness_DecodeAndEncodeAgree : (Instr.add 4 5 6).wf = true ∧ encode (.add 4 5 6) = some 0x04414601 := by decide +kernel

theorem witness_EveryStepKeepsMemoriesCanonical :
    MemoriesCanonical (State.reset.withFetchWord 32 0x04414601) ∧
      (match step (State.reset.withFetchWord 32 0x04414601) with | .next _ => true | _ => false) = true := by
  unfold MemoriesCanonical; decide +kernel

theorem witness_StoppedClocksOnlyReset :
    let s := { State.reset with mgmt := { State.reset.mgmt with stopped := true }, agenda := [.event .moduleReset] }
    s.mgmt.stopped = true ∧ s.agenda = .event .moduleReset :: [] ∧ ∀ r, State.reset.agenda ≠ .event .moduleReset :: r := by
  refine ⟨rfl, rfl, fun r h => by cases h⟩

/-! ### Results of single steps, by the spec's worked values and by hand from its tables -/
/-- `one` with three scalar registers set. -/
def abc (a b c : Word) : State := setS (setS (setS one 0 5 a) 0 6 b) 0 7 c

/-- s4 of strand 0 after an instruction on s5 and s6. -/
def s4of (i : Instr) (a b : Word) : Option Word := scalarOf (exec i (abc a b 0)) 0 4

/-- After R90: add and adds of 0x7FFFFFFF and 1. -/
theorem test_add_wraps : s4of (.add 4 5 6) 0x7FFFFFFF 1 = some 0x80000000 := by decide +kernel

theorem test_adds_clamps : s4of (.adds 4 5 6) 0x7FFFFFFF 1 = some 0x7FFFFFFF := by decide +kernel

theorem test_subs_clamps : s4of (.subs 4 5 6) 0x80000000 1 = some 0x80000000 := by decide +kernel

theorem test_subus_clamps : s4of (.subus 4 5 6) 1 2 = some 0 := by decide +kernel

theorem test_mulh_signed : s4of (.mulh 4 5 6) 0xFFFFFFFF 2 = some 0xFFFFFFFF := by decide +kernel

theorem test_mulhu_unsigned : s4of (.mulhu 4 5 6) 0xFFFFFFFF 2 = some 1 := by decide +kernel

/-- R89. -/
theorem test_div_overflow : s4of (.div 4 5 6) 0x80000000 0xFFFFFFFF = some 0x80000000 ∧ s4of (.rem 4 5 6) 0x80000000 0xFFFFFFFF = some 0 := by
  decide +kernel

theorem test_div_by_zero : s4of (.div 4 5 6) 9 0 = some 0xFFFFFFFF ∧ s4of (.remu 4 5 6) 9 0 = some 9 := by decide +kernel

theorem test_rem_sign : s4of (.rem 4 5 6) 0xFFFFFFF9 2 = some 0xFFFFFFFF ∧ s4of (.div 4 5 6) 0xFFFFFFF9 2 = some 0xFFFFFFFD := by
  decide +kernel

/-- R90. -/
theorem test_shift_counts : s4of (.shl 4 5 6) 1 32 = some 0 ∧ s4of (.sra 4 5 6) 0x80000000 40 = some 0xFFFFFFFF ∧
    s4of (.ror 4 5 6) 1 33 = some 0x80000000 := by decide +kernel

theorem test_counts : s4of (.clz 4 5) 0 0 = some 32 ∧ s4of (.ctz 4 5) 0x80 0 = some 7 ∧ s4of (.brev 4 5) 1 0 = some 0x80000000 := by
  decide +kernel

/-- After R93. -/
theorem test_lui_ori : scalarOf (exec (.lui 4 0x12345) one) 0 4 = some 0x12345000 ∧
    scalarOf (exec (.ori 4 4 0x678) (setS one 0 4 0x12345000)) 0 4 = some 0x12345678 := by decide +kernel

theorem test_zero_register : scalarOf (exec (.addi 0 0 5) one) 0 0 = some 0 := by decide +kernel

/-- After R94: an unsigned comparison with −1 fails for 0xFFFFFFFF alone. -/
theorem test_cmpi_unsigned : (getP (after (exec (.cmpi 1 6 5 0x1FFF) (abc 7 0 0))) 0 1 = true) ∧
    getP (after (exec (.cmpi 1 6 5 0x1FFF) (abc 0xFFFFFFFF 0 0))) 0 1 = false := by decide +kernel

theorem test_sel : s4of (.sel 4 5 6 7) 1 2 = some 1 ∧ s4of (.sel 4 5 6 1) 1 2 = some 2 := by decide +kernel

theorem test_gshl_64 : uniformOf (exec (.gshl 6 4 5) (setG (setG one 0 4 1) 0 5 64)) 6 = some 0 := by decide +kernel

theorem test_gaddi_negative : uniformOf (exec (.gaddi 4 4 0xFF80) (setG one 0 4 0x80)) 4 = some 0 := by decide +kernel

theorem test_addw_carries : scalarOf (exec (.addw 2 3 4) (setS (setS one 0 6 0xFFFFFFFF) 0 8 1)) 0 5 = some 1 := by decide +kernel

/-- After R105: lanes 0 and 1 with s5 = 100 + lane and s6 = 1. -/
def lanes2 : State := setS (setS (setS (setS two 0 5 100) 1 5 101) 0 6 1) 1 6 1

theorem test_shfl_up : scalarOf (exec (.shflUp 4 5 6) lanes2) 0 4 = some 100 ∧ scalarOf (exec (.shflUp 4 5 6) lanes2) 1 4 = some 100 := by
  decide +kernel

theorem test_red_add : scalarOf (exec (.redAdd 7 5) lanes2) 1 7 = some 201 := by decide +kernel

theorem test_red_min_identity : scalarOf (exec (.redMin 7 5) lanes2) 1 7 = some 100 := by decide +kernel

theorem test_masks : scalarOf (exec (.voteBal 8 7) lanes2) 0 8 = some 3 ∧ scalarOf (exec (.matchLanes 8 5) lanes2) 1 8 = some 2 := by
  decide +kernel

/-- After R166: FFMA rounds once, FMUL and FADD twice. -/
theorem test_ffma : scalarOf (exec (.ffma 4 5 5 6 0) (abc 0x3F800800 0xBF801000 0)) 0 4 = some 0x33800000 := by decide +kernel

theorem test_fmul_rounds : s4of (.fmul 4 5 6) 0x3F800800 0x3F800800 = some 0x3F801000 := by decide +kernel

theorem test_fadd_zero : s4of (.fadd 4 5 6) 0x3F801000 0xBF801000 = some 0 := by decide +kernel

theorem test_frcp_zero : s4of (.frcp 4 5) 0x80000000 0 = some 0xFF800000 := by decide +kernel

theorem test_fsqrt : s4of (.fsqrt 4 5) 0x40800000 0 = some 0x40000000 := by decide +kernel

theorem test_fexp2 : s4of (.fexp2 4 5) 0x40400000 0 = some 0x41000000 := by decide +kernel

theorem test_flog2 : s4of (.flog2 4 5) 0x41000000 0 = some 0x40400000 := by decide +kernel

/-- After R171 and R172. -/
theorem test_hfma2 : scalarOf (exec (.hfma2 4 5 6 7 1) (abc 0x3C004000 0x7C003800 0xFC00BC00)) 0 4 = some 0x7E000000 := by decide +kernel

theorem test_idp4 : scalarOf (exec (.idp4 4 5 6 7 0) (abc 0xFF020380 0x010405FF 0)) 0 4 = some 150 ∧
    scalarOf (exec (.idp4 4 5 6 7 3) (abc 0xFF020380 0x010405FF 0)) 0 4 = some 32918 := by decide +kernel

/-- After R169. -/
def cvt (i : Instr) (a : Word) : Option Word := s4of i a 0

theorem test_fcvt_table : cvt (.fcvt 4 5 0 0 5 0) 0xC0200000 = some 0xFFFFFFFE ∧ cvt (.fcvt 4 5 0 0 5 0) 0x4F32D05E = some 0x7FFFFFFF ∧
    cvt (.fcvt 4 5 0 0 6 0) 0x4F32D05E = some 0xB2D05E00 ∧ cvt (.fcvt 4 5 0 0 5 0) 0x7FC00000 = some 0 := by decide +kernel

theorem test_memory_byte_order : scalarOf (exec (.ld 4 4 0 0 4 0) (block [0x78, 0x56, 0x34, 0x12])) 0 4 = some 0x12345678 := by
  decide +kernel

theorem test_load_sees_own_store :
    scalarOf (exec (.ld 8 4 0 0 4 0) (after (exec (.st 5 4 0 0 4 0) (setG (abc 0xCAFE 0 0) 0 4 0x1000)))) 0 8 = some 0xCAFE ∧
      Mem.nat (after (exec (.st 5 4 0 0 4 0) (setG (abc 0xCAFE 0 0) 0 4 0x1000))).mem 0x1000 4 = 0 := by decide +kernel

theorem test_atomic_at_coherence_point :
    let t := after (exec (.atomAdd 5 4 0 0) (setG (abc 7 0 0) 0 4 0x1000))
    let u := after (exec (.atomAdd 5 4 0 0) t)
    Mem.nat t.mem 0x1000 4 = 7 ∧ getS t 0 5 = 0 ∧ getS u 0 5 = 7 ∧ Mem.nat u.mem 0x1000 4 = 7 := by decide +kernel

/-- R183: a signed byte load extends its sign, an unsigned one does not. -/
theorem test_load_sizes : scalarOf (exec (.ld 4 4 0 0 1 0) (block [0x80])) 0 4 = some 0xFFFFFF80 ∧
    scalarOf (exec (.ld 4 4 0 0 0 0) (block [0x80])) 0 4 = some 0x80 ∧
    scalarOf (exec (.ld 4 4 0 0 5 0) (block [0, 0, 0, 0, 9])) 0 5 = some 9 := by decide +kernel

theorem test_misaligned_load_traps :
    (after (exec (.ld 4 4 0 0 4 0) (setG one 0 4 0x1002))).tasks = [] ∧
      ((after (exec (.ld 4 4 0 0 4 0) (setG one 0 4 0x1002))).mesh.map (fun m => m.kind == .task)).length = 1 := by decide +kernel

theorem test_exit_ends : (strandAt (after (exec .exit one)) 0).wait = .exited := by decide +kernel

theorem test_jal_links : scalarOf (exec (.jal 3) one) 0 63 = some 4 ∧ (strandAt (after (exec (.jal 3) one)) 0).pc = 12 := by
  decide +kernel

theorem test_bra_divides : (strandAt (after (exec (.bra 0 1 2) (setP two 1 1 true))) 1).pc = 8 ∧
    (strandAt (after (exec (.bra 0 1 2) (setP two 1 1 true))) 0).pc = 4 := by decide +kernel

theorem test_reserved_word_traps : (after (step (State.reset.withFetchWord 32 0))).tasks = [] := by decide +kernel

/-! ### Further clauses -/

theorem witness_BranchesAndJumps_uniform_misaligned : (getG (setG one 0 6 2) (gk one) 6).toNat % 4 ≠ 0 := by decide +kernel

theorem witness_TrapsAreTaken_service :
    let t := { task1 with work := .service 3 0 0 0 }
    let s := { one with tasks := AMap.put one.tasks 0 t }
    issuer? s = some (0, t) ∧ t.work = .service 3 0 0 0 ∧ t.supv = false := by decide +kernel

theorem witness_WindowLocks_full_bank :
    let bit := lockBit 0 false (ea one 0 0 0 (Machine.sizeOf 4) 0) 0
    let s := { one with locks := AMap.put one.locks bit ⟨7, List.range 32⟩ }
    32 ≤ bankQueue s (bit / 64) ∧ bankQueue { s with locks := AMap.put one.locks bit ⟨7, []⟩ } (bit / 64) < 32 := by decide +kernel

theorem witness_RemoteOperationsHere_nothing_pending :
    sideRops one 0 (ropPeer? one (getG one (gk one) 0 + (getS one 0 0).signExtend 64)) = [] := by decide +kernel

theorem witness_MonitorParks_by_address :
    let s := { one with strands := AMap.put one.strands 0 { placedStrand with lastVa := some 0, woken := true } }
    ((strandAt s 0).lastVa = some ((0 : DWord).toNat / 128)) ∧ (strandAt s 0).woken = true := by decide +kernel

/-- A rop.st of the strand of `one` to peer 5, and `one` while the peer has not acknowledged it. -/
def posted1 : Entry := { parked1 with kind := .ropSt, uid := task1.uid }

def ropping : State := modPeer one 5 (fun x => { x with unacked := [⟨9, 5, [], .ropSt posted1 0, 0, 0⟩] })

theorem witness_ropping : issuer? ropping = some (0, task1) ∧ ropsOut ropping (active ropping) = true ∧
    ropsOut one (active one) = false := by decide +kernel

theorem witness_ShapesAndCopies_queued_before :
    let s := setG { one with queues := AMap.put one.queues 3 ⟨[copy1], none⟩ } 0 4 8
    copy1.since ≤ fenceTime s ∧ (getG s 0 4).getLsbD 3 = true := by decide +kernel

theorem witness_Sends_on_a_core : one.issue.core < 256 ∧ (active user ≠ []) ∧ ¬Privileged user 1 := by
  unfold Privileged; decide +kernel

theorem witness_SlotBindings_user :
    let s := setG user 0 4 0x0000000101000100
    issuer? s = some (0, task1) ∧ (getG s 0 4).getLsbD 24 = true ∧ ¬Privileged s 1 := by unfold Privileged; decide +kernel

theorem witness_PleachInstructions_user : issuer? user = some (0, task1) ∧ ¬Privileged user 1 := by unfold Privileged; decide +kernel

theorem witness_LaunchStarts_no_peer_copies :
    peerCopiesOut (launching 0) (launching 0).issue.core (launching 0).now = false := by decide +kernel

/-- `mapping` while the frame of its source is still being reclaimed from another node. -/
def busySource : State :=
  { mapping with map := { mapping.map with
      nodes := AMap.put mapping.map.nodes 2 { node1 with reclaim := true, cut := true, parent := some 1, space := 2 }
      kept3 := AMap.put mapping.map.kept3 (2 * 2 ^ 33) { placedLeaf with node := 2 } } }

theorem witness_MappingInstructions_reclaimed :
    let r := mapReq (viewBytes busySource 0 0x1000 32)
    sourceBusy busySource 1 r = true ∧ sourceBusy mapping 1 r = false ∧
      (∀ g, deriveCheck busySource.map g 1 1 (foreign busySource 1 1) false r = .inr (1, .fresh)) := by decide +kernel

/-- The bytes of a coppiced task's frame: its magic number, its version and one group. -/
def framed : State :=
  let s := { away with
    mem := Mem.setBytes away.mem 0x100000 ([0x43, 0x4F, 0x50, 0x43] ++ [1, 0] ++ [1, 0])
    map := { away.map with
      leaf3 := AMap.put (AMap.put away.map.leaf3 (2 ^ 33 + 2) { placedLeaf with frame := 2 }) (2 ^ 33 + 3) { placedLeaf with frame := 3 } } }
  modCtx s 1 (fun x => { x with coppiced := AMap.modify x.coppiced 1 (fun c => { c with saved := false, bytes := [] }) })

def framedBytes (off n : Nat) : Nat :=
  natOfBytes (memBytes framed (if off < 2 ^ 19 then 0x100000 + off else 0x180000 + (off - 2 ^ 19)) n)

theorem witness_PageRequestsAndReplays_frame :
    let fit := fitsAway? framed 1 (frameGroups framedBytes) (frameUnits framedBytes)
    let w := walkPages framed 1 [0x100000, 0x100000 + 2 ^ 19]
    (clusterAt framed 0).readmit = 1 :: [] ∧ ((coppicedBy? framed 1).map (fun e => (e.1, e.2.saved, e.2.frame))) = some (1, false, 0x100000) ∧
      framed.badLines = [] ∧ framedBytes 0 4 = 0x43504F43 ∧ framedBytes 4 2 = 1 ∧ frameReadable w 1 0x100000 = true ∧
      (match frameAt w 1 0x100000 with | .inr x => x == (0x100000, 0x180000) | _ => false) = true ∧
      (choosePlace framed.determActive (weightOf framed) true
        (((List.range 8).map (fun i => 0 * 8 + i)).filter (fun j => (fit j).isSome && hasPlaces framed framedBytes j))
        (clusterAt framed 0).readmitPlace).map (·.1) = some 0 ∧
      framedBytes 0x18 2 = 0 ∧ framedBytes 0x1A 2 = 0 := by decide +kernel

theorem witness_PageRequestsAndReplays_resident : resident one 0 1 = true ∧ ∀ x ∈ one.ctxs, x.2.ovf = [] := by decide +kernel

theorem witness_LinksAndRestripes_restart :
    let r : Restripe := ⟨0, 12, false⟩
    let d : LinkDir := { (portAt one 0).tx with restripe := some r, dark := 1, replay := [(4, [])] }
    let e : LinkDir := { (portAt one 0).rx with restripe := some r, dark := 1 }
    let width := fun (x : LinkDir) => 4 * ((List.range 4).filter (fun k => x.dark.extractLsb' (4 * k) 4 == 0)).length
    let s := modPort one 0 (fun x => { x with tx := d, rx := e })
    (portAt s 0).tx.restripe = some r ∧ (portAt s 0).rx.restripe = some r ∧ width d = 12 ∧ width { e with dark := 0x1111 } = 0 ∧
      e.agreed = none ∧ ({ e with agreed := some 5 } : LinkDir).agreed.isSome = true := by
  decide +kernel

theorem witness_WindowPlacements_not_reclaimed :
    stillReclaimed true (posted homed creating) (4096 + 1) = false ∧
      stillReclaimed true (posted homed creating) (((slotOf creating).word 3).setWidth 12 : CtxId).toNat = false ∧
      stillReclaimed false (posted homed making) 2 = false := by decide +kernel

theorem witness_FabricPackets_acknowledged_store :
    ∀ x ∈ (peerAt ropping 5).unacked, ∀ e core, x.use = .ropSt e core → e.sent = false := by
  have h : (peerAt ropping 5).unacked = [⟨9, 5, [], .ropSt posted1 0, 0, 0⟩] := by decide +kernel
  rw [h]
  intro x hx e core he
  rw [List.mem_singleton.mp hx] at he
  cases he; rfl

/-! ### Clauses of the statements on control flow, locks and remote operations -/

/-- `two` with strand 1 waiting at join mask 2, and only strand 0 in S. -/
def joining (mask : Word) : State :=
  setJ { two with issue := one.issue, strands := AMap.put two.strands 1 { placedStrand with wait := .join 2 } } 0 2 ⟨mask, 0, 2⟩

/-- With mask 3 both lanes have come and the one that waited is released; with mask 7 it stays; and with mask 2 the strand of S is
outside the mask. -/
theorem witness_Joins_waiting :
    let w := fun (m : Word) => (getJ (joining m) 0 2).waiting ||| ((joining m).issue.mask &&& m)
    (joining 3).issue.pc = (getJ (joining 3) 0 2).pc ∧ w 3 = 3 ∧ w 7 ≠ 7 ∧ w 2 = 2 ∧ (2 : Word).getLsbD 0 = false ∧
      (joining 3).issue.mask.getLsbD 1 = false ∧ (getJ (joining 3) 0 2).waiting.getLsbD 1 = true ∧
      AMap.get? (joining 3).strands (skey (joining 3) 1) = some { placedStrand with wait := .join 2 } := by decide +kernel

/-- A join mask of which the exiting lane is the last, and a barrier of the task that only it has not arrived at. -/
theorem witness_ExitEndsStrands_releases :
    let b : Barrier := { members := [task1.uid], arrived := [(task1.uid, 1)], generation := 4 }
    let t := { task1 with bars := [(3, b)] }
    let s := { joining 3 with tasks := AMap.put (joining 3).tasks 0 t }
    let at3 := { s with strands := AMap.put s.strands 1 { placedStrand with wait := .barrier false 3 4 } }
    let ended := modStrands at3 (active at3) (fun x => { x with wait := .exited })
    issuer? s = some (0, t) ∧ (∀ k ∈ active s, (strandAt s k).locks = []) ∧
      (∀ n, n < 8 → ∀ l, l < 32 → (getJ s 0 n).waiting.getLsbD l = true → (strandAt s (skey s l)).wait ≠ .exited) ∧
      (getJ s 0 2).waiting ≠ 0 ∧ (getJ s 0 2).waiting = (getJ s 0 2).mask &&& ~~~s.issue.mask ∧
      (∀ i, i < 8 → i ≠ 2 → (getJ s 0 i).waiting.getLsbD 1 = false) ∧ (strandAt s 1).wait = .join 2 ∧
      (strandAt at3 1).wait = .barrier false 3 4 ∧ inS at3 1 = false ∧ (strandsOfTask t).contains 1 = true ∧
      AMap.get? t.bars 3 = some b ∧ barrierFull ended b = true ∧
      (getJ (joining 7) 0 2).waiting ≠ (getJ (joining 7) 0 2).mask &&& ~~~(joining 7).issue.mask := by decide +kernel

/-- A barrier of the cluster with one member, whose other strand waits, as S exits. -/
theorem witness_ExitEndsStrands_cluster :
    let b : Barrier := { members := [task1.uid], arrived := [(task1.uid, 1)], generation := 0 }
    let s := modCluster { two with issue := one.issue, strands := AMap.put two.strands 1 { placedStrand with wait := .barrier true 5 0 } } 0
      (fun c => { c with bars := [(5, b)] })
    let ended := modStrands s (active s) (fun x => { x with wait := .exited })
    AMap.get? (clusterAt s 0).bars 5 = some b ∧ barrierFull ended b = true ∧ (strandAt s 1).wait = .barrier true 5 0 ∧
      (1 / 1024 / 8 == s.issue.core / 8) = true ∧ (0 != b.generation + 1) = true := by decide +kernel

/-- The holder of a lock bit for which strand 7 waits. -/
theorem witness_WindowLocks_passed :
    let bit := lockBit 0 false (ea one 0 0 0 (Machine.sizeOf 4) 0) 0
    let y := { placedStrand with locks := [bit] }
    let w := { placedStrand with wait := .lock bit false 4 9 4 }
    let s := { one with strands := AMap.put (AMap.put one.strands 0 y) 7 w, locks := AMap.put one.locks bit ⟨0, [7]⟩ }
    AMap.get? s.locks bit = some ⟨0, 7 :: []⟩ ∧ y.locks.contains bit = true ∧ AMap.get? s.strands 7 = some w ∧
      w.wait = .lock bit false 4 9 4 ∧ (coreAt s (bit / 64)).lockLate = [] := by decide +kernel

theorem witness_Atomics_nothing_pending :
    sidePending one (active one) = false ∧ plainMem (0 + 8 - 1) = true ∧ plainMem (0 + 4 - 1) = true := by decide +kernel

/-- This part under its own number, as a peer of itself. -/
def selfConnected : State := { one with fab := { one.fab with self := 3, table := [(3, 2 ^ 63)] } }

theorem witness_RemoteOperationsHere_goes :
    let a := getG one (gk one) 0 + (getS one 0 0).signExtend 64
    issuer? one = some (0, task1) ∧ active one = [0] ∧ AMap.get? one.strands 0 = some placedStrand ∧ one.badLines = [] ∧
      roomWait? one 0 = none ∧ (groupAt? one (gk one)).bind (·.parked) = none ∧ plainMem 0 = true ∧ a.toNat < 2 ^ 52 ∧
      sideRops one 0 none = [] ∧ unitOut one (Entry.ofStrands one [0]) = false ∧ vfPart? one task1.ctx = none ∧
      (∀ n ∈ [4, 8, 16], a.toNat % n = 0) ∧ (checkPage one (coreCaches 0) 1 (ropVa a) 0 false).2 = .page 0 ∧
      (checkPage one (coreCaches 0) 1 (ropVa a) 1 true).2 = .page 0 ∧ (checkPage one (coreCaches 0) 1 (ropVa a) 3 true).2 = .page 0 := by
  decide +kernel

theorem witness_RemoteOperationsHere_again :
    let a := getG one (gk one) 0 + (getS one 0 0).signExtend 64
    let again := fun (right : Nat) (wr : Bool) =>
      (checkPage (checkPage one (coreCaches 0) 1 (ropVa a) right wr).1 (coreCaches 0) 1 (ropVa a) right wr).2
    again 0 false = .page 0 ∧ again 3 true = .page 0 := by decide +kernel

theorem witness_RemoteOperationsHere_own_number :
    let s := setG selfConnected 0 4 0x8060000000000000
    let a := getG s (gk s) 4 + (getS s 0 0).signExtend 64
    a.getLsbD 63 = true ∧ a.getLsbD 52 = false ∧ a.extractLsb' 53 10 = s.fab.self ∧ connected s s.fab.self = true ∧
      (checkPage s (coreCaches 0) 1 (ropVa a) 0 false).2 = .page 0 := by decide +kernel

/-- An operation of strand 0 at unit 0, on address 0x1000 of context 1. -/
def job (op : BitVec 5) (fl : BitVec 4) (left : Nat) : RopJob :=
  { e := { kind := .ropR, ea := 0x1000, data := [1, 0, 9, 0], size := 3, aop := op, fl := fl, d := 4, sign := false, strand := 0, order := 0,
           away := ⟨0, .unmapped, 1, none, none, false⟩, ctx := 1, uid := task1.uid, taskId := 0, msgId := 0, discarded := false,
           sent := false }
    source := .strand 0 0, unit := 0, pa := 0x1000, next := 0x1000, left := left, index := 0 }

/-- `one` with that operation first at its unit, and the eight bytes of its address. -/
def atUnit (j : RopJob) (v : Nat) : State := { one with mem := Mem.setBytes one.mem 0x1000 (bytesOf 8 v), units := [(0, [j])] }

theorem witness_RemoteOperationsHere_performs :
    ∀ j ∈ [job 0 2 1, job 1 2 1, job 2 1 1, job 3 0 1, job 4 0 1, job 5 3 4], let s := atUnit j 0
      let s0 := { s with units := AMap.put s.units 0 [] }
      AMap.getD s.units 0 [] = j :: [] ∧ j.unit.toNat = 0 ∧ s.badLines = [] ∧ j.next.toNat % 8 = 0 ∧ Mem.nat s.mem 0x1000 8 = 0 ∧
        (∀ r ∈ [(0, false), (1, true), (3, true)], (checkPage s0 j.caches j.e.ctx (ropVa j.e.ea) r.1 r.2).2 = .page 0x1000) ∧
        (checkPage s0 j.caches j.e.ctx j.next 0 false).2 = .page 0x1000 ∧ plainMem 0x1000 = true ∧
        (∀ m ∈ [8, 16], plainMem (0x1000 + m - 1) = true) := by decide +kernel

theorem nearUnit_elsewhere (pa st : Nat) (h : stackOf? pa = some st) (h1 : 1 ≤ st) (h2 : st < 8) : nearUnit pa ≠ 0 := by
  intro e
  rw [nearUnit, h] at e
  have e := congrArg BitVec.toNat e
  simp only [BitVec.toNat_ofNat] at e
  rw [show (0 : BitVec 5).toNat = 0 from rfl] at e
  have := (Config.quarterOf (pa / 128)).isLt
  omega

/-- An enqueue behind a node at 0x2000, a chase whose next hop is not present, and one whose next hop is in the next stack. -/
theorem witness_RemoteOperationsHere_on :
    let s := atUnit (job 4 0 1) 0x2000
    let s0 := { s with units := AMap.put s.units 0 [] }
    let far := fun (t : State) => { t with map := { t.map with leaf3 := AMap.put t.map.leaf3 (2 ^ 33 + 1) { placedLeaf with frame := 0x20000 } } }
    let met := fun (t : State) => wakeLine (checkPage { t with units := AMap.put t.units 0 [] } (job 5 3 4).caches 1 0x1000 0 false).1
      (.global (0x1000 / 128)) .all
    Mem.nat s.mem 0x1000 8 = 0x2000 ∧ 0x2000 % 8 = 0 ∧ plainMem 0x2000 = true ∧ plainMem (0x2000 + 7) = true ∧
      (checkPage (checkPage s0 (job 4 0 1).caches 1 (ropVa 0x1000) 3 true).1 (job 4 0 1).caches 1
        (BitVec.ofNat 64 (Mem.nat s.mem 0x1000 8)) 3 true).2 = .page 0x2000 ∧
      placeOf? (met (atUnit (job 5 3 4) 0x80000)) (job 5 3 4).caches 1 0x80000 = none ∧
      placeOf? (met (far (atUnit (job 5 3 4) 0x80000))) (job 5 3 4).caches 1 0x80000 = some 0x1000000000 ∧
      1 < (job 5 3 4).left ∧ (job 5 3 1).left ≤ 1 ∧ nearUnit 0x1000000000 ≠ (job 5 3 4).unit := by
  refine ⟨by decide +kernel, by decide +kernel, by decide +kernel, by decide +kernel, by decide +kernel, by decide +kernel,
    by decide +kernel, by decide +kernel, by decide +kernel, nearUnit_elsewhere _ 1 (by decide +kernel) (by omega) (by omega)⟩

theorem witness_RemoteOperationsHere_answer :
    let j := job 2 1 1
    let m := { ropMessage (.ropRes j (.done [5, 0])) .reply (.nearMemory 0) 1 with landed := true }
    let q := { ropMessage (.ropReq j) .req (.core 0) 1 with landed := true }
    let y := { placedStrand with wait := .rop }
    let s := { one with mesh := [q, m], strands := AMap.put one.strands 0 y }
    meshAt? s 0 = some q ∧ q.peer = none ∧ q.kind = .ropReq j ∧ meshAt? { s with mesh := [m] } 0 = some m ∧
      m.kind = .ropRes j (.done [5, 0]) ∧ j.source = .strand 0 0 ∧ j.e.kind ≠ .ropSt ∧ j.e.sent = false ∧
      taskByUid? s j.e.uid = some (0, task1) ∧ strandByIx? task1 j.e.strand = some 0 ∧ AMap.get? s.strands 0 = some y := by
  decide +kernel

/-- An atomic without return of the strand stands in the side log. -/
theorem witness_PhaseOrdersMemory_side_log :
    let e := { parked1 with kind := .atomNR, uid := task1.uid }
    let s := modCore one 0 (fun c => { c with sidelog := [e] })
    issuer? s = some (0, task1) ∧ sideUnperformed s (active s) = true := by decide +kernel

/-! ### Barriers -/

/-- With one strand the arrival completes the generation; with another strand that has not arrived it does not. -/
theorem witness_Barriers_full :
    let b := barrierAt one false task1 3
    let m := b.arrive task1.uid ((active one).map (fun k => (strandIx one k).toNat))
    barrierFull one m = true ∧ barrierFull { two with issue := one.issue } m = false ∧ barrierAt one true task1 3 = b := by
  decide +kernel

/-- Strand 1 waits at the barrier for the generation that strand 0 completes; and strand 0 has marked the generation already. -/
theorem witness_Barriers_waiting :
    let b : Barrier := { members := [task1.uid], arrived := [(task1.uid, 1)], generation := 4 }
    let t := { task1 with bars := [(3, b)] }
    let s := { two with issue := one.issue, tasks := AMap.put two.tasks 0 t, strands := AMap.put two.strands 1 { placedStrand with wait := .barrier false 3 4 } }
    issuer? s = some (0, t) ∧ barrierAt s false t 3 = b ∧ barrierFull s (b.arrive t.uid [0]) = true ∧ inS s 1 = false ∧
      (strandAt s 1).wait = .barrier false 3 4 ∧ (4 != b.generation + 1) = true ∧ (strandsOfTask t).contains 1 = true ∧
      ({ b with arrived := [(task1.uid, 0)] } : Barrier).arrived.contains (t.uid, (strandIx s 0).toNat) = true := by decide +kernel

/-- The shares of the two residents of a cluster: 7 is inside, 8 is not. -/
theorem witness_Barriers_share :
    let s := modCluster one 0 (fun c => { c with resident := true, lower := none, upper := some 1 })
    barShare? s 0 1 = some (8, 8) ∧ (7 : BitVec 4).toNat < 8 ∧ 8 ≤ (8 : BitVec 4).toNat ∧ (0 : Nat) < 32 := by decide +kernel

theorem witness_Barriers_not_quiet : ¬(ropsOut ropping (active ropping) = false ∧ sideUnperformed ropping (active ropping) = false) ∧
    ∀ k ∈ active ropping, (strandAt ropping k).wait ≠ .exited := by decide +kernel

/-! ### Clauses of the statements on tables, events and the fabric -/

theorem witness_PleachInstructions_more :
    let s := pleached (fun p => { p with entries := [(0, { PlEntry.init with issued := some (.trapped 1) }), (1, { PlEntry.init with issued := some .restart })],
                                         down := 5 })
    let t := { s with fab := { s.fab with table := [(5, 2 ^ 63)] } }
    let g := fun v => (getG (setG one 0 4 v) 0 4).toNat
    (∀ e ∈ [0, 1], ∀ x, (AMap.getD s.pl.entries e PlEntry.init).issued = some x → x = .restart ∨ ∃ n, x = .trapped n) ∧
      plPeer? s s.pl.down = some 5 ∧ connected s 5 = false ∧ connected t 5 = true ∧
      g 9 = 9 ∧ g 0xF = 0xF ∧ g 0x20 = 0x20 ∧ g 0x1FF = 0x1FF ∧ getG (setG one 0 4 0x20F) 0 4 &&& ~~~0x30F#64 = 0 ∧
      (getG (setG one 0 4 0x20F) 0 4).getLsbD 9 = true := by
  refine ⟨?_, by decide +kernel⟩
  intro e he x hx
  simp only [List.mem_cons, List.mem_nil_iff, or_false] at he
  rcases he with rfl | rfl
  · exact .inr ⟨1, (Option.some.inj hx).symm⟩
  · exact .inl (Option.some.inj hx).symm

theorem witness_PleachInstructions_not_free :
    let s := pleached (fun p => { p with entries := [(0, { PlEntry.init with issued := some .running })] })
    ¬∀ x, (AMap.getD s.pl.entries 0 PlEntry.init).issued = some x → x = .restart ∨ ∃ n, x = .trapped n := by
  intro s h
  rcases h .running rfl with h | ⟨n, h⟩ <;> cases h

/-- A done record that has been released, and one that executes with none of those done. -/
theorem witness_EngineRecords_released :
    let q := { running 2 with done := true }
    let s := { one with engines := AMap.put one.engines 0 { engineAt one 0 with executing := some (running 2), units := [running 5, q] } }
    (engineAt s 0).units.find? (fun y => y.done) = some q ∧ tokGroup? s q.record.tok = some 0 ∧
      counterShare? s (0 / 16) q.record.ctx = some (0, 4096) ∧ ∀ y ∈ (engineAt (executing q) 0).units, y.done = false := by decide +kernel

/-- A SLOTGIVE for entry 4 that waits for peer 5. -/
theorem witness_PleachAtWork_held :
    let s := { one with pl := { one.pl with owner := none, stalled := [(5, .slotgive 3 true false 9, some 4)] } }
    s.pl.owner = none ∧ s.pl.stalled = [(5, .slotgive 3 true false 9, some 4)] ∧ connected s 5 = false ∧
      connected { s with fab := { s.fab with table := [(5, 2 ^ 63)] } } 5 = true := by decide +kernel

theorem witness_PleachAtWork_end_elsewhere : ∀ r ∈ (ended 0).fab.releases, r.done ≠ .entry 0 := fun r h => by cases h

theorem witness_SchedulingEvents_counted :
    ∀ r, ((ctxAt? (sliced r) 1).map (fun c => c.clusters)) = some [0] ∧ (AMap.get? (sliced r).parts 0).isSome = true := by decide +kernel

/-- The answer to packet 7 of peer 5 is still kept; and a copy of a ROP that is at its unit. -/
theorem witness_FabricPackets_kept_answer :
    let x : SentPkt := ⟨3, 6, mkPacket 3 3 5 6 0 (bytesOf 4 7 ++ [0]), .answer, 0, 0⟩
    let s := modPeer (arrived one (packet 7 5 0 [])) 5 (fun y => { markSeq y 7 with unacked := [x] })
    let t := { arrived one (packet 7 5 0 []) with units := [(0, [{ job 2 1 1 with source := .peer 5 7 0 }])] }
    received (peerAt s 5) 7 = true ∧ (peerAt s 5).unacked.find? (fun x => x.use == .answer && numAt x.bytes 16 4 == 7) = some x ∧
      received (peerAt t 5) 7 = false ∧ pkKind (packet 7 5 0 []) = 5 ∧ ropTaken t 5 7 = true := by decide +kernel

/-- The result of a ROP of peer 5 that has come back to its port. -/
theorem witness_FabricPackets_rop_result :
    let j := { job 2 1 1 with source := .peer 5 7 0 }
    let m := { ropMessage (.ropRes j (.done [5, 0])) .reply (.nearMemory 0) 1 with landed := true }
    let s := { one with mesh := [m] }
    meshAt? s 0 = some m ∧ m.peer = none ∧ m.kind = .ropRes j (.done [5, 0]) ∧ j.source = .peer 5 7 0 ∧
      (peerAt s 5).unacked.length < 4096 ∧ j.e.kind ≠ .ropSt := by decide +kernel

/-- A port with a flit under way since the start, and with its replay buffer full. -/
theorem witness_LinksAndRestripes_timers :
    let s := modPort one 0 (fun x => { x with tx := { x.tx with width := 16, replay := [(4, [])], times := [0], again := 0 } })
    let t := { s with fab := { s.fab with time := 16000 } }
    let d : LinkDir := { (portAt one 0).tx with replay := List.replicate 512 (0, []) }
    featureOn s 4 = true ∧ (portAt s 0).tx.width ≠ 0 ∧ (portAt s 0).tx.restripe = none ∧ (portAt s 0).tx.again < (portAt s 0).tx.replay.length ∧
      (portAt s 0).tx.times = 0 :: [] ∧ s.fab.time < 0 + 16000 ∧ 0 + 16000 ≤ t.fab.time ∧ (portAt one 0).tx.again = 0 ∧
      512 ≤ d.replay.length := by decide +kernel

/-- Where the part offers the fabric and the owner asks for it, the ports come up with NEGOTIATE. -/
theorem witness_ManagementOfThePart_ports (h : Config.devFeat.getLsbD 4 = true) :
    let s := { State.reset with mgmt := { State.reset.mgmt with owner := 4, ready := true, drvFeat := 0x10 } }
    featureOn (after (exec (.negotiate 4) s)) 4 = true := by
  intro s
  have e : (portsUp s (modMgmt s negotiateStep)).mgmt = (modMgmt s negotiateStep).mgmt := by unfold portsUp; split <;> rfl
  have n : exec (.negotiate 4) s = .next (portsUp s (modMgmt s negotiateStep)) := rfl
  rw [n]
  show (portsUp s (modMgmt s negotiateStep)).mgmt.actFeat.getLsbD 4 = true
  rw [e]
  show (Config.devFeat.setWidth 128 &&& (0x10 : BitVec 128)).getLsbD 4 = true
  rw [BitVec.getLsbD_and, BitVec.getLsbD_setWidth, h]; rfl

/-- Statements of the receiver that source 0 is dark, and of the sender that it agrees, whose next flit is 5; neither carries an
acknowledgement. -/
theorem witness_LinksAndRestripes_stated :
    let f := flitOf (lctlPayload 0 false false 0) 0x3000
    let g := flitOf (lctlPayload 1 true false 5) 0x3000
    let r : Restripe := ⟨0, 12, false⟩
    let s := modPort one 0 (fun x => { x with rx := { x.rx with restripe := some r, dark := 1 }, tx := { x.tx with dark := 1 } })
    corruptFlit f = false ∧ corruptFlit g = false ∧ flType f = 3 ∧ flAckv f = false ∧ numAt f 2 1 % 2 = 0 ∧
      BitVec.ofNat 16 (numAt f 0 2) ≠ (portAt s 0).tx.dark ∧ flType g = 3 ∧ flAckv g = false ∧ numAt g 2 1 % 2 = 1 ∧
      (portAt s 0).rx.restripe = some r ∧ BitVec.ofNat 16 (numAt g 0 2) = (portAt s 0).rx.dark ∧ featureOn s 4 = true := by
  refine ⟨withCrc_sound _ (by decide +kernel) (by decide +kernel), withCrc_sound _ (by decide +kernel) (by decide +kernel), ?_⟩
  decide +kernel

/-- The first flit after a restripe, of which the sender had said that its next was 7. -/
theorem witness_LinksAndRestripes_first_flit :
    let r : Restripe := ⟨0, 12, false⟩
    let s := modPort one 0 (fun x => { x with rx := { x.rx with width := 12, dark := 1, awaits := some r, agreed := some 7 } })
    (portAt s 0).rx.width ≠ 0 ∧ (portAt s 0).rx.restripe = none ∧ (portAt s 0).rx.awaits = some r ∧
      (portAt s 0).rx.agreed = some 7 ∧ flType (flit 0x1005) = 1 ∧ flLseq (flit 0x1005) ≤ 7 ∧ corruptFlit [] = true := by
  decide +kernel
end Sys2Proof.Tests
end

section
/-! Values of the integer operations: each word-level function of the model as the exact integer result that R88 to R93
and R97 to R100 name, reduced to the width of the word. -/

namespace Sys2Proof.Machine

/-! ## Sums, differences and products, modulo the width -/

theorem sub_eq_ofInt {w : Nat} (x y : BitVec w) : x - y = BitVec.ofInt w (x.toInt - y.toInt) := by
  apply BitVec.eq_of_toInt_eq
  rw [BitVec.toInt_sub, BitVec.toInt_ofInt]

theorem mul_eq_ofNat {w : Nat} (x y : BitVec w) : x * y = BitVec.ofNat w (x.toNat * y.toNat) := by
  apply BitVec.eq_of_toNat_eq
  rw [BitVec.toNat_mul, BitVec.toNat_ofNat]

theorem add_signExtend_eq_ofInt {w n : Nat} (x : BitVec w) (i : BitVec n) :
    x + i.signExtend w = BitVec.ofInt w (x.toInt + i.toInt) := by
  rw [BitVec.ofInt_add, BitVec.ofInt_toInt]; rfl

theorem mul_signExtend_eq_ofInt {w n : Nat} (x : BitVec w) (i : BitVec n) :
    x * i.signExtend w = BitVec.ofInt w (x.toInt * i.toInt) := by
  rw [BitVec.ofInt_mul, BitVec.ofInt_toInt]; rfl

/-- The high half of a 64-bit word holds its signed value divided by 2^32, rounded down. -/
theorem extractHigh_eq_ofInt (z : DWord) : z.extractLsb' 32 32 = BitVec.ofInt 32 (z.toInt / 2 ^ 32) := by
  apply BitVec.eq_of_toNat_eq
  rw [BitVec.extractLsb'_toNat, BitVec.toNat_ofInt, Nat.shiftRight_eq_div_pow, BitVec.toInt_eq_toNat_cond]
  split <;> omega

/-- The high half of the signed product: the product of two sign-extended words fits its 64 bits. -/
theorem highSigned_eq_ofInt (x y : Word) :
    (x.signExtend 64 * y.signExtend 64).extractLsb' 32 32 = BitVec.ofInt 32 (x.toInt * y.toInt / 2 ^ 32) := by
  have low := @BitVec.le_toInt_mul_toInt 32 x y
  have high := @BitVec.toInt_mul_toInt_le 32 x y
  have exact64 : (x.signExtend 64 * y.signExtend 64).toInt = x.toInt * y.toInt := by
    rw [BitVec.toInt_mul, BitVec.toInt_signExtend_of_le (by omega), BitVec.toInt_signExtend_of_le (by omega)]
    exact Int.bmod_eq_of_le (by omega) (by omega)
  rw [← exact64, extractHigh_eq_ofInt]

/-- The high half of the unsigned product: the product of two zero-extended words fits its 64 bits. -/
theorem highUnsigned_eq_ofNat (x y : Word) :
    (x.setWidth 64 * y.setWidth 64).extractLsb' 32 32 = BitVec.ofNat 32 (x.toNat * y.toNat / 2 ^ 32) := by
  have fits : x.toNat * y.toNat < 2 ^ 32 * 2 ^ 32 := Nat.mul_lt_mul'' x.isLt y.isLt
  apply BitVec.eq_of_toNat_eq
  have hx := x.isLt
  have hy := y.isLt
  rw [BitVec.extractLsb'_toNat, BitVec.toNat_mul, BitVec.toNat_setWidth, BitVec.toNat_setWidth, Nat.shiftRight_eq_div_pow,
    BitVec.toNat_ofNat, Nat.mod_eq_of_lt (by omega : x.toNat < 2 ^ 64), Nat.mod_eq_of_lt (by omega : y.toNat < 2 ^ 64),
    Nat.mod_eq_of_lt (by omega : x.toNat * y.toNat < 2 ^ 64)]

/-! ## Shifts -/

theorem shiftLeft_eq {w : Nat} (x : BitVec w) (c : Nat) :
    shiftLeft x c = if c < w then BitVec.ofNat w (x.toNat * 2 ^ c) else 0 := by
  unfold shiftLeft
  congr 1
  apply BitVec.eq_of_toNat_eq
  rw [BitVec.toNat_shiftLeft, Nat.shiftLeft_eq, BitVec.toNat_ofNat]

theorem shiftRight_eq {w : Nat} (x : BitVec w) (c : Nat) :
    shiftRight x c = if c < w then BitVec.ofNat w (x.toNat / 2 ^ c) else 0 := by
  unfold shiftRight
  congr 1
  rw [← Nat.shiftRight_eq_div_pow, ← BitVec.toNat_ushiftRight, BitVec.ofNat_toNat, BitVec.setWidth_eq]

theorem shiftArith_of_lt {w : Nat} (x : BitVec w) {c : Nat} (h : c < w) :
    shiftArith x c = BitVec.ofInt w (x.toInt / 2 ^ c) := by
  rw [shiftArith, Nat.min_eq_left h.le, BitVec.sshiftRight_eq, Int.shiftRight_eq_div_pow, Int.natCast_pow]; rfl

theorem shiftArith_of_le (x : Word) {c : Nat} (h : 32 ≤ c) :
    shiftArith x c = if x.getLsbD 31 then 0xFFFFFFFF else 0 := by
  rw [shiftArith, Nat.min_eq_right h]
  apply BitVec.eq_of_getLsbD_eq
  intro i hi
  rw [BitVec.getLsbD_sshiftRight, if_neg (by omega), BitVec.msb_eq_getLsbD_last]
  cases x.getLsbD 31
  · simp
  · have ones : ∀ j < 32, (0xFFFFFFFF : Word).getLsbD j = true := by decide
    rw [if_pos rfl, ones i hi]
    simp [hi]

/-! ## Minimum, maximum and saturation -/

theorem signedMin_eq {w : Nat} (x y : BitVec w) :
    (if y.slt x then y else x) = BitVec.ofInt w (min x.toInt y.toInt) := by
  rw [BitVec.slt_eq_decide]
  by_cases h : y.toInt < x.toInt
  · simp [h, min_eq_right h.le]
  · simp [h, min_eq_left (not_lt.mp h)]

theorem signedMax_eq {w : Nat} (x y : BitVec w) :
    (if x.slt y then y else x) = BitVec.ofInt w (max x.toInt y.toInt) := by
  rw [BitVec.slt_eq_decide]
  by_cases h : x.toInt < y.toInt
  · simp [h, max_eq_right h.le]
  · simp [h, max_eq_left (not_lt.mp h)]

theorem unsignedMin_eq {w : Nat} (x y : BitVec w) :
    (if y.ult x then y else x) = BitVec.ofNat w (min x.toNat y.toNat) := by
  rw [BitVec.ult_eq_decide]
  by_cases h : y.toNat < x.toNat
  · simp [h, min_eq_right h.le]
  · simp [h, min_eq_left (not_lt.mp h)]

theorem unsignedMax_eq {w : Nat} (x y : BitVec w) :
    (if x.ult y then y else x) = BitVec.ofNat w (max x.toNat y.toNat) := by
  rw [BitVec.ult_eq_decide]
  by_cases h : x.toNat < y.toNat
  · simp [h, max_eq_right h.le]
  · simp [h, max_eq_left (not_lt.mp h)]

theorem clampS_eq (v : Int) : clampS v = BitVec.ofInt 32 (max (-(2 ^ 31)) (min (2 ^ 31 - 1) v)) := by
  unfold clampS
  split
  · next low => rw [max_eq_left (by omega)]; rfl
  · next hlow =>
    split
    · next high => rw [min_eq_left (by omega)]; rfl
    · next hhigh => rw [min_eq_right (by omega), max_eq_right (by omega)]

theorem clampU_add_eq (m n : Nat) : clampU ((m : Int) + n) = BitVec.ofNat 32 (min (2 ^ 32 - 1) (m + n)) := by
  unfold clampU
  rw [if_neg (by omega)]
  split
  · next high => rw [min_eq_left (by omega)]; rfl
  · next hhigh => rw [min_eq_right (by omega), ← Int.natCast_add, BitVec.ofInt_natCast]

theorem clampU_sub_eq (x y : Word) : clampU ((x.toNat : Int) - y.toNat) = BitVec.ofNat 32 (x.toNat - y.toNat) := by
  have hx := x.isLt
  unfold clampU
  split
  · next low => rw [Nat.sub_eq_zero_of_le (by omega)]; rfl
  · next hlow => rw [if_neg (by omega), ← Int.ofNat_sub (by omega), BitVec.ofInt_natCast]

/-! ## Division -/

theorem sremW_eq (x y : Word) :
    sremW x y = if y = 0 then x else if x = 0x80000000 ∧ y = 0xFFFFFFFF then 0 else BitVec.ofInt 32 (x.toInt.tmod y.toInt) := by
  rw [sremW, Int.tmod_def, mul_comm]

theorem uremW_eq (x y : Word) :
    uremW x y = if y = 0 then x else BitVec.ofNat 32 (x.toNat - x.toNat / y.toNat * y.toNat) := by
  rw [uremW, Nat.mod_eq_sub_div_mul]

/-! ## Bits -/

/-- The first index below n with a property, or n where there is none. -/
theorem find?_range_getD_spec (p : Nat → Bool) (n : Nat) :
    ((List.range n).find? p).getD n ≤ n ∧ (∀ i < ((List.range n).find? p).getD n, p i = false) ∧
      (((List.range n).find? p).getD n < n → p (((List.range n).find? p).getD n) = true) := by
  cases h : (List.range n).find? p with
  | none => simpa using List.find?_range_eq_none.mp h
  | some m =>
    obtain ⟨found, lt, before⟩ := List.find?_range_eq_some.mp h
    exact ⟨(List.mem_range.mp lt).le, by simpa using before, fun _ => found⟩

theorem leadingZeros_spec (x : Word) :
    leadingZeros x ≤ 32 ∧ (∀ i < leadingZeros x, x.getLsbD (31 - i) = false) ∧
      (leadingZeros x < 32 → x.getLsbD (31 - leadingZeros x) = true) :=
  find?_range_getD_spec (fun i => x.getLsbD (31 - i)) 32

theorem trailingZeros_spec (x : Word) :
    trailingZeros x ≤ 32 ∧ (∀ i < trailingZeros x, x.getLsbD i = false) ∧
      (trailingZeros x < 32 → x.getLsbD (trailingZeros x) = true) :=
  find?_range_getD_spec (fun i => x.getLsbD i) 32

/-- A count of at most 32 is read back from the word that holds it. -/
theorem toNat_ofNat_count {n : Nat} (h : n ≤ 32) : (BitVec.ofNat 32 n).toNat = n := by
  rw [BitVec.toNat_ofNat, Nat.mod_eq_of_lt (by omega)]

theorem append_zeros_eq_ofNat (i : BitVec 20) : i ++ 0#12 = BitVec.ofNat 32 (i.toNat * 2 ^ 12) := by
  apply BitVec.eq_of_toNat_eq
  rw [BitVec.toNat_append, BitVec.toNat_ofNat]
  have := i.isLt
  simp [Nat.shiftLeft_eq]
  omega

end Sys2Proof.Machine
end

section
/-! The shared register forms with their values restated, and the statements about integer arithmetic (R88 to R93, R97 to
R100). -/

namespace Sys2Proof.Machine

/-! ## Results with the value restated -/

theorem resS_of_eq {s : State} {d : SReg} {f v : Nat → Word} (h : ∀ k, f k = v k) : ScalarResult s (resS s d f) d v :=
  funext h ▸ resS_spec s d f

theorem resP_of_eq {s : State} {d : Reg3} {f v : Nat → Bool} (h : ∀ k, f k = v k) : PredResult s (resP s d f) d v :=
  funext h ▸ resP_spec s d f

theorem resPair_of_eq {s : State} {d : BitVec 5} {f v : Nat → DWord} (h : ∀ k, f k = v k) :
    PairResult s (resPair s d f) d v :=
  funext h ▸ resPair_spec s d f

theorem resG_of_eq {s : State} {d : GReg} {u v : DWord} (h : u = v) : GroupResult s (resG s d u) d v :=
  h ▸ resG_spec s d u

/-! ## Scalars -/

/-- R88 and R90: each two-operand operation of ALU but the divisions. -/
theorem aluTwoOperands : Parts.AluTwoOperands := by
  intro s d a b
  refine ⟨?add, ?sub, ?mul, ?mulh, ?mulhu, ?and, ?or, ?xor, ?andn, ?shl, ?shr, ?sra, ?rol, ?ror, ?min, ?max, ?minu, ?maxu,
    ?adds, ?subs, ?addus, ?subus⟩
  case add => exact resS_of_eq fun k => BitVec.add_def _ _
  case sub => exact resS_of_eq fun k => sub_eq_ofInt _ _
  case mul => exact resS_of_eq fun k => mul_eq_ofNat _ _
  case mulh => exact resS_of_eq fun k => highSigned_eq_ofInt _ _
  case mulhu => exact resS_of_eq fun k => highUnsigned_eq_ofNat _ _
  case and | or | xor | andn | rol | ror => exact resS_spec s d _
  case shl => exact resS_of_eq fun k => (shiftLeft_eq _ _).trans (apply_ite _ _ _ _).symm
  case shr => exact resS_of_eq fun k => (shiftRight_eq _ _).trans (apply_ite _ _ _ _).symm
  case sra =>
    refine resS_of_eq fun k => ?_
    split
    · next lt => exact shiftArith_of_lt _ lt
    · next ge => exact shiftArith_of_le _ (not_lt.mp ge)
  case min => exact resS_of_eq fun k => signedMin_eq _ _
  case max => exact resS_of_eq fun k => signedMax_eq _ _
  case minu => exact resS_of_eq fun k => unsignedMin_eq _ _
  case maxu => exact resS_of_eq fun k => unsignedMax_eq _ _
  case adds | subs => exact resS_of_eq fun k => clampS_eq _
  case addus => exact resS_of_eq fun k => clampU_add_eq _ _
  case subus => exact resS_of_eq fun k => clampU_sub_eq _ _

/-- R88: each one-operand operation of ALU. -/
theorem aluOneOperand : Parts.AluOneOperand := by
  intro s d a
  refine ⟨⟨_, resS_spec s d _, ?clz⟩, ⟨_, resS_spec s d _, ?ctz⟩, ?popc, ⟨_, resS_spec s d _, ?brev⟩, ?sextb, ?sexth⟩
  case clz =>
    intro k
    have h := leadingZeros_spec (getS s k a)
    rwa [toNat_ofNat_count h.1]
  case ctz =>
    intro k
    have h := trailingZeros_spec (getS s k a)
    rwa [toNat_ofNat_count h.1]
  case popc => exact resS_of_eq fun k => congrArg _ List.countP_eq_length_filter.symm
  case brev =>
    intro k i hi
    rw [BitVec.getLsbD_reverse, BitVec.getMsbD_eq_getLsbD]
    simp [hi]
  case sextb | sexth => exact resS_spec s d _

/-- R91 to R93: the immediate forms. -/
theorem immediateForms : Parts.ImmediateForms := by
  intro s d a i c u
  have count : c.toNat < 32 := c.isLt
  refine ⟨?addi, ?andi, ?ori, ?xori, ?muli, ?shli, ?shri, ?srai, ?lui⟩
  case addi => exact resS_of_eq fun k => add_signExtend_eq_ofInt _ _
  case andi | ori | xori => exact resS_of_eq fun k => congrArg _ (BitVec.ofNat_toNat 32 i).symm
  case muli => exact resS_of_eq fun k => mul_signExtend_eq_ofInt _ _
  case shli => exact resS_of_eq fun k => (shiftLeft_eq _ _).trans (if_pos count)
  case shri => exact resS_of_eq fun k => (shiftRight_eq _ _).trans (if_pos count)
  case srai => exact resS_of_eq fun k => shiftArith_of_lt _ count
  case lui => exact resS_of_eq fun _ => append_zeros_eq_ofNat u

/-- Settles O1: the quotients are the model's own cases; the remainders are the dividend less quotient times divisor. -/
theorem divisionResults : Obligations.DivisionResults := by
  intro s d a b
  refine ⟨?div, ?rem, ?divu, ?remu⟩
  case div | divu => exact resS_spec s d _
  case rem => exact resS_of_eq fun k => sremW_eq _ _
  case remu => exact resS_of_eq fun k => uremW_eq _ _

/-- Settles O3, from the values of the operations and what a scalar result changes. -/
theorem aluOperations : Obligations.AluOperations := ⟨aluTwoOperands, aluOneOperand, immediateForms⟩

/-! ## Uniform registers and pairs -/

theorem getPair_evenReg (s : State) (k : Nat) (p : BitVec 5) :
    getPair s k (evenReg p) = getS s k (p ++ 1#1) ++ getS s k (p ++ 0#1) := by
  rw [getPair, (evenReg_ne p).1]; rfl

/-- R97 to R99: the uniform instructions. -/
theorem uniformArithmetic : Parts.UniformArithmetic := by
  intro s d a b i l p
  refine ⟨?gadd, ?gsub, ?gmul, ?gand, ?gor, ?gxor, ?gshl, ?gshr, ?gmov, ?gfrom, ?gaddi, ?gli⟩
  case gadd => exact resG_of_eq (BitVec.add_def _ _)
  case gsub => exact resG_of_eq (sub_eq_ofInt _ _)
  case gmul => exact resG_of_eq (mul_eq_ofNat _ _)
  case gand | gor | gxor | gmov | gli => exact resG_spec s d _
  case gshl => exact resG_of_eq (shiftLeft_eq _ _)
  case gshr => exact resG_of_eq (shiftRight_eq _ _)
  case gfrom => exact resG_of_eq (getPair_evenReg _ _ _)
  case gaddi => exact resG_of_eq (add_signExtend_eq_ofInt _ _)

/-- R100: the pair instructions. -/
theorem pairArithmetic : Parts.PairArithmetic := by
  intro s d a b c g
  refine ⟨?addw, ?subw, ?mulw, ?shlw, ?shrw, ?movg⟩
  case addw => exact resPair_of_eq fun k => BitVec.add_def _ _
  case subw => exact resPair_of_eq fun k => sub_eq_ofInt _ _
  case mulw => exact resPair_of_eq fun k => mul_eq_ofNat _ _
  case shlw => exact resPair_of_eq fun k => shiftLeft_eq _ _
  case shrw => exact resPair_of_eq fun k => shiftRight_eq _ _
  case movg => exact resPair_spec s d _

/-- Settles O5, from the values of the operations and what a uniform and a pair result change. -/
theorem uniformAndPairArithmetic : Obligations.UniformAndPairArithmetic := ⟨uniformArithmetic, pairArithmetic⟩

end Sys2Proof.Machine
end

section
/-! What crosses the lanes of S: the masks of lanes, the source lanes of a shuffle, and the reduction tree (R101 to R105). -/

namespace Sys2Proof.Machine

/-! ## The lanes of S -/

theorem mem_lanes (s : State) (l : Nat) : l ∈ lanes s ↔ laneInS s l := mem_lanesOf _ _

theorem mem_active (s : State) (k : Nat) : k ∈ active s ↔ ∃ l, laneInS s l ∧ skey s l = k := by
  simp only [active, List.mem_map, mem_lanes]

theorem any_active (s : State) (p : Nat → Bool) : (active s).any p = true ↔ ∃ l, laneInS s l ∧ p (skey s l) = true := by
  simp only [List.any_eq_true, mem_active, exists_exists_and_eq_and]

theorem all_active (s : State) (p : Nat → Bool) : (active s).all p = true ↔ ∀ l, laneInS s l → p (skey s l) = true := by
  simp only [List.all_eq_true, mem_active, forall_exists_index, and_imp, forall_apply_eq_imp_iff₂]

/-! ## Masks -/

theorem getLsbD_oneBit (n l : Nat) : (1#32 <<< n).getLsbD l = true ↔ l = n ∧ n < 32 := by
  rw [← BitVec.twoPow_eq, BitVec.getLsbD_twoPow, Bool.and_eq_true, decide_eq_true_eq, decide_eq_true_eq]
  exact ⟨fun ⟨lt, e⟩ => ⟨e.symm, lt⟩, fun ⟨e, lt⟩ => ⟨lt, e.symm⟩⟩

theorem getLsbD_maskOf (ls : List Nat) (l : Nat) : (maskOf ls).getLsbD l = true ↔ l ∈ ls ∧ l < 32 := by
  have go : ∀ (ls : List Nat) (m : Word), (ls.foldl (fun m l => m ||| (1#32 <<< l)) m).getLsbD l = true ↔
      m.getLsbD l = true ∨ (l ∈ ls ∧ l < 32) := by
    intro ls
    induction ls with
    | nil => simp
    | cons n ls ih =>
      intro m
      rw [List.foldl_cons, ih, BitVec.getLsbD_or, Bool.or_eq_true, getLsbD_oneBit, List.mem_cons, or_assoc]
      refine or_congr_right ?_
      constructor
      · rintro (⟨rfl, lt⟩ | ⟨mem, lt⟩)
        · exact ⟨.inl rfl, lt⟩
        · exact ⟨.inr mem, lt⟩
      · rintro ⟨rfl | mem, lt⟩
        · exact .inl ⟨rfl, lt⟩
        · exact .inr ⟨mem, lt⟩
  rw [maskOf, go ls 0]
  simp

theorem getLsbD_maskWhere (s : State) (p : Nat → Bool) (l : Nat) :
    (maskWhere s p).getLsbD l = true ↔ laneInS s l ∧ p (skey s l) = true := by
  rw [maskWhere, getLsbD_maskOf, List.mem_filter, mem_lanes]
  exact ⟨fun h => h.1, fun h => ⟨h, h.1.1⟩⟩

/-- R102 and R105: votes, MATCH and ACTV. -/
theorem votesAndMasks : Parts.VotesAndMasks := by
  intro s d p a x
  refine ⟨⟨_, resP_spec s p _, any_active s _⟩, ⟨_, resP_spec s p _, all_active s _⟩,
    ⟨_, resS_spec s d _, getLsbD_maskWhere s _⟩, ⟨_, resS_spec s d _, ?lanesEqual⟩, resS_spec s d _⟩
  case lanesEqual =>
    intro k l
    rw [getLsbD_maskWhere, beq_iff_eq]

/-! ## Shuffles -/

/-- R103: a shuffle gives a strand the value of its source lane. -/
theorem shuffled_fromLane (s : State) (a : SReg) (k : Nat) (src : Int) : fromLane s a k src (shuffled s a k src) := by
  unfold shuffled
  constructor
  · rintro l rfl ⟨lt, inMask⟩
    exact if_pos ⟨by omega, by omega, inMask⟩
  · intro outside
    refine if_neg ?_
    rintro ⟨nonneg, le, inMask⟩
    exact outside src.toNat (Int.toNat_of_nonneg nonneg).symm ⟨by omega, inMask⟩

/-- R103: the shuffles. -/
theorem shuffles : Parts.Shuffles := fun s d a _ =>
  ⟨⟨_, resS_spec s d _, fun k => shuffled_fromLane s a k _⟩, ⟨_, resS_spec s d _, fun k => shuffled_fromLane s a k _⟩,
    ⟨_, resS_spec s d _, fun k => shuffled_fromLane s a k _⟩, ⟨_, resS_spec s d _, fun k => shuffled_fromLane s a k _⟩⟩

/-! ## One level of the reduction tree -/

theorem pairUp_short (op : Word → Word → Word) {xs : List Word} (h : ∀ x y r, xs = x :: y :: r → False) :
    pairUp op xs = xs := pairUp.eq_2 op xs h

theorem length_pairUp (op : Word → Word → Word) (xs : List Word) : (pairUp op xs).length = (xs.length + 1) / 2 := by
  induction xs using pairUp.induct with
  | case1 x y r ih => rw [pairUp, List.length_cons, ih, List.length_cons, List.length_cons]; omega
  | case2 xs h =>
    rw [pairUp_short op h]
    match xs, h with
    | [], _ | [_], _ => simp
    | x :: y :: r, h => exact (h x y r rfl).elim

theorem sum_pairUp (xs : List Word) : (pairUp (fun x y => x + y) xs).sum = xs.sum := by
  induction xs using pairUp.induct with
  | case1 x y r ih => rw [pairUp, List.sum_cons, ih, List.sum_cons, List.sum_cons, BitVec.add_assoc]
  | case2 xs h => rw [pairUp_short _ h]

/-! ## The tree of five levels -/

/-- What the 32 lanes enter into the tree: a lane not in S enters the identity. -/
def entered (s : State) (a : SReg) (id : Word) : List Word :=
  (List.range 32).map (fun l => if s.issue.mask.getLsbD l then getS s (skey s l) a else id)

/-- The five levels of the tree leave one value. -/
theorem treeOver_levels (s : State) (a : SReg) (op : Word → Word → Word) (id : Word) :
    (pairUp op)^[5] (entered s a id) = [treeOver s a op id] := by
  have one : ((pairUp op)^[5] (entered s a id)).length = 1 := by
    simp only [Function.iterate_succ, Function.iterate_zero, Function.comp_apply, id_eq, length_pairUp, entered, List.length_map,
      List.length_range]
  obtain ⟨v, hv⟩ := List.length_eq_one_iff.mp one
  have : treeOver s a op id = ((pairUp op)^[5] (entered s a id)).headD id := rfl
  rw [this, hv]; rfl

theorem mem_entered (s : State) (a : SReg) (id v : Word) :
    v ∈ entered s a id ↔ ∃ l < 32, (if s.issue.mask.getLsbD l then getS s (skey s l) a else id) = v := by
  simp only [entered, List.mem_map, List.mem_range]

/-- R104: the tree of a sum gives the sum of the values of S, modulo 2^32. -/
theorem treeOver_add (s : State) (a : SReg) :
    treeOver s a (fun x y => x + y) 0 = BitVec.ofNat 32 ((lanes s).map (fun l => (getS s (skey s l) a).toNat)).sum := by
  have levels : ∀ n (xs : List Word), ((pairUp (fun x y => x + y))^[n] xs).sum = xs.sum := by
    intro n
    induction n with
    | zero => intro xs; rfl
    | succ n ih => intro xs; rw [Function.iterate_succ_apply, ih, sum_pairUp]
  have skipped : ∀ ls : List Nat, (ls.map (fun l => if s.issue.mask.getLsbD l then getS s (skey s l) a else 0)).sum =
      BitVec.ofNat 32 ((ls.filter (fun l => s.issue.mask.getLsbD l)).map (fun l => (getS s (skey s l) a).toNat)).sum := by
    intro ls
    induction ls with
    | nil => rfl
    | cons l ls ih =>
      rw [List.map_cons, List.sum_cons, ih, List.filter_cons]
      cases s.issue.mask.getLsbD l
      · simp
      · simp [BitVec.ofNat_add]
  have tree := levels 5 (entered s a 0)
  rw [treeOver_levels, List.sum_singleton] at tree
  exact tree.trans (skipped (List.range 32))

/-! ## Operations that select: minimum and maximum -/

/-- A binary operation that gives the one of its operands that comes first in an order, with a last element. -/
structure Selects (R : Word → Word → Prop) (op : Word → Word → Word) (last : Word) : Prop where
  refl : ∀ x, R x x
  trans : ∀ x y z, R x y → R y z → R x z
  antisymm : ∀ x y, R x y → R y x → x = y
  either : ∀ x y, op x y = x ∨ op x y = y
  left : ∀ x y, R (op x y) x
  right : ∀ x y, R (op x y) y
  le_last : ∀ x, R x last

section Selecting

variable {R : Word → Word → Prop} {op : Word → Word → Word} {last : Word}

theorem Selects.mem_of_mem_pairUp (h : Selects R op last) {xs : List Word} {v : Word} (hv : v ∈ pairUp op xs) : v ∈ xs := by
  induction xs using pairUp.induct with
  | case1 x y r ih =>
    rw [pairUp, List.mem_cons] at hv
    obtain rfl | hr := hv
    · rcases h.either x y with e | e <;> simp [e]
    · simp [ih hr]
  | case2 xs short => rwa [pairUp_short _ short] at hv

theorem Selects.exists_pairUp_le (h : Selects R op last) {xs : List Word} {x : Word} (hx : x ∈ xs) :
    ∃ v ∈ pairUp op xs, R v x := by
  induction xs using pairUp.induct with
  | case1 y z r ih =>
    rw [pairUp]
    rw [List.mem_cons, List.mem_cons] at hx
    obtain rfl | rfl | hr := hx
    · exact ⟨_, List.mem_cons_self, h.left _ _⟩
    · exact ⟨_, List.mem_cons_self, h.right _ _⟩
    · obtain ⟨v, hv, hle⟩ := ih hr
      exact ⟨v, List.mem_cons_of_mem _ hv, hle⟩
  | case2 xs short => exact ⟨x, by rwa [pairUp_short _ short], h.refl x⟩

theorem Selects.treeOver_mem (h : Selects R op last) (s : State) (a : SReg) : treeOver s a op last ∈ entered s a last := by
  have levels : ∀ n (xs : List Word) v, v ∈ (pairUp op)^[n] xs → v ∈ xs := by
    intro n
    induction n with
    | zero => exact fun _ _ hv => hv
    | succ n ih => exact fun xs v hv => h.mem_of_mem_pairUp (ih _ v hv)
  exact levels 5 _ _ (by rw [treeOver_levels]; exact List.mem_singleton_self _)

theorem Selects.treeOver_le (h : Selects R op last) (s : State) (a : SReg) {x : Word} (hx : x ∈ entered s a last) :
    R (treeOver s a op last) x := by
  have levels : ∀ n (xs : List Word) x, x ∈ xs → ∃ v ∈ (pairUp op)^[n] xs, R v x := by
    intro n
    induction n with
    | zero => exact fun _ x hx => ⟨x, hx, h.refl x⟩
    | succ n ih =>
      intro xs x hx
      obtain ⟨u, hu, ux⟩ := h.exists_pairUp_le hx
      obtain ⟨v, hv, vu⟩ := ih _ u hu
      exact ⟨v, hv, h.trans _ _ _ vu ux⟩
  obtain ⟨v, hv, vx⟩ := levels 5 _ x hx
  rw [treeOver_levels, List.mem_singleton] at hv
  exact hv ▸ vx

/-- R104: the tree bounds every value of S, and where S is not empty it is one of them: the identity that a lane not in S
enters is the last element, so that a tree which gives it has only that value in S. -/
theorem Selects.treeOver_spec (h : Selects R op last) (s : State) (a : SReg) :
    (∀ l, laneInS s l → R (treeOver s a op last) (getS s (skey s l) a)) ∧
      ((∃ l, laneInS s l) → ∃ l, laneInS s l ∧ treeOver s a op last = getS s (skey s l) a) := by
  have bound : ∀ l, laneInS s l → R (treeOver s a op last) (getS s (skey s l) a) := fun l hl =>
    h.treeOver_le s a ((mem_entered ..).mpr ⟨l, hl.1, if_pos hl.2⟩)
  refine ⟨bound, fun ⟨l₀, hl₀⟩ => ?_⟩
  obtain ⟨l, lt, hv⟩ := (mem_entered ..).mp (h.treeOver_mem s a)
  by_cases inMask : s.issue.mask.getLsbD l = true
  · exact ⟨l, ⟨lt, inMask⟩, by rw [← hv, if_pos inMask]⟩
  · rw [if_neg inMask] at hv
    refine ⟨l₀, hl₀, h.antisymm _ _ (bound l₀ hl₀) ?_⟩
    rw [← hv]
    exact h.le_last _

end Selecting

theorem selects_min : Selects (fun x y => x.toInt ≤ y.toInt) (fun x y => if y.slt x then y else x) 0x7FFFFFFF where
  refl _ := le_rfl
  trans _ _ _ := le_trans
  antisymm _ _ h h' := BitVec.eq_of_toInt_eq (le_antisymm h h')
  either x y := (ite_eq_or_eq _ y x).symm
  left x y := by
    simp only [BitVec.slt_eq_decide, decide_eq_true_eq]
    split <;> omega
  right x y := by
    simp only [BitVec.slt_eq_decide, decide_eq_true_eq]
    split <;> omega
  le_last x := Int.lt_add_one_iff.mp x.toInt_lt

theorem selects_max : Selects (fun x y => y.toInt ≤ x.toInt) (fun x y => if x.slt y then y else x) 0x80000000 where
  refl _ := le_rfl
  trans _ _ _ h h' := le_trans h' h
  antisymm _ _ h h' := BitVec.eq_of_toInt_eq (le_antisymm h' h)
  either x y := (ite_eq_or_eq _ y x).symm
  left x y := by
    simp only [BitVec.slt_eq_decide, decide_eq_true_eq]
    split <;> omega
  right x y := by
    simp only [BitVec.slt_eq_decide, decide_eq_true_eq]
    split <;> omega
  le_last x := x.le_toInt

/-- R104: the reductions. -/
theorem reductions : Parts.Reductions := fun s d a =>
  ⟨resS_of_eq fun _ => treeOver_add s a, ⟨_, resS_spec s d _, selects_min.treeOver_spec s a⟩,
    ⟨_, resS_spec s d _, selects_max.treeOver_spec s a⟩⟩

/-- Settles O6, from the masks of lanes, the source lane of a shuffle and the reduction tree. -/
theorem crossLane : Obligations.CrossLane := ⟨votesAndMasks, shuffles, reductions⟩

end Sys2Proof.Machine
end

section
/-! Laws of FFLAGS: what raising flags changes in the strands of S, and everything that a floating-point instruction of one
scalar result does (R160, R161). -/

namespace Sys2Proof.Machine

/-- Changing each strand of a list without repetition, each in its own way, changes a listed strand once. -/
theorem get?_foldl_modStrand (ks : List Nat) (h : ks.Nodup) (s : State) (f : Nat → Strand → Strand) (k : Nat) :
    AMap.get? (ks.foldl (fun x j => modStrand x j (f j)) s).strands k =
      (AMap.get? s.strands k).map (fun x => if k ∈ ks then f k x else x) := by
  induction ks generalizing s with
  | nil => simp
  | cons j ks ih =>
    obtain ⟨fresh, h⟩ := List.nodup_cons.mp h
    rw [List.foldl_cons, ih h, get?_modStrand]
    by_cases eq : k = j
    · subst eq
      simp [fresh, Function.comp_def]
    · simp [eq]

theorem raiseFlags_strandsAfter (s : State) (f : Nat → FFlags) :
    StrandsAfter s (raiseFlags s f) (fun k x => { x with ff := x.ff ||| f k }) := by
  intro k
  simp only [inS_iff]
  exact get?_foldl_modStrand (active s) (active_nodup s) s (fun j x => { x with ff := x.ff ||| f j }) k

/-- Raising flags changes strands alone. -/
theorem raiseFlags_rest (s : State) (f : Nat → FFlags) :
    raiseFlags s f = { s with strands := (raiseFlags s f).strands } := by
  have listed : ∀ (ks : List Nat) (t : State), ks.foldl (fun x k => orFlags x k (f k)) t =
      { t with strands := (ks.foldl (fun x k => orFlags x k (f k)) t).strands } := by
    intro ks
    induction ks with
    | nil => intro t; rfl
    | cons k ks ih => intro t; rw [List.foldl_cons, ih]; rfl
  exact listed _ s

theorem inS_congr {s t : State} (h : t.issue = s.issue) (k : Nat) : inS t k = inS s k := by
  rw [inS, inS, active_congr h]

theorem goesOn_congr {s t : State} (h : t.issue = s.issue) : goesOn t = goesOn s := by
  funext k x
  rw [goesOn, goesOn, h]

/-- Two changes of the strands of S in a row, between which the issue stays. -/
theorem StrandsAfter.trans {s t u : State} {f g : Nat → Strand → Strand} (hi : t.issue = s.issue)
    (h : StrandsAfter s t f) (h' : StrandsAfter t u g) : StrandsAfter s u (fun k x => g k (f k x)) := by
  intro k
  rw [h' k, h k, Option.map_map, inS_congr hi]
  congr 1
  funext x
  cases inS s k <;> rfl

/-- Everything that `resF` does: raise the flags, then give the scalar result. -/
theorem resF_spec (s : State) (d : SReg) (f : Nat → Nat × FFlags) :
    FloatResult s (resF s d f) d (fun k => BitVec.ofNat 32 (f k).1) (fun k => (f k).2) := by
  have flags := raiseFlags_strandsAfter s (fun k => (f k).2)
  have frame := raiseFlags_rest s (fun k => (f k).2)
  have hi : (raiseFlags s (fun k => (f k).2)).issue = s.issue := by rw [frame]
  have hrf : (raiseFlags s (fun k => (f k).2)).rf = s.rf := by rw [frame]
  obtain ⟨u, hu, rest, regs, strands⟩ := resS_spec (raiseFlags s (fun k => (f k).2)) d (fun k => BitVec.ofNat 32 (f k).1)
  refine ⟨u, hu, ?rest, ?registers, ?strands⟩
  case rest => rw [rest, frame]
  case registers =>
    intro k r
    rw [regs, inS_congr hi, getS_congr hrf]
  case strands =>
    rw [goesOn_congr hi] at strands
    exact flags.trans hi strands

end Sys2Proof.Machine
end

section
/-! The packed 16-bit operations and the integer dot product (R170 to R172). -/

namespace Sys2Proof.Machine

/-- Element e of the packed pair in s[r] of a strand: 0 is the low half, 1 the high one. -/
def packedElement (s : State) (k : Nat) (r : SReg) (e : Nat) : Nat := ((getS s k r).extractLsb' (16 * e) 16).toNat

theorem half_fbits (s : State) (k : Nat) (r : SReg) (e : Nat) : half (fbits s k r) e = packedElement s k r e := by
  rw [packedElement, BitVec.extractLsb'_toNat, Nat.shiftRight_eq_div_pow]; rfl

/-- An outcome is the float result whose halves are the elements x and y, with the flags of both. -/
def PackedResult (s : State) (o : Out State) (d : SReg) (x y : Nat → Nat × FFlags) : Prop :=
  FloatResult s o d (fun k => BitVec.ofNat 32 ((x k).1 + 65536 * (y k).1)) (fun k => (x k).2 ||| (y k).2)

theorem packed_spec (s : State) (d : SReg) (f : Nat → Nat → Nat × FFlags) :
    PackedResult s (resF s d (fun k => packed (f k))) d (fun k => f k 0) (fun k => f k 1) :=
  resF_spec s d (fun k => packed (f k))

/-- R170: a packed operation of two operands is the operation of its format on the low and on the high elements. -/
theorem halu_spec (s : State) (d a b : SReg) (op : Nat → Nat → Nat × FFlags) :
    PackedResult s (halu s d a b op) d (fun k => op (packedElement s k a 0) (packedElement s k b 0))
      (fun k => op (packedElement s k a 1) (packedElement s k b 1)) := by
  simp only [halu, half_fbits]
  exact packed_spec s d (fun k e => op (packedElement s k a e) (packedElement s k b e))

/-- R171: the packed multiply-add is the fused one of its format on the low and on the high elements. -/
theorem execHfma2_spec (s : State) (d a b c : SReg) (m : BitVec 1) :
    PackedResult s (execHfma2 d a b c m s) d
      (fun k => fpFma (packedFmt m) .rne (packedElement s k a 0) (packedElement s k b 0) (packedElement s k c 0))
      (fun k => fpFma (packedFmt m) .rne (packedElement s k a 1) (packedElement s k b 1) (packedElement s k c 1)) := by
  simp only [execHfma2, half_fbits]
  exact packed_spec s d (fun k e =>
    fpFma (packedFmt m) .rne (packedElement s k a e) (packedElement s k b e) (packedElement s k c e))

/-- R172: the four byte products are summed exactly before the word wraps. -/
theorem execIdp4_spec (s : State) (d a b c : SReg) (m : BitVec 2) :
    ScalarResult s (execIdp4 d a b c m s) d (fun k =>
      let p := fun (i : Nat) => byteInt (getS s k a) i (m.getLsbD 1) * byteInt (getS s k b) i (m.getLsbD 0)
      BitVec.ofInt 32 ((getS s k c).toInt + (p 0 + p 1 + p 2 + p 3))) :=
  resS_of_eq fun k => by simp only [add_assoc]

/-- Settles O8, from what a packed operation does with its elements and from the sum of the byte products. -/
theorem packedArithmetic : Obligations.PackedArithmetic := by
  intro s d a b c f m
  refine ⟨?hadd2, ?hsub2, ?hmul2, ?hmin2, ?hmax2, ?hfma2, ?idp4⟩
  case hadd2 | hsub2 | hmul2 | hmin2 | hmax2 => exact halu_spec s d a b _
  case hfma2 => exact execHfma2_spec s d a b c f
  case idp4 => exact execIdp4_spec s d a b c m

end Sys2Proof.Machine
end

section
/-! Completion tokens (R210 to R213): what an instruction does when its condition holds and when it does not, the counts that
a write leaves, and the queues that it starts again. -/

namespace Sys2Proof.Machine

/-! ## Going on and waiting -/

/-- Strands are all that going on changes, so that what holds of a state whatever its strands are holds after it. -/
theorem goesOn_advance {s t : State} {p : State → Prop} (hs : t.strands = s.strands) (hi : t.issue = s.issue)
    (hp : ∀ m, p { t with strands := m }) : GoesOn s (.next (advance t)) p :=
  advance_goesOn s t p hs hi (advance_rest t ▸ hp _)

theorem whenHolds_true {s : State} {c : Cond} (h : condHolds s c = true) (go : Out State) : whenHolds s c go = go := if_pos h

theorem whenHolds_false {s : State} {c : Cond} (h : condHolds s c = false) (go : Out State) :
    WaitsFor s (whenHolds s c go) c := by
  rw [whenHolds, h]
  exact waitFor_waits s c

theorem coreAt_acquire (s : State) (c j : Nat) :
    coreAt (acquire s c) j = if j = c then { coreAt s j with snap := [] } else coreAt s j := by
  rw [acquire, coreAt_modCore]
  split
  · next same => rw [same]
  · rfl

/-! ## Token conditions and token words -/

theorem condHolds_tokAtLeast (s : State) (k : KReg) (n : Nat) :
    condHolds s (.tokAtLeast (tokKey s k) n) = true ↔
      n ≤ (getK s (gk s) k).count.toNat % 2 ^ 31 ∨ (getK s (gk s) k).count.getLsbD 31 = true ∨
        (getK s (gk s) k).outstanding = 0 := by
  rw [condHolds, Bool.or_eq_true, Bool.or_eq_true, decide_eq_true_iff, beq_iff_eq, or_assoc]
  rfl

theorem condHolds_tokQuiet (s : State) (k : KReg) :
    condHolds s (.tokQuiet (tokKey s k)) = true ↔ (getK s (gk s) k).outstanding = 0 := by
  rw [condHolds, beq_iff_eq]
  rfl

/-- Bit 31 of the count that TSET writes. -/
theorem getLsbD_31_setWidth (x : DWord) : (x.setWidth 32 : Word).getLsbD 31 = false ↔ x.toNat / 2 ^ 31 % 2 = 0 := by
  rw [BitVec.getLsbD_setWidth, BitVec.getLsbD, Nat.testBit_eq_decide_div_mod_eq]
  simp

/-- The count that TADD writes: bit 31 kept, the sum of the low 31 bits wrapped (R210, R212). -/
theorem append_low31_add (c : Word) (x : DWord) :
    c.extractLsb' 31 1 ++ (c.extractLsb' 0 31 + (x.setWidth 32 : Word).extractLsb' 0 31) =
      BitVec.ofNat 32 (c.toNat / 2 ^ 31 * 2 ^ 31 + (c.toNat + x.toNat) % 2 ^ 31) := by
  have hc := c.isLt
  apply BitVec.eq_of_toNat_eq
  rw [BitVec.toNat_append, BitVec.toNat_add, ← Nat.shiftLeft_add_eq_or_of_lt (by omega)]
  simp only [BitVec.extractLsb'_toNat, BitVec.toNat_setWidth, BitVec.toNat_ofNat, Nat.shiftRight_eq_div_pow, Nat.shiftLeft_eq]
  omega

theorem AMap.getD_map {α β : Type} (m : AMap α) (f : α → β) (k : Nat) (d : α) :
    AMap.getD (m.map (fun e => (e.1, f e.2))) k (f d) = f (AMap.getD m k d) := by
  rw [AMap.getD, AMap.get?_map m (fun _ => f), Option.getD_map, AMap.getD]

/-- R212: a queue that an error on the token has halted starts again; every other queue stays as it is. -/
theorem queueAt_restartQueues (s : State) (r : TokRef) (q : Nat) :
    queueAt (restartQueues s r) q =
      if (queueAt s q).halted = some r then { queueAt s q with halted := none } else queueAt s q :=
  AMap.getD_map (β := CopyQueue) s.queues (fun x => if x.halted = some r then { x with halted := none } else x) q CopyQueue.init

/-! ## The instructions on tokens -/

/-- R210, R211 and R213: the instructions that wait on a token. -/
theorem tokenWaits : Parts.TokenWaits := by
  intro s d a k
  refine ⟨?twaitGoes, ?twaitWaits, ?treadGoes, ?treadWaits⟩
  case twaitGoes =>
    intro reached
    show GoesOn s (whenHolds s (.tokAtLeast (tokKey s k) _) _) _
    rw [whenHolds_true ((condHolds_tokAtLeast s k _).mpr reached)]
    exact goesOn_advance rfl rfl fun m => ⟨rfl, coreAt_acquire s s.issue.core⟩
  case twaitWaits =>
    intro below
    exact whenHolds_false (Bool.eq_false_iff.mpr (mt (condHolds_tokAtLeast s k _).mp below)) _
  case treadGoes =>
    intro quiet
    show GoesOn s (whenHolds s (.tokQuiet (tokKey s k)) _) _
    rw [whenHolds_true ((condHolds_tokQuiet s k).mpr quiet)]
    obtain ⟨u, hu, rest, regs, strands⟩ :=
      resG_spec (acquire s s.issue.core) d ((getK s (gk s) k).count.setWidth 64)
    refine ⟨u, hu, ⟨?rest, ?acquired, regs⟩, strands⟩
    case rest => rw [rest]; rfl
    case acquired => rw [rest]; exact coreAt_acquire s s.issue.core
  case treadWaits =>
    intro busy
    exact whenHolds_false (Bool.eq_false_iff.mpr (mt (condHolds_tokQuiet s k).mp busy)) _

/-- R210 and R212: the instructions that write a token's count. -/
theorem tokenWrites : Parts.TokenWrites := by
  intro s a k
  refine ⟨?tset, ?tadd⟩
  case tset =>
    have counts := fun q m => getK_setK s (gk s) q k m { getK s (gk s) k with count := (getG s (gk s) a).setWidth 32 }
    rw [← BitVec.ofNat_toNat] at counts
    show GoesOn s (execTset a k s) _
    dsimp only [execTset]
    split
    · next bit =>
      have notClear : ¬(getG s (gk s) a).toNat / 2 ^ 31 % 2 = 0 := by rw [← getLsbD_31_setWidth, bit]; decide
      refine goesOn_advance rfl rfl fun m => ⟨rfl, counts, fun q => ?_⟩
      rw [if_neg fun both => notClear both.1]
      rfl
    · next bit =>
      have clear := (getLsbD_31_setWidth _).mp (Bool.eq_false_iff.mpr bit)
      refine goesOn_advance rfl rfl fun m => ⟨rfl, counts, fun q => ?_⟩
      simp only [clear, true_and]
      exact queueAt_restartQueues ..
  case tadd =>
    refine goesOn_advance rfl rfl fun m => ⟨rfl, fun q m => ?_⟩
    rw [← append_low31_add]
    exact getK_setK s (gk s) q k m _

/-- Settles O28, from the conditions on a token, the words that TSET and TADD write, and the queues that TSET restarts. -/
theorem tokens : Obligations.Tokens := ⟨tokenWaits, tokenWrites⟩

end Sys2Proof.Machine
end

section
/-! Shape registers, the issue of copies, and QFENCE (R204, R205, R214): the word that HSET replaces, what a CPY puts at the
end of its queue, and the copies that a QFENCE waits for. -/

namespace Sys2Proof.Machine

/-! ## Shape words (R204) -/

/-- R204: a shape with one word replaced holds it there and its own other words. -/
theorem extractLsb'_setWord (h : BitVec 256) {w v : Nat} (hw : w < 4) (hv : v < 4) (x : DWord) :
    (setWord h w x).extractLsb' (64 * v) 64 = if v = w then x else h.extractLsb' (64 * v) 64 := by
  have ones : (0xFFFFFFFFFFFFFFFF#256) = (BitVec.allOnes 64).setWidth 256 := by decide
  apply BitVec.eq_of_getLsbD_eq
  intro i hi
  have inside : 64 * v + i < 256 := by omega
  simp only [BitVec.getLsbD_extractLsb', setWord, ones, BitVec.getLsbD_or, BitVec.getLsbD_and, BitVec.getLsbD_not,
    BitVec.getLsbD_shiftLeft, BitVec.getLsbD_setWidth, BitVec.getLsbD_allOnes, hi, inside]
  rcases Nat.lt_trichotomy v w with below | same | above
  · have : 64 * v + i < 64 * w := by omega
    simp [this, below.ne, hi]
  · subst same
    simp [hi, (by omega : i < 256)]
  · have zero : x.getLsbD (64 * v + i - 64 * w) = false := BitVec.getLsbD_of_ge _ _ (by omega)
    have outside : ¬(64 * v + i < 64 * w ∨ 64 * v + i - 64 * w < 64) := by omega
    simp [zero, not_or.mp outside, above.ne', hi]

/-- R204: HSET. -/
theorem shapeWord : Parts.ShapeWord := by
  intro s h a w
  refine goesOn_advance rfl rfl fun m => ⟨rfl, fun q n v hv => ?_⟩
  show (getH (setH ..) q n).extractLsb' _ _ = _
  rw [getH_setH]
  by_cases same : q = gk s ∧ n = h
  · rw [if_pos same, extractLsb'_setWord _ w.isLt hv, same.1, same.2]
    simp only [true_and]
  · rw [if_neg same, if_neg fun all => same ⟨all.1, all.2.1⟩]

/-! ## The issue of a copy (R205) -/

theorem withTask_issuer {s : State} {tk : Nat} {t : Task} (h : issuer? s = some (tk, t)) (go : Nat → Task → Out State) :
    withTask s go = go tk t := by
  rw [withTask, h]

/-- The checks of a CPY begin with its shape (R205). -/
theorem copyFault_invalidShape (s : State) (t : Task) (h : BitVec 256) (src dst : DWord)
    (bad : invalidShape (featureOn s 2) h = true) : copyFault s t h src dst = some (cILLEGAL, s.issue.word.setWidth 64) :=
  if_pos bad

theorem execCpy_fault {s : State} {tk : Nat} {t : Task} (ht : issuer? s = some (tk, t)) {h : Reg3} {a b : GReg}
    {c : BitVec 8} {v : DWord} (k : KReg)
    (fault : copyFault s t (getH s (gk s) h) (getG s (gk s) a) (getG s (gk s) b) = some (c, v)) :
    execCpy h a b k s = .next (raiseFirst s c v) := by
  rw [execCpy, withTask_issuer ht]
  simp only [fault]

/-- The copy that a CPY queues: its own copy of the shape, with nothing of it run (R205). -/
def queuedCopy (s : State) (tk : Nat) (t : Task) (h : Reg3) (a b : GReg) (k : KReg) : Copy :=
  { shape := getH s (gk s) h, src := getG s (gk s) a, dst := getG s (gk s) b, tok := tokRef s k, ctx := t.ctx, task := tk,
    core := s.issue.core, group := gk s, winBase := t.winBase, since := s.now, run := 0, stopped := none, retry := false,
    done := false, error := false, peerOut := 0, peerSent := 0, peerData := none }

theorem execCpy_queues {s : State} {tk : Nat} {t : Task} (ht : issuer? s = some (tk, t)) {h : Reg3} {a b : GReg}
    (k : KReg) (passes : copyFault s t (getH s (gk s) h) (getG s (gk s) a) (getG s (gk s) b) = none) :
    execCpy h a b k s =
      .next (advance (modQueue (tokenStart s k) (clusterOfCore s.issue.core * 12 + shQueue (getH s (gk s) h))
        (fun x => { x with copies := x.copies ++ [queuedCopy s tk t h a b k] }))) := by
  rw [execCpy, withTask_issuer ht]
  simp only [passes, queuedCopy]

theorem getK_tokenStart (s : State) (k : KReg) (q : Nat) (m : KReg) :
    getK (tokenStart s k) q m =
      if q = gk s ∧ m = k then { getK s q m with outstanding := (getK s q m).outstanding + 1 } else getK s q m := by
  rw [tokenStart, getK_setK]
  split
  · next same => rw [same.1, same.2]
  · rfl

/-- A copy put at the end of a queue leaves every queue's halt, and the copies of every other queue. -/
theorem queueAt_appendCopy (s : State) (q j : Nat) (c : Copy) :
    let u := modQueue s q (fun x => { x with copies := x.copies ++ [c] })
    (queueAt u j).halted = (queueAt s j).halted ∧
      (queueAt u j).copies = (queueAt s j).copies ++ if j = q then [c] else [] := by
  dsimp only
  rw [queueAt_modQueue]
  split
  · next same => exact same ▸ ⟨rfl, rfl⟩
  · exact ⟨rfl, (List.append_nil _).symm⟩

/-! ## QFENCE (R214) -/

/-- What a QFENCE of a task waits for: no copy of the group up to its first issue in a queue of the mask (R214). -/
def fenceCond (s : State) (t : Task) (a : GReg) : Cond :=
  .queuesClear t.uid (((groupAt? s (gk s)).map (·.index)).getD 0)
    (((List.range 12).filter (fun n => (getG s (gk s) a).getLsbD n)).map (fun n => clusterOfCore s.issue.core * 12 + n))
    (fenceTime s)

theorem execQfence_whenHolds {s : State} {tk : Nat} {t : Task} (ht : issuer? s = some (tk, t)) (a : GReg) :
    execQfence a s = whenHolds s (fenceCond s t a) (.next (advance s)) := withTask_issuer ht _

theorem condHolds_queuesClear_false (s : State) (uid g : Nat) (qs : List Nat) (b : Nat) :
    condHolds s (.queuesClear uid g qs b) = false ↔
      ∃ e ∈ s.queues, e.1 ∈ qs ∧ ∃ c ∈ e.2.copies, c.tok.uid = uid ∧ c.tok.group = g ∧ c.since ≤ b := by
  simp only [condHolds, groupCopies, Bool.not_eq_false', List.any_eq_true, Bool.and_eq_true, beq_iff_eq,
    List.contains_iff_mem, decide_eq_true_eq]
  constructor
  · rintro ⟨e, listed, c, queued, ⟨uid, group⟩, inMask, since⟩
    exact ⟨e, listed, inMask, c, queued, uid, group, since⟩
  · rintro ⟨e, listed, inMask, c, queued, uid, group, since⟩
    exact ⟨e, listed, c, queued, ⟨uid, group⟩, inMask, since⟩

theorem condHolds_fenceCond_false (s : State) (t : Task) (a : GReg) :
    condHolds s (fenceCond s t a) = false ↔
      ∃ e ∈ s.queues, (∃ n, n < 12 ∧ (getG s (gk s) a).getLsbD n = true ∧ e.1 = clusterOfCore s.issue.core * 12 + n) ∧
        ∃ c ∈ e.2.copies, c.tok.uid = t.uid ∧ c.tok.group = ((groupAt? s (gk s)).map (·.index)).getD 0 ∧
          c.since ≤ fenceTime s := by
  simp only [fenceCond, condHolds_queuesClear_false, List.mem_map, List.mem_filter, List.mem_range, and_assoc,
    @eq_comm _ (_ * 12 + _)]

/-! ## The instructions on copies -/

/-- R205 and R214: CPY and QFENCE. -/
theorem copyIssue : Parts.CopyIssue := by
  intro s h a b k tk t
  dsimp only
  intro ht
  refine ⟨?queued, ?fault, ?invalid, ?clear, ?busy⟩
  case queued =>
    intro passes
    show GoesOn s (execCpy h a b k s) _
    rw [execCpy_queues ht k passes]
    have queues := fun q => queueAt_appendCopy (tokenStart s k)
      (clusterOfCore s.issue.core * 12 + shQueue (getH s (gk s) h)) q (queuedCopy s tk t h a b k)
    refine goesOn_advance rfl rfl fun m => ⟨rfl, getK_tokenStart s k, fun q => (queues q).1, fun q => ?copies⟩
    have copies := (queues q).2
    split
    · next same =>
      rw [if_pos same] at copies
      exact ⟨_, copies, rfl, rfl, rfl, rfl, rfl, rfl, rfl, rfl⟩
    · next other =>
      rw [if_neg other, List.append_nil] at copies
      exact copies
  case fault => exact fun c v => execCpy_fault ht k
  case invalid => exact fun bad => execCpy_fault ht k (copyFault_invalidShape s t _ _ _ bad)
  case clear =>
    intro clear
    show GoesOn s (execQfence a s) _
    rw [execQfence_whenHolds ht, whenHolds_true (by rwa [← Bool.not_eq_false, condHolds_fenceCond_false])]
    exact goesOn_advance rfl rfl fun m => rfl
  case busy =>
    intro busy
    refine ⟨fenceCond s t a, ?_⟩
    show WaitsFor s (execQfence a s) _
    rw [execQfence_whenHolds ht]
    exact whenHolds_false ((condHolds_fenceCond_false s t a).mpr busy) _

/-- Settles O29, from the word that HSET replaces, the copy that CPY queues and the copies that QFENCE waits for. -/
theorem shapesAndCopies : Obligations.ShapesAndCopies := ⟨shapeWord, copyIssue⟩

end Sys2Proof.Machine
end

section
/-! ERET (R255): its check of the level, the two checks of its target, and the strands that it changes. -/

namespace Sys2Proof.Machine

/-! ## The check of the level (R34) -/

theorem not_ult_level {s : State} {p : BitVec 2} {k : Nat} (h : p.toNat ≤ (privOf s k).toNat) :
    (privOf s k).ult p = false := by
  rw [BitVec.ult_eq_decide, decide_eq_false (not_lt.mpr h)]

/-- R34: with every strand of S at the level or above, the instruction goes on. -/
theorem needPrivAt_privileged {s : State} {p : BitVec 2} (h : Privileged s p.toNat) (v : DWord) (go : Out State) :
    needPrivAt s p v go = go := by
  obtain ⟨goes, -⟩ | ⟨k, hk, lower, -⟩ := needPrivAt_cases s p v go
  · exact goes
  · rw [not_ult_level (h k hk)] at lower
    cases lower

/-- R34: the first strand of S below the level raises PRIV. -/
theorem needPrivAt_first_below {s : State} {p : BitVec 2} {k : Nat} {before after : List Nat}
    (listed : active s = before ++ k :: after) (lower : (privOf s k).toNat < p.toNat)
    (reach : ∀ j ∈ before, p.toNat ≤ (privOf s j).toNat) (v : DWord) (go : Out State) :
    needPrivAt s p v go = .next (raiseTrap s cPRIV v k) := by
  have found : below? s p = some k := by
    refine List.find?_eq_some_iff_append.mpr ⟨?_, before, after, listed, fun j hj => ?_⟩
    · rw [BitVec.ult_eq_decide, decide_eq_true lower]
    · rw [not_ult_level (reach j hj)]; rfl
  rw [needPrivAt, found]

/-! ## The checks of the target -/

theorem extractLsb'_0_2_eq_zero (v : DWord) : v.extractLsb' 0 2 = 0 ↔ v.toNat % 4 = 0 := by
  rw [← BitVec.toNat_inj, BitVec.extractLsb'_toNat]
  exact Iff.rfl

/-- A register names an address of the 52-bit space exactly when its bits 63 to 52 are clear. -/
theorem extractLsb'_52_12_eq_zero (v : DWord) : v.extractLsb' 52 12 = 0 ↔ v.toNat < 2 ^ 52 := by
  have := v.isLt
  rw [← BitVec.toNat_inj, BitVec.extractLsb'_toNat, Nat.shiftRight_eq_div_pow]
  show v.toNat / 2 ^ 52 % 2 ^ 12 = 0 ↔ _
  omega

/-! ## The strands of S -/

/-- Changing every strand of S alike changes those strands, each once, and nothing else. -/
theorem modStrands_active_spec (s : State) (f : Strand → Strand) :
    modStrands s (active s) f = { s with strands := (modStrands s (active s) f).strands } ∧
      StrandsAfter s (modStrands s (active s) f) (fun _ => f) := by
  refine ⟨modStrands_rest s _ f, fun k => ?_⟩
  simp only [inS_iff]
  exact get?_modStrands (active s) (active_nodup s) s f k

/-! ## The instruction -/

/-- R255: a target that is not word-aligned raises ALIGN, before its space is looked at. -/
theorem execEret_misaligned {s : State} {a : GReg} {l : BitVec 2} (h : Privileged s l.toNat)
    (misaligned : (getG s (gk s) a).toNat % 4 ≠ 0) :
    execEret a l s = .next (raiseFirst s cALIGN (getG s (gk s) a)) := by
  rw [execEret, needPrivAt_privileged h]
  exact if_pos (bne_iff_ne.mpr (mt (extractLsb'_0_2_eq_zero _).mp misaligned))

/-- R255: past the checks of level and alignment, the space of the target decides. -/
theorem execEret_aligned {s : State} {a : GReg} {l : BitVec 2} (h : Privileged s l.toNat)
    (aligned : (getG s (gk s) a).toNat % 4 = 0) :
    execEret a l s =
      if (getG s (gk s) a).toNat < 2 ^ 52 then
        .next (modStrands s (active s) (fun x => { x with priv := l, pc := (getG s (gk s) a).setWidth 52, wait := .run }))
      else .next (raiseFirst s cPROT (getG s (gk s) a)) := by
  simp only [execEret, needPrivAt_privileged h, (extractLsb'_0_2_eq_zero _).mpr aligned, bne_self_eq_false,
    Bool.false_eq_true, if_false, bne_iff_ne, ne_eq, extractLsb'_52_12_eq_zero, ite_not]

/-- Settles O14, from the check of the level and, past it, the checks of the target. -/
theorem eretReturns : Obligations.EretReturns := by
  intro s a l
  refine ⟨?returns, ?below, fun level => ⟨?misaligned, ?outside⟩⟩
  case returns =>
    intro level aligned inSpace
    exact ⟨_, (execEret_aligned level aligned).trans (if_pos inSpace), modStrands_active_spec s _⟩
  case below =>
    intro k before after listed lower reach
    exact needPrivAt_first_below listed lower reach _ _
  case misaligned => exact execEret_misaligned level
  case outside =>
    intro aligned outside
    exact (execEret_aligned level aligned).trans (if_neg (not_lt.mpr outside))

end Sys2Proof.Machine
end
